-- ==== Sys2Proof/Word.lean ====
section
/-!
DEFINITION. The word types of the machine and their plainest names (R7: bit 0 is the least significant bit; multi-byte
values are little-endian).
-/
namespace Sys2Proof

/-- One byte of storage. -/
abbrev Byte := BitVec 8
/-- One lane of a vector register, one uniform register, one instruction word (R15, R193). -/
abbrev Word := BitVec 32
/-- A register pair (R18), a signature key, an event count. -/
abbrev DWord := BitVec 64
/-- One bit per lane of a strand (R15). -/
abbrev Mask := BitVec 32
/-- The 128 bytes of one cache line, byte i at bits [8i+7:8i] (R103). -/
abbrev LineData := BitVec 1024
/-- One bit per byte of a cache line (R103). -/
abbrev ByteMask := BitVec 128

end Sys2Proof
end

