-- ==== Sys2Proof/Syntax.lean ====
section
/-!
DEFINITION. The abstract syntax: one constructor of `Instr` per row of spec/opcode_table.json.
Rows 0 to 155 are instruction words (chapters 13 to 17); rows 156 to 258 are the device's events, which have no encoding
(chapter 95). Register fields are decoded once, under R16; sub-field codes are decoded to the names of R204 to R212.
-/
namespace Sys2Proof

/-- A 7-bit register field, decoded (R16). -/
inductive Reg where
  | v (n : Fin 96)   -- v0 to v95, seen through the window
  | k (n : Fin 24)   -- k0 to k23
  | g (n : Fin 8)    -- g0 to g7
  deriving DecidableEq, Repr

/-- A guard pg (R19): N and P. -/
structure Guard where
  neg : Bool
  p : Fin 8
  deriving DecidableEq, Repr

/-- A 6-bit pair field of a remote instruction (R199, O6). -/
inductive OPair where
  | v (q : Fin 48)   -- v(2q):v(2q+1)
  | k (q : Fin 12)   -- k(2q):k(2q+1)
  deriving DecidableEq, Repr

/-- The comparison of an integer compare (R204, ICC); the type is a separate flag, signed or not. -/
inductive Cmp where
  | eq | ne | lt | le | gt | ge
  deriving DecidableEq, Repr

/-- The condition of `fcmp` (R204, FCC; R244). -/
inductive FCmp where
  | eq | ne | lt | le | gt | ge | ord | ueq | une | ult | ule | ugt | uge | uno
  deriving DecidableEq, Repr

/-- Access widths (R204, WID). -/
inductive Width where
  | b8 | b16 | b32 | b64 | b128 | s8 | s16
  deriving DecidableEq, Repr

/-- Scopes, from narrow to wide (R106, R204, SC). -/
inductive Scope where
  | str | grp | cls | die | pkg | dom
  deriving DecidableEq, Repr

/-- Atomic operations with their types (R204, OPT). -/
inductive AOp where
  | addS | addN | minS | minN | maxS | maxN | and | or | xor | xchg | cas | fadd
  deriving DecidableEq, Repr

/-- Ordering of an atomic or a fence (R206, R208). -/
inductive AOrd where
  | acq | rel | ar
  deriving DecidableEq, Repr

/-- Operations of `lfold` (R204, FOLD). -/
inductive Fold where
  | add | minS | minN | maxS | maxN | and | or | xor
  deriving DecidableEq, Repr

/-- Conditions of `ptest` (R204, COND). -/
inductive PCond where
  | all | any | one | odd
  deriving DecidableEq, Repr

/-- Rounding modes (R59). -/
inductive RMode where
  | rne | rz | rdn | rup
  deriving DecidableEq, Repr

/-- The other type of a conversion (R207, TY). -/
inductive CvtTy where
  | s32 | n32 | s16 | n16 | s8 | n8 | f16 | bf16 | e4m3 | e5m2
  deriving DecidableEq, Repr

/-- Conditions of `waitc` (R273). -/
inductive WCond where
  | eq | ne | geS | geN | ltS | ltN
  deriving DecidableEq, Repr

/-- Store formats of `mxst` (R286). -/
inductive MFmt where
  | f32 | bf16 | f16 | e4m3 | e5m2
  deriving DecidableEq, Repr

/-- Copy transforms (R291, T). -/
inductive CpyT where
  | none | filig | unfilig | tr
  deriving DecidableEq, Repr

/-- Grants of a fill (R133). -/
inductive GrantKind where
  | S | E | M
  deriving DecidableEq, Repr

/-- Traffic classes (R143). -/
inductive TClass where
  | urgent | express | bulk
  deriving DecidableEq, Repr

/-- Operations of packets (R145). -/
inductive POp where
  | abort | wr | rdreq | rdrsp | atom | atomrsp | ack | close | closeack | coltrig | expred | reddata
  deriving DecidableEq, Repr

/-- A header flit (R144): the transport fields, and bytes 16 to 31, which hold every operation field (R166); bytes 32 to
63 are reserved for every operation. `opcode`, `len`, `rsvd` and `opf` are as received, so a malformed one can be held. `ref` is
the class of the flow that an ACK, CLOSE or CLOSEACK refers to, and `chunk` says that the VA of a collective entry's WR is a
chunk offset (DK = 1): the receiver knows both, and no field of R144 or R166 carries them (log 23). -/
structure Header where
  cls : Nat          -- CLASS of the flit kind (R143)
  vc : Nat
  seq : Nat
  inc : Nat
  new : Bool
  path : Nat
  opcode : Nat
  dst : Nat
  src : Nat
  len : Nat
  space : Nat
  va : Nat
  rsvd : Bool        -- some reserved bit of bytes 0-15 or some unnamed byte of 16-63 is nonzero
  opf : BitVec 128   -- bytes 16-31
  ref : Nat
  chunk : Bool
  deriving DecidableEq, Repr

/-- A packet: its header and its payload bytes, 64 per payload flit (R143). -/
structure Packet where
  hdr : Header
  payload : List Byte
  deriving DecidableEq, Repr

/-- A flit: its 4-bit kind and its 64 bytes, byte 0 lowest (R143). `ref` and `chunk` are what the receiver knows of a header flit beside
its bytes, as in `Header` (log 23). -/
structure Flit where
  kind : BitVec 4
  bytes : BitVec 512
  ref : Nat
  chunk : Bool
  deriving DecidableEq, Repr

/-- The header of a controller request (R319): SEQ, ACK, EPOCH, and whether a reserved byte of the payload is nonzero. -/
structure Req where
  seq : Nat
  ack : Nat
  epoch : Nat
  bad : Bool
  deriving DecidableEq, Repr

/-- A stop identity (R338). -/
structure StopId where
  launch : Nat
  die : Nat
  cluster : Nat
  core : Nat
  slot : Nat
  pc : Nat
  entry : Nat
  deriving DecidableEq, Repr

/-- A capability entry as CAPSET gives it (R347): a window, or a queue pair with the ALLOW field that nothing charges. -/
inductive CapBody where
  | window (dest dspace base len : Nat) (r w a : Bool) (allow : Nat)
  | queuePair (peer pqp lqp allow : Nat)
  deriving DecidableEq, Repr

/-- One finding of the patrol scrub (R358): a sector number and whether it was uncorrectable. -/
structure ScrubFind where
  sector : Nat
  uncorrectable : Bool
  deriving DecidableEq, Repr

/-- An image slot of the boot flash (R365). -/
structure ImageSlot where
  magic : Nat
  version : Nat
  size : Nat
  sig : BitVec 512
  digest : BitVec 512
  reserved : List Byte
  body : List Byte
  deriving DecidableEq, Repr

/-- One standard-transport message that arrives (R142): a request of a remote endpoint, or the end of an access of ours; `again`
goes on with requests that wait for lines. -/
inductive StdMsg where
  | read (src space va n tag : Nat)
  | write (src space va : Nat) (bytes : List Byte) (tag : Nat)
  | atom (src space va : Nat) (op : AOp) (a b : Word) (tag : Nat)
  | done (tag status : Nat) (bytes : List Byte)
  | again
  deriving DecidableEq, Repr

/-- The instructions and events. `sg` is true for a signed type. -/
inductive Instr where
  -- integer and logic (R218)
  | iadd (pg : Guard) (d a b : Reg)
  | isub (pg : Guard) (d a b : Reg)
  | iaddi (pg : Guard) (d a : Reg) (i : BitVec 7)
  | imul (pg : Guard) (d a b : Reg)
  | imad (pg : Guard) (d a b : Reg)
  | imulhi (sg : Bool) (pg : Guard) (d a b : Reg)
  | imulw (sg : Bool) (pg : Guard) (d a b : Reg)
  | iaddSat (sg : Bool) (pg : Guard) (d a b : Reg)
  | isubSat (sg : Bool) (pg : Guard) (d a b : Reg)
  | idiv (sg : Bool) (pg : Guard) (d a b : Reg)
  | irem (sg : Bool) (pg : Guard) (d a b : Reg)
  | imin (sg : Bool) (pg : Guard) (d a b : Reg)
  | imax (sg : Bool) (pg : Guard) (d a b : Reg)
  | iabs (pg : Guard) (d a : Reg)
  | ineg (pg : Guard) (d a : Reg)
  | not (pg : Guard) (d a : Reg)
  | and (pg : Guard) (d a b : Reg)
  | or (pg : Guard) (d a b : Reg)
  | xor (pg : Guard) (d a b : Reg)
  | andn (pg : Guard) (d a b : Reg)
  | shl (pg : Guard) (d a b : Reg)
  | shr (pg : Guard) (d a b : Reg)
  | sar (pg : Guard) (d a b : Reg)
  | shli (pg : Guard) (d a : Reg) (s : BitVec 5)
  | shri (pg : Guard) (d a : Reg) (s : BitVec 5)
  | sari (pg : Guard) (d a : Reg) (s : BitVec 5)
  | popc (pg : Guard) (d a : Reg)
  | clz (pg : Guard) (d a : Reg)
  | ctz (pg : Guard) (d a : Reg)
  | brev (pg : Guard) (d a : Reg)
  | bfx (sg : Bool) (pg : Guard) (d a b : Reg)
  | bfi (pg : Guard) (d a b : Reg)
  | bmix (pg : Guard) (d a b : Reg)
  -- selects, moves, compares, pairs (R221 to R224)
  | sel (pg : Guard) (d a b : Reg)
  | mov (pg : Guard) (d a : Reg)
  | movi (pg : Guard) (d : Reg) (i : BitVec 14)
  | movh (d : Reg) (h : BitVec 18)
  | movs (pg : Guard) (d : Reg) (sel : BitVec 8)
  | icmp (cc : Cmp) (sg : Bool) (pg : Guard) (pd : Fin 8) (a b : Reg)
  | icmpi (cc : Cmp) (sg : Bool) (pg : Guard) (pd : Fin 8) (a : Reg) (i : BitVec 7)
  | add64 (pg : Guard) (d a b : Reg)
  | sub64 (pg : Guard) (d a b : Reg)
  | lea (pg : Guard) (d a : Reg) (s : BitVec 5)
  | shl64 (pg : Guard) (d a b : Reg)
  | shr64 (pg : Guard) (d a b : Reg)
  -- control (R225 to R238)
  | bra (pg : Guard) (disp : BitVec 21)
  | brx (pg : Guard) (a : Reg) (n1 : BitVec 12) (tab : BitVec 32)
  | call (pg : Guard) (disp : BitVec 21)
  | ret (pg : Guard)
  | joinat (disp : BitVec 21)
  | exit (pg : Guard)
  | trap (pg : Guard) (imm : BitVec 16)
  | eret (pg : Guard)
  | yield (pg : Guard)
  | nop (pg : Guard)
  | winb (pg : Guard) (n : BitVec 4)
  | rgn (f1 : Reg) (l1 : BitVec 6) (f2 : Reg) (l2 : BitVec 5)
  | sigchk (imm : BitVec 16)
  | barArv (pg : Guard) (a b : Reg)
  | barWait (pg : Guard) (a : Reg)
  | barSync (pg : Guard) (a b : Reg)
  | gbind (pg : Guard) (n : Fin 8) (a : Reg)
  | gstat (pg : Guard) (pd : Fin 8) (n : Fin 8)
  | gloop (pg : Guard) (n : Fin 8) (dim : BitVec 2) (disp : BitVec 16)
  | rgwait (pg : Guard) (a : Reg) (disp : BitVec 14)
  | rgdone (pg : Guard) (a : Reg)
  | cpyY (pg : Guard) (d a b : Reg) (lab : BitVec 32)
  -- floating point (R240 to R249)
  | fadd (pg : Guard) (d a b : Reg)
  | fsub (pg : Guard) (d a b : Reg)
  | fmul (pg : Guard) (d a b : Reg)
  | ffma (pg : Guard) (d a b : Reg)
  | fdiv (pg : Guard) (d a b : Reg)
  | sqrt (pg : Guard) (d a : Reg)
  | fscale (pg : Guard) (d a b : Reg)
  | fmin (pg : Guard) (d a b : Reg)
  | fmax (pg : Guard) (d a b : Reg)
  | fabs (pg : Guard) (d a : Reg)
  | fneg (pg : Guard) (d a : Reg)
  | fcmp (cc : FCmp) (pg : Guard) (pd : Fin 8) (a b : Reg)
  | frint (rm : Option RMode) (pg : Guard) (d a : Reg)
  | fclass (pg : Guard) (d a : Reg)
  | rcp (pg : Guard) (d a : Reg)
  | rsq (pg : Guard) (d a : Reg)
  | exp2 (pg : Guard) (d a : Reg)
  | log2 (pg : Guard) (d a : Reg)
  | sinpi (pg : Guard) (d a : Reg)
  | cospi (pg : Guard) (d a : Reg)
  | tanh (pg : Guard) (d a : Reg)
  | hadd2 (bf : Bool) (pg : Guard) (d a b : Reg)
  | hmul2 (bf : Bool) (pg : Guard) (d a b : Reg)
  | hfma2 (bf : Bool) (pg : Guard) (d a b : Reg)
  | hmin2 (bf : Bool) (pg : Guard) (d a b : Reg)
  | hmax2 (bf : Bool) (pg : Guard) (d a b : Reg)
  | setfpc (rm : RMode) (ftz : Bool) (pg : Guard)
  -- conversion, quantisation, lanes (R250 to R258)
  | cvt (toF32 : Bool) (ty : CvtTy) (elt : Fin 4) (pg : Guard) (d a : Reg)
  | cvtSat (ty : CvtTy) (elt : Fin 4) (pg : Guard) (d a : Reg)
  | qmx (pg : Guard) (d a : Reg) (sp : Fin 8)
  | qdx (pg : Guard) (d a : Reg) (sp : Fin 8) (dd : BitVec 3)
  | dqmx (pg : Guard) (d a : Reg)
  | dqdx (pg : Guard) (d a : Reg)
  | plane (pg : Guard) (d a : Reg) (n : BitVec 5)
  | xlaneG (pg : Guard) (d a b : Reg)
  | xlaneRot (pg : Guard) (d a b : Reg)
  | xlaneX (pg : Guard) (d a b : Reg)
  | ptest (c : PCond) (pg : Guard) (pd ps : Fin 8)
  | pmask (pg : Guard) (d : Reg) (ps : Fin 8)
  | lfold (op : Fold) (pg : Guard) (d a : Reg)
  | lkey (pg : Guard) (d a : Reg)
  -- memory (R259 to R274)
  | ld (w : Width) (pg : Guard) (d a : Reg) (off7 : BitVec 7) (ext : Option (BitVec 32))
  | st (w : Width) (pg : Guard) (d a : Reg) (off7 : BitVec 7) (ext : Option (BitVec 32))
  | ldB128Signed (w : Width) (pg : Guard) (d a : Reg) (ext : Option (BitVec 32))
  | stB128 (pg : Guard) (d a : Reg) (ext : Option (BitVec 32))
  | ldAcq (w : Width) (sc : Scope) (pg : Guard) (d a : Reg) (ext : Option (BitVec 32))
  | stRel (w : Width) (sc : Scope) (pg : Guard) (d a : Reg) (ext : Option (BitVec 32))
  | ldw (w : Width) (pg : Guard) (d a : Reg) (ext : Option (BitVec 32))
  | lds (w : Width) (pg : Guard) (d a : Reg)
  | sts (w : Width) (pg : Guard) (d a : Reg)
  | ldk (w : Width) (pg : Guard) (d a : Reg) (ext : Option (BitVec 32))
  | atomAddS32 (pg : Guard) (d a b : Reg)
  | atom (op : AOp) (ord : Option (AOrd × Scope)) (pg : Guard) (d a v : Reg)
  | atoms (op : AOp) (pg : Guard) (d a v : Reg)
  | atomsBcast (max sg : Bool) (pg : Guard) (d a v : Reg)
  | pf (pg : Guard) (a : Reg) (ext : Option (BitVec 32))
  | lease (pg : Guard) (d a : Reg)
  | unlease (pg : Guard)
  | wchk (pg : Guard) (pd : Fin 8)
  | waitc (c : WCond) (sc : Scope) (pg : Guard) (d a : Reg)
  | fence (ord : AOrd) (sc : Scope) (pg : Guard)
  | dqpush (pg : Guard) (pd : Fin 8) (d a : Reg)
  | dqpop (pg : Guard) (pd : Fin 8) (d a : Reg)
  | dqsteal (pg : Guard) (pd : Fin 8) (d a : Reg)
  | ctradd (pg : Guard) (d a b : Reg)
  | ctrwait (pg : Guard) (d a b : Reg)
  | ldf (w : Width) (pg : Guard) (d : Reg) (o : OPair) (h : Fin 24)
  | stf (w : Width) (pg : Guard) (d : Reg) (o : OPair) (h : Fin 24)
  | stfUrg (w : Width) (pg : Guard) (d : Reg) (o : OPair) (h : Fin 24)
  | fencef (pg : Guard) (d : Reg) (o : OPair) (h : Fin 24)
  | atomf (op : AOp) (ord : Option AOrd) (pg : Guard) (d : Reg) (o : OPair) (h : Fin 24) (a : Reg)
  | colpost (pg : Guard) (d a : Reg)
  -- sequencer and engines (R278 to R297)
  | mxacq (pg : Guard) (pd : Fin 8) (a : Reg)
  | mxrel (pg : Guard) (a : Reg)
  | mxld (pg : Guard) (d a : Reg)
  | mxst (f : MFmt) (pg : Guard) (d a : Reg)
  | mxclr (pg : Guard) (d a : Reg)
  | sqwait (pg : Guard) (a : Reg)
  | gath (pg : Guard) (d a x : Reg)
  | cpy (out : Bool) (t : CpyT) (pg : Guard) (d a x : Reg)
  | mxmon (pg : Guard) (d : Reg) (c : Fin 8)
  | vwr (pg : Guard) (d a : Reg) (n : Fin 24)
  | vrd (pg : Guard) (d a : Reg) (n : Fin 24)
  | mma (pg : Guard) (d a : Reg) (b : Fin 12) (desc : BitVec 32)
  | mmaSp (pg : Guard) (d a : Reg) (b : Fin 12) (desc : BitVec 32)
  | mmaOl (pg : Guard) (d a : Reg) (b : Fin 12) (desc : BitVec 32) (x : Reg)
  | mmaSpOl (pg : Guard) (d a : Reg) (b : Fin 12) (desc : BitVec 32) (x : Reg)
  | brk (pg : Guard)
  | tick (pg : Guard) (d : Reg)
  -- events of strands, engines and watches; `t` is a thread's number, `e` a split-table entry
  | stallCountExpiry (t e : Nat)
  | splitPark (t e : Nat)
  | monitorRegistration (id : Nat)
  | monitorRetry (id : Nat)
  | copyLanded (t e : Nat)
  | commandStart (gang id : Nat)
  | commandComplete (gang id : Nat)
  | confirm (serial : Nat)
  | watchVerdict (serial : Nat) (strike : Bool)
  | watchTimeout (serial : Nat)
  | leaseExpiry (t : Nat)
  -- messages of the coherence protocol (R133): sender or receiver cache, the server (a home or a peer L2), the line
  | getS (src srv line : Nat)
  | getM (src srv line : Nat)
  | upg (src srv line : Nat)
  | putM (src srv line : Nat) (data : LineData) (mask : ByteMask) (ret : Bool)
  | putC (src srv line : Nat)
  | inv (dst srv line : Nat)
  | fwdS (dst srv line : Nat)
  | fwdM (dst srv line : Nat)
  | data (dst srv line : Nat) (dat : LineData) (ver : BitVec 16) (g : GrantKind) (ret : Bool)
  | grant (dst srv line : Nat) (ver : BitVec 16) (ret : Bool)
  | invAck (src srv line : Nat)
  | snpData (src srv line : Nat) (dat : LineData) (dirty : Bool)
  | wback (dst srv line : Nat)
  | wbstale (dst srv line : Nat)
  -- packets at a receiving port (R145, R148): the port, the packet, the payload flits that have arrived
  | abort (port : Nat) (cls vc : Nat)
  | wr (port : Nat) (p : Packet)
  | rdreq (port : Nat) (p : Packet)
  | rdrsp (port : Nat) (p : Packet)
  | atomPacket (port : Nat) (p : Packet)
  | atomrsp (port : Nat) (p : Packet)
  | ack (port : Nat) (p : Packet)
  | close (port : Nat) (p : Packet)
  | closeack (port : Nat) (p : Packet)
  | coltrig (port : Nat) (p : Packet)
  | expred (port : Nat) (p : Packet)
  | reddata (port : Nat) (p : Packet)
  | linkDown (station : Nat)
  | acknowledgementTimeoutExpiry (src dst : Nat) (cls : TClass)
  | flowIdleClose (src dst : Nat) (cls : TClass)
  | closeResend (src dst : Nat) (cls : TClass)
  | packetLifetimeExpiry (station idx : Nat)
  | entryFire (qp pos : Nat)
  | localCompletion (qp pos : Nat)
  | remoteCompletion (qp pos : Nat)
  -- the Resident's own steps
  | nodeComplete (job node : Nat)
  | gangPlacement
  | ageIntervalExpiry (launch : Nat)
  | drainEscalation (launch : Nat)
  | pagerTimeoutExpiry (token : Nat)
  -- a word that is no instruction, and a flit position of a station
  | illegal (w : Word)
  | flitPosition (station : Nat)
  -- system calls (R348)
  | map (space va size : Nat) (r w x hw : Bool) (home : Nat)
  | unmap (space va size : Nat)
  | protect (space va size : Nat) (r w x : Bool)
  | setmode (space va size : Nat) (hw : Bool)
  | migrate (space va size : Nat)
  | regpager (space va size proc : Nat)
  | supply (space token buf status : Nat)
  | capset (space slot : Nat) (body : CapBody)
  | caprevoke (space slot : Nat)
  | capallow (space slot bytes : Nat)
  | pin (space va size : Nat)
  | unpin (space va size : Nat)
  | qpalloc (space : Nat)
  | qpreset (space qp : Nat)
  | qpfree (space qp : Nat)
  | chunkset (space bytes : Nat)
  | mapexec (space va size token : Nat)
  -- reliability and the module
  | scrubPass (finds : List ScrubFind)
  | spareLaneRemap (core quad lane : Nat)
  | errorCounterClear (unit idx : Nat)
  | powerOn (a b : Option ImageSlot) (failStep : Nat) (downStations : List Nat) (badLanes : List Nat)
  | powerRemoved
  | thermalTrip (die : Nat)
  | thermalDutyStep (temps : List Nat)
  | operatorCap (watts : Nat)
  | attestationReport (nonce : BitVec 256)
  | telemetryBlock (power : Nat) (temps : List Nat)
  | malformedHeaderOrFlit (port : Nat) (f : Flit)
  | linkRetraining (link : Nat)
  | standardTransport (m : StdMsg)
  | processorTimeQuota (token : Nat)
  -- requests of the controller (R320, R323)
  | load (r : Req) (space va size : Nat)
  | unload (r : Req) (kernel : Nat)
  | post (r : Req) (space va : Nat)
  | cancel (r : Req) (kind id unit : Nat)
  | drain (r : Req) (launch : Nat)
  | undrain (r : Req) (launch : Nat)
  | resume (r : Req) (stop : StopId)
  | done (r : Req) (job unit : Nat)
  | sync (r : Req)
  | routeTableEntry (r : Req) (index : Nat) (value : DWord)
  | stationArbitrationRegister (r : Req) (index value : Nat)
  | stationReEnable (r : Req) (index value : Nat)
  | acknowledgementTimeout (r : Req) (index value : Nat)
  | rollbackRetries (r : Req) (index value : Nat)
  | undoLogSize (r : Req) (index value : Nat)
  | scrubInterval (r : Req) (index value : Nat)
  | pagerTimeout (r : Req) (index value : Nat)
  | defaultDrainInterval (r : Req) (index value : Nat)
  | capabilityTableSize (r : Req) (index value : Nat)
  | antiRollbackFloorRaise (r : Req) (index value : Nat)
  deriving DecidableEq, Repr

end Sys2Proof
end

