-- ==== Sys2Proof/WellFormed.lean ====
section
/-!
DEFINITION. Which terms of `Instr` are instructions: the register classes, the pairs and quads, the operand limits and the
guards that R215 makes ILLEGAL otherwise (R18, R21, R24, R29, R199 to R212, R232, R261 to R277). What depends on where an
instruction is issued (R213, R214) is checked at issue, in Machine/Ops.lean. An event has no encoding and is always well formed.
-/
namespace Sys2Proof

/-- Decodes to a v register. -/
def Reg.isV : Reg → Bool
  | .v _ => true
  | _ => false

/-- Decodes to a k register. -/
def Reg.isK : Reg → Bool
  | .k _ => true
  | _ => false

/-- Decodes to a v or a k register: R24 forbids g as a d field. -/
def Reg.isVK : Reg → Bool
  | .g _ => false
  | _ => true

/-- A v pair named by its even register (R18). -/
def Reg.isVPair : Reg → Bool
  | .v n => n.val % 2 == 0
  | _ => false

/-- A k pair named by its even register (R18). -/
def Reg.isKPair : Reg → Bool
  | .k n => n.val % 2 == 0
  | _ => false

/-- A v or k pair (R18). -/
def Reg.isPair (r : Reg) : Bool := r.isVPair || r.isKPair

/-- A v quad (R261). -/
def Reg.isQuad : Reg → Bool
  | .v n => n.val % 4 == 0
  | _ => false

/-- A guard other than N = 1 with P = p0 (R200, R215). -/
def Guard.ok (g : Guard) : Bool := !(g.neg && g.p.val == 0)

/-- Widths .b8 to .b64. -/
def Width.plain : Width → Bool
  | .b8 | .b16 | .b32 | .b64 => true
  | _ => false

/-- Widths .b8 to .b64, .s8 and .s16 (R265, R275). -/
def Width.upTo64 : Width → Bool
  | .b128 => false
  | _ => true

/-- A destination of the width: v, a v pair for .b64, a v quad for .b128 (R261). -/
def Reg.isLoadDst (r : Reg) : Width → Bool
  | .b64 => r.isVPair
  | .b128 => r.isQuad
  | _ => r.isV

/-- Data of a store of the width: v or k, a pair for .b64, a v quad for .b128 (R261). -/
def Reg.isStoreSrc (r : Reg) : Width → Bool
  | .b64 => r.isPair
  | .b128 => r.isQuad
  | _ => r.isVK

/-- A global address: a pair with any offset extension, or a stream with none (R205, R259). -/
def Reg.isAddr (a : Reg) (ext : Option (BitVec 32)) : Bool :=
  match a with
  | .g _ => ext.isNone
  | _ => a.isPair

/-- The element numbers a type allows (R207). -/
def CvtTy.eltOk (ty : CvtTy) (e : Fin 4) : Bool :=
  match ty with
  | .s32 | .n32 | .s16 | .n16 | .s8 | .n8 => e.val == 0
  | .f16 | .bf16 => e.val < 2
  | .e4m3 | .e5m2 => true

/-- The first register of an outlier pair: an even k from k0 to k20 (R283). -/
def Reg.isOutlier : Reg → Bool
  | .k n => n.val % 2 == 0 && n.val ≤ 20
  | _ => false

/-- The well-formed terms. -/
def Instr.wf : Instr → Bool
  | .iadd pg d _ _ | .isub pg d _ _ | .imul pg d _ _ | .imad pg d _ _ | .imulhi _ pg d _ _ | .iaddSat _ pg d _ _
  | .isubSat _ pg d _ _ | .idiv _ pg d _ _ | .irem _ pg d _ _ | .imin _ pg d _ _ | .imax _ pg d _ _ | .and pg d _ _
  | .or pg d _ _ | .xor pg d _ _ | .andn pg d _ _ | .shl pg d _ _ | .shr pg d _ _ | .sar pg d _ _ | .bfx _ pg d _ _
  | .bfi pg d _ _ | .bmix pg d _ _ | .sel pg d _ _ => pg.ok && d.isVK
  | .iaddi pg d _ _ | .iabs pg d _ | .ineg pg d _ | .not pg d _ | .shli pg d _ _ | .shri pg d _ _ | .sari pg d _ _
  | .popc pg d _ | .clz pg d _ | .ctz pg d _ | .brev pg d _ | .mov pg d _ | .movi pg d _ | .movs pg d _ => pg.ok && d.isVK
  | .imulw _ pg d _ _ | .lea pg d _ _ => pg.ok && d.isPair
  | .movh d _ => d.isVK
  | .icmp _ _ pg _ _ _ | .icmpi _ _ pg _ _ _ => pg.ok
  | .add64 pg d a b | .sub64 pg d a b => pg.ok && d.isPair && a.isPair && b.isPair
  | .shl64 pg d a _ | .shr64 pg d a _ => pg.ok && d.isPair && a.isPair
  | .bra pg _ | .call pg _ | .ret pg | .exit pg | .trap pg _ | .eret pg | .yield pg | .nop pg | .winb pg _
  | .brx pg _ _ _ | .barArv pg _ _ | .barWait pg _ | .barSync pg _ _ | .gloop pg _ _ _ => pg.ok
  | .joinat _ | .sigchk _ => true
  | .rgn f1 l1 f2 l2 =>
    f1.isV && f2.isV && l1.toNat ≤ 32 && l1.toNat + l2.toNat ≤ 32
      && (l1.toNat != 0 || f1 == .v 0) && (l2.toNat != 0 || f2 == .v 0)
  | .gbind pg _ a | .rgwait pg a _ | .rgdone pg a => pg.ok && a.isKPair
  | .gstat pg pd _ => pg.ok && 1 ≤ pd.val && pd.val ≤ 4
  | .cpyY pg d a _ _ => pg.ok && d.isVK && a.isPair
  | .fadd pg d _ _ | .fsub pg d _ _ | .fmul pg d _ _ | .ffma pg d _ _ | .fdiv pg d _ _ | .fscale pg d _ _ | .fmin pg d _ _
  | .fmax pg d _ _ | .hadd2 _ pg d _ _ | .hmul2 _ pg d _ _ | .hfma2 _ pg d _ _ | .hmin2 _ pg d _ _ | .hmax2 _ pg d _ _
  | .xlaneG pg d _ _ | .xlaneRot pg d _ _ | .xlaneX pg d _ _ => pg.ok && d.isV
  | .sqrt pg d _ | .fabs pg d _ | .fneg pg d _ | .frint _ pg d _ | .fclass pg d _ | .rcp pg d _ | .rsq pg d _
  | .exp2 pg d _ | .log2 pg d _ | .sinpi pg d _ | .cospi pg d _ | .tanh pg d _ | .qmx pg d _ _ | .dqmx pg d _
  | .dqdx pg d _ | .plane pg d _ _ | .pmask pg d _ | .lkey pg d _ => pg.ok && d.isV
  | .fcmp _ pg _ _ _ | .setfpc _ _ pg | .ptest _ pg _ _ => pg.ok
  | .cvt _ ty e pg d _ => pg.ok && d.isV && ty.eltOk e
  | .cvtSat ty e pg d _ => pg.ok && d.isV && ty.eltOk e
  | .qdx pg d _ _ dd => pg.ok && d.isV && dd != 0
  | .lfold _ pg d _ => pg.ok && d.isK
  | .ld w pg d a off ext => pg.ok && w.plain && d.isLoadDst w && a.isAddr ext && (ext.isNone || off == 0)
      && (a.isPair || off == 0)
  | .st w pg d a off ext => pg.ok && w.plain && d.isStoreSrc w && a.isAddr ext && (ext.isNone || off == 0)
      && (a.isPair || off == 0)
  | .ldB128Signed w pg d a ext => pg.ok && (w == .b128 || w == .s8 || w == .s16) && d.isLoadDst w && a.isAddr ext
  | .stB128 pg d a ext => pg.ok && d.isQuad && a.isAddr ext
  | .ldAcq w _ pg d a ext => pg.ok && w.plain && d.isLoadDst w && a.isAddr ext
  | .stRel w _ pg d a ext => pg.ok && w.plain && d.isStoreSrc w && a.isAddr ext
  | .ldw w pg d a ext => pg.ok && w.upTo64 && d.isLoadDst w && a.isAddr ext
  | .lds w pg d a => pg.ok && d.isLoadDst w && a.isVK
  | .sts w pg d a => pg.ok && w != .s8 && w != .s16 && d.isStoreSrc w && a.isVK
  | .ldk w pg d a _ => pg.ok && ((w == .b32 && d.isK) || (w == .b64 && d.isKPair)) && a.isPair
  | .atomAddS32 pg d a _ => pg.ok && d.isV && a.isPair
  | .atom op ord pg d a _ => pg.ok && d.isV && a.isPair && !(op == .addS && ord.isNone)
  | .atoms _ pg d a _ | .atomsBcast _ _ pg d a _ => pg.ok && d.isV && a.isVK
  | .pf pg a _ => pg.ok && a.isPair
  | .lease pg d a | .waitc _ _ pg d a | .colpost pg d a => pg.ok && d.isVK && a.isPair
  | .unlease pg | .wchk pg _ | .fence _ _ pg | .brk pg => pg.ok
  | .dqpush pg _ d a => pg.ok && d.isPair && a.isVK
  | .dqpop pg _ d a | .dqsteal pg _ d a => pg.ok && d.isVPair && a.isVK
  | .ctradd pg d _ _ | .ctrwait pg d _ _ => pg.ok && d.isVK
  | .ldf w pg d _ _ => pg.ok && w.upTo64 && d.isLoadDst w
  | .stf w pg d _ _ => pg.ok && w.plain && d.isStoreSrc w
  | .stfUrg w pg d _ _ => pg.ok && (w == .b8 || w == .b16 || w == .b32) && d.isVK
  | .fencef pg d _ _ => pg.ok && d.isVK
  | .atomf _ _ pg d _ _ _ => pg.ok && d.isV
  | .mxacq pg _ a | .mxrel pg a | .sqwait pg a => pg.ok && a.isK
  | .mxld pg d a | .mxst _ pg d a => pg.ok && d.isKPair && a.isKPair
  | .mxclr pg d a | .vwr pg d a _ | .vrd pg d a _ => pg.ok && d.isKPair && a.isK
  | .gath pg d a x | .cpy _ _ pg d a x => pg.ok && d.isKPair && a.isKPair && x.isKPair
  | .mxmon pg d _ => pg.ok && (match d with | .k n => n.val ≤ 16 | _ => false)
  | .mma pg d a _ _ | .mmaSp pg d a _ _ => pg.ok && d.isKPair && a.isKPair
  | .mmaOl pg d a _ _ x | .mmaSpOl pg d a _ _ x => pg.ok && d.isKPair && a.isKPair && x.isOutlier
  | .tick pg d => pg.ok && d.isKPair
  | _ => true

end Sys2Proof
end

