-- ==== Sys2Proof/Decode.lean ====
section
/-!
DEFINITION. Decoding an instruction word and its extension words (R193 to R212), total, and the encoder written from the
same tables. An event is no word: the decoder never gives one and the encoder gives the all-zero word for it, which R215
makes ILLEGAL.
-/
namespace Sys2Proof

/-- The fields of R198's F3; every other format is these 32 bits cut in other places. -/
structure Raw where
  op : BitVec 7
  n : BitVec 1
  p : BitVec 3
  d : BitVec 7
  a : BitVec 7
  b : BitVec 7
  deriving DecidableEq, Repr

/-- Cut a word into the fields of F3 (R198). -/
def Raw.ofWord (w : Word) : Raw :=
  { op := w.extractLsb' 25 7, n := w.extractLsb' 24 1, p := w.extractLsb' 21 3,
    d := w.extractLsb' 14 7, a := w.extractLsb' 7 7, b := w.extractLsb' 0 7 }

/-- Join the fields of F3 into a word (R198). -/
def Raw.toWord (r : Raw) : Word := r.op ++ r.n ++ r.p ++ r.d ++ r.a ++ r.b

/-- A 7-bit register field (R16). -/
def Reg.dec (x : BitVec 7) : Reg :=
  if h : x.toNat < 96 then .v ⟨x.toNat, h⟩
  else if h2 : x.toNat < 120 then .k ⟨x.toNat - 96, by omega⟩
  else .g ⟨x.toNat - 120, by have := x.isLt; omega⟩

/-- The field value of a register (R16). -/
def Reg.enc : Reg → BitVec 7
  | .v n => BitVec.ofNat 7 n.val
  | .k n => BitVec.ofNat 7 (n.val + 96)
  | .g n => BitVec.ofNat 7 (n.val + 120)

/-- A 3-bit predicate or stream field. -/
def fin8 (x : BitVec 3) : Fin 8 := ⟨x.toNat, x.isLt⟩

/-- The bits of a predicate or stream number. -/
def bits3 (x : Fin 8) : BitVec 3 := BitVec.ofNat 3 x.val

/-- The guard of a predicated format (R198). -/
def Raw.pg (r : Raw) : Guard := { neg := r.n == 1, p := fin8 r.p }

/-- A k register by number, for the fields that name k0 to k23 by value (R199, R212). -/
def fin24? (n : Nat) : Option (Fin 24) := if h : n < 24 then some ⟨n, h⟩ else none

/-- A pair number of B (R212). -/
def fin12? (n : Nat) : Option (Fin 12) := if h : n < 12 then some ⟨n, h⟩ else none

/-- O6 (R199). -/
def OPair.dec (x : BitVec 6) : Option OPair :=
  if h : x.toNat < 48 then some (.v ⟨x.toNat, h⟩)
  else if h2 : x.toNat < 60 then some (.k ⟨x.toNat - 48, by omega⟩) else none

/-- The bits of O6 (R199). -/
def OPair.enc : OPair → BitVec 6
  | .v q => BitVec.ofNat 6 q.val
  | .k q => BitVec.ofNat 6 (q.val + 48)

/-- WID (R204). -/
def Width.dec (x : BitVec 3) : Option Width :=
  match x.toNat with
  | 0 => some .b8 | 1 => some .b16 | 2 => some .b32 | 3 => some .b64 | 4 => some .b128 | 5 => some .s8 | 6 => some .s16
  | _ => none

/-- The code of WID (R204). -/
def Width.enc : Width → BitVec 3
  | .b8 => 0 | .b16 => 1 | .b32 => 2 | .b64 => 3 | .b128 => 4 | .s8 => 5 | .s16 => 6

/-- LT of R209, where there is no .b128. -/
def Width.decLt (n : Nat) : Option Width :=
  match n with
  | 0 => some .b8 | 1 => some .b16 | 2 => some .b32 | 3 => some .b64 | 4 => some .s8 | 5 => some .s16
  | _ => none

/-- The code of LT (R209). -/
def Width.encLt : Width → BitVec 3
  | .b8 => 0 | .b16 => 1 | .b32 => 2 | .b64 => 3 | .s8 => 4 | .s16 => 5 | .b128 => 7

/-- SC (R204). -/
def Scope.dec (n : Nat) : Option Scope :=
  match n with
  | 0 => some .str | 1 => some .grp | 2 => some .cls | 3 => some .die | 4 => some .pkg | 5 => some .dom
  | _ => none

/-- The code of SC (R204). -/
def Scope.code : Scope → Nat
  | .str => 0 | .grp => 1 | .cls => 2 | .die => 3 | .pkg => 4 | .dom => 5

/-- ICC (R204): the comparison, and whether it is signed: bit 3 says unsigned. -/
def Cmp.dec (x : BitVec 4) : Option (Cmp × Bool) :=
  let c : Option Cmp := match (x.extractLsb' 0 3).toNat with
    | 0 => some .eq | 1 => some .ne | 2 => some .lt
    | 3 => some .le | 4 => some .gt | 5 => some .ge
    | _ => none
  c.map fun c => (c, !x.getLsbD 3)

/-- The code of ICC (R204). -/
def Cmp.enc (c : Cmp) (sg : Bool) : BitVec 4 :=
  let base : BitVec 4 := match c with | .eq => 0 | .ne => 1 | .lt => 2 | .le => 3 | .gt => 4 | .ge => 5
  if sg then base else base + 8

/-- FCC (R204): bit 3 says that unordered operands meet the condition, but for `ord` itself and `uno`. -/
def FCmp.dec (x : BitVec 4) : Option FCmp :=
  let pick (o u : FCmp) : Option FCmp := some (if x.getLsbD 3 then u else o)
  match (x.extractLsb' 0 3).toNat with
  | 0 => pick .eq .ueq | 1 => pick .ne .une | 2 => pick .lt .ult
  | 3 => pick .le .ule | 4 => pick .gt .ugt | 5 => pick .ge .uge
  | 6 => pick .ord .uno
  | _ => none

/-- The code of FCC (R204). -/
def FCmp.enc : FCmp → BitVec 4
  | .eq => 0 | .ne => 1 | .lt => 2 | .le => 3 | .gt => 4 | .ge => 5 | .ord => 6
  | .ueq => 8 | .une => 9 | .ult => 10 | .ule => 11 | .ugt => 12 | .uge => 13 | .uno => 14

/-- OPT (R204). -/
def AOp.dec (n : Nat) : Option AOp :=
  match n with
  | 0 => some .addS | 1 => some .addN | 2 => some .minS | 3 => some .minN | 4 => some .maxS | 5 => some .maxN
  | 6 => some .and | 7 => some .or | 8 => some .xor | 9 => some .xchg | 10 => some .cas | 11 => some .fadd
  | _ => none

/-- The code of OPT (R204). -/
def AOp.code : AOp → Nat
  | .addS => 0 | .addN => 1 | .minS => 2 | .minN => 3 | .maxS => 4 | .maxN => 5
  | .and => 6 | .or => 7 | .xor => 8 | .xchg => 9 | .cas => 10 | .fadd => 11

/-- The index of an ordering (R206, R208). -/
def AOrd.code : AOrd → Nat
  | .acq => 0 | .rel => 1 | .ar => 2

/-- An ordering by its index (R206, R208). -/
def AOrd.dec (n : Nat) : Option AOrd :=
  match n with
  | 0 => some .acq | 1 => some .rel | 2 => some .ar
  | _ => none

/-- The os of R206: 0 for no ordering, else 1 + 6 x ordering + scope. -/
def ordDec (os : Nat) : Option (Option (AOrd × Scope)) :=
  if os = 0 then some none
  else match AOrd.dec ((os - 1) / 6), Scope.dec ((os - 1) % 6) with
    | some o, some s => some (some (o, s))
    | _, _ => none

/-- The os of an ordering (R206). -/
def ordCode : Option (AOrd × Scope) → Nat
  | none => 0
  | some (o, s) => 1 + 6 * o.code + s.code

/-- FOLD (R204). -/
def Fold.dec (x : BitVec 7) : Option Fold :=
  match x.toNat with
  | 0 => some .add | 1 => some .minS | 2 => some .minN | 3 => some .maxS | 4 => some .maxN
  | 5 => some .and | 6 => some .or | 7 => some .xor
  | _ => none

/-- The code of FOLD (R204). -/
def Fold.enc : Fold → BitVec 7
  | .add => 0 | .minS => 1 | .minN => 2 | .maxS => 3 | .maxN => 4 | .and => 5 | .or => 6 | .xor => 7

/-- COND (R204). -/
def PCond.dec (x : BitVec 2) : PCond :=
  match x.toNat with
  | 0 => .all | 1 => .any | 2 => .one | _ => .odd

/-- The code of COND (R204). -/
def PCond.enc : PCond → BitVec 2
  | .all => 0 | .any => 1 | .one => 2 | .odd => 3

/-- A rounding mode by its code (R249). -/
def RMode.dec (x : BitVec 2) : RMode :=
  match x.toNat with
  | 0 => .rne | 1 => .rz | 2 => .rdn | _ => .rup

/-- The code of a rounding mode (R249). -/
def RMode.enc : RMode → BitVec 2
  | .rne => 0 | .rz => 1 | .rdn => 2 | .rup => 3

/-- RM of `frint` (R203): 0 takes the control word. -/
def frintDec (x : BitVec 7) : Option (Option RMode) :=
  match x.toNat with
  | 0 => some none | 1 => some (some .rne) | 2 => some (some .rz) | 3 => some (some .rdn) | 4 => some (some .rup)
  | _ => none

/-- The code of RM (R203). -/
def frintEnc : Option RMode → BitVec 7
  | none => 0 | some .rne => 1 | some .rz => 2 | some .rdn => 3 | some .rup => 4

/-- TY (R207). -/
def CvtTy.dec (x : BitVec 4) : Option CvtTy :=
  match x.toNat with
  | 0 => some .s32 | 1 => some .n32 | 2 => some .s16 | 3 => some .n16 | 4 => some .s8 | 5 => some .n8
  | 6 => some .f16 | 7 => some .bf16 | 8 => some .e4m3 | 9 => some .e5m2
  | _ => none

/-- The code of TY (R207). -/
def CvtTy.enc : CvtTy → BitVec 4
  | .s32 => 0 | .n32 => 1 | .s16 => 2 | .n16 => 3 | .s8 => 4 | .n8 => 5 | .f16 => 6 | .bf16 => 7 | .e4m3 => 8 | .e5m2 => 9

/-- ELT (R207). -/
def fin4 (x : BitVec 2) : Fin 4 := ⟨x.toNat, x.isLt⟩

/-- The condition of `waitc` (R273). -/
def WCond.dec (n : Nat) : Option WCond :=
  match n with
  | 0 => some .eq | 1 => some .ne | 2 => some .geS | 3 => some .geN | 4 => some .ltS | 5 => some .ltN
  | _ => none

/-- The code of the condition of `waitc` (R273). -/
def WCond.code : WCond → Nat
  | .eq => 0 | .ne => 1 | .geS => 2 | .geN => 3 | .ltS => 4 | .ltN => 5

/-- T of `cpy` (R291). -/
def CpyT.dec (n : Nat) : CpyT :=
  match n % 4 with
  | 0 => .none | 1 => .filig | 2 => .unfilig | _ => .tr

/-- The code of T (R291). -/
def CpyT.code : CpyT → Nat
  | .none => 0 | .filig => 1 | .unfilig => 2 | .tr => 3

/-- The format of `mxst` by its xop (R286). -/
def MFmt.dec (n : Nat) : Option MFmt :=
  match n with
  | 3 => some .f32 | 4 => some .bf16 | 5 => some .f16 | 6 => some .e4m3 | 7 => some .e5m2
  | _ => none

/-- The xop of `mxst` (R286). -/
def MFmt.code : MFmt → Nat
  | .f32 => 3 | .bf16 => 4 | .f16 => 5 | .e4m3 => 6 | .e5m2 => 7

/-- A register extension: bits [31:7] zero (R195). -/
def extReg (x : Word) : Option Reg :=
  if x.extractLsb' 7 25 == 0 then some (.dec (x.extractLsb' 0 7)) else none

/-- The word of a register extension (R195). -/
def regExt (r : Reg) : Word := (0 : BitVec 25) ++ r.enc

/-- An optional offset extension (R205). -/
def optExt (exts : List Word) : Option (Option (BitVec 32)) :=
  match exts with
  | [] => some none
  | [x] => some (some x)
  | _ => none

/-- The instruction takes no extension word (R215). -/
def noExt (exts : List Word) (i : Instr) : Option Instr :=
  match exts with
  | [] => some i
  | _ => none

/-- The instruction takes exactly one extension word, a register (R195). -/
def oneReg (exts : List Word) (f : Reg → Instr) : Option Instr :=
  match exts with
  | [x] => (extReg x).map f
  | _ => none

/-- The instruction takes exactly one extension word (R195). -/
def oneExt (exts : List Word) (f : Word → Instr) : Option Instr :=
  match exts with
  | [x] => some (f x)
  | _ => none

/-- Keep a candidate only where its reserved fields are zero (R199, R215). -/
def onlyIf (c : Bool) (i : Option Instr) : Option Instr := if c then i else none

namespace Raw

/-- imm14 of FW and disp14 of FD. -/
def imm14 (r : Raw) : BitVec 14 := r.a ++ r.b
/-- disp21 of FB. -/
def disp21 (r : Raw) : BitVec 21 := r.d ++ r.a ++ r.b
/-- imm16 of FK and disp16 of FG. -/
def imm16 (r : Raw) : BitVec 16 := r.d.extractLsb' 0 2 ++ r.a ++ r.b
/-- Bits [24:0], for the formats without pg. -/
def low25 (r : Raw) : BitVec 25 := r.n ++ r.p ++ r.d ++ r.a ++ r.b
/-- O6 of FM. -/
def o6 (r : Raw) : BitVec 6 := r.imm14.extractLsb' 8 6
/-- H5 of FM. -/
def h5 (r : Raw) : BitVec 5 := r.imm14.extractLsb' 3 5
/-- V3 of FM. -/
def v3 (r : Raw) : BitVec 3 := r.imm14.extractLsb' 0 3
/-- d and a as registers. -/
def rd (r : Raw) : Reg := .dec r.d
def ra (r : Raw) : Reg := .dec r.a
def rb (r : Raw) : Reg := .dec r.b

end Raw

/-- Major 0x61 (R208). -/
def decodeMop (r : Raw) (exts : List Word) : Option Instr :=
  let m := r.b.toNat
  let pg := r.pg
  if m = 0x00 then onlyIf (r.d == 0) ((optExt exts).map fun e => .pf pg r.ra e)
  else if m = 0x01 then onlyIf (r.d == 0 && r.a == 0) (noExt exts (.unlease pg))
  else if m = 0x02 then noExt exts (.lease pg r.rd r.ra)
  else if 0x08 ≤ m ∧ m < 0x10 then onlyIf (r.d == 0 && r.a == 0) (noExt exts (.wchk pg (fin8 (r.b.extractLsb' 0 3))))
  else if 0x20 ≤ m ∧ m < 0x44 then
    match WCond.dec ((m - 0x20) / 6), Scope.dec ((m - 0x20) % 6) with
    | some c, some s => noExt exts (.waitc c s pg r.rd r.ra)
    | _, _ => none
  else if 0x44 ≤ m ∧ m < 0x56 then
    match AOrd.dec ((m - 0x44) / 6), Scope.dec ((m - 0x44) % 6) with
    | some o, some s => onlyIf (r.d == 0 && r.a == 0) (noExt exts (.fence o s pg))
    | _, _ => none
  else if 0x60 ≤ m ∧ m < 0x78 then
    let p := fin8 (r.b.extractLsb' 0 3)
    noExt exts (match m / 8 with
      | 0xC => .dqpush pg p r.rd r.ra
      | 0xD => .dqpop pg p r.rd r.ra
      | _ => .dqsteal pg p r.rd r.ra)
  else none

/-- Major 0x7C (R210). -/
def decode7C (r : Raw) (exts : List Word) : Option Instr :=
  let pg := r.pg
  match r.b.toNat with
  | 0x00 => oneReg exts (.iaddSat true pg r.rd r.ra)
  | 0x01 => oneReg exts (.iaddSat false pg r.rd r.ra)
  | 0x02 => oneReg exts (.isubSat true pg r.rd r.ra)
  | 0x03 => oneReg exts (.isubSat false pg r.rd r.ra)
  | 0x04 => oneReg exts (.idiv true pg r.rd r.ra)
  | 0x05 => oneReg exts (.idiv false pg r.rd r.ra)
  | 0x06 => oneReg exts (.irem true pg r.rd r.ra)
  | 0x07 => oneReg exts (.irem false pg r.rd r.ra)
  | 0x08 => oneReg exts (.imulw true pg r.rd r.ra)
  | 0x09 => oneReg exts (.imulw false pg r.rd r.ra)
  | 0x0A => noExt exts (.iabs pg r.rd r.ra)
  | 0x0B => noExt exts (.ineg pg r.rd r.ra)
  | 0x0C => noExt exts (.not pg r.rd r.ra)
  | 0x0D => noExt exts (.popc pg r.rd r.ra)
  | 0x0E => noExt exts (.clz pg r.rd r.ra)
  | 0x0F => noExt exts (.ctz pg r.rd r.ra)
  | 0x10 => noExt exts (.brev pg r.rd r.ra)
  | 0x11 => oneReg exts (.bfx true pg r.rd r.ra)
  | 0x12 => oneReg exts (.bfx false pg r.rd r.ra)
  | 0x13 => oneReg exts (.bfi pg r.rd r.ra)
  | 0x14 => oneReg exts (.bmix pg r.rd r.ra)
  | 0x15 => oneReg exts (.shl64 pg r.rd r.ra)
  | 0x16 => oneReg exts (.shr64 pg r.rd r.ra)
  | _ => none

/-- Major 0x7D (R211). -/
def decode7D (r : Raw) (exts : List Word) : Option Instr :=
  let pg := r.pg
  match r.b.toNat with
  | 0x00 => noExt exts (.sqrt pg r.rd r.ra)
  | 0x01 => noExt exts (.rcp pg r.rd r.ra)
  | 0x02 => noExt exts (.rsq pg r.rd r.ra)
  | 0x03 => noExt exts (.exp2 pg r.rd r.ra)
  | 0x04 => noExt exts (.log2 pg r.rd r.ra)
  | 0x05 => noExt exts (.sinpi pg r.rd r.ra)
  | 0x06 => noExt exts (.cospi pg r.rd r.ra)
  | 0x07 => noExt exts (.tanh pg r.rd r.ra)
  | 0x08 => noExt exts (.fclass pg r.rd r.ra)
  | 0x09 => oneReg exts (.fscale pg r.rd r.ra)
  | n =>
    if 0x10 ≤ n ∧ n < 0x18 then
      onlyIf (r.d == 0 && r.a == 0)
        (noExt exts (.setfpc (RMode.dec (r.b.extractLsb' 1 2)) (r.b.extractLsb' 0 1 == 1) pg))
    else none

/-- The `.ol` forms take a descriptor, then a register (R212, R283). -/
def twoOl (exts : List Word) (f : Word → Reg → Instr) : Option Instr :=
  match exts with
  | [x, y] => (extReg y).map (f x)
  | _ => none

/-- Major 0x7E below 0x10: the engine commands with no number in MOP (R211). -/
def decodeMx (m : Nat) (r : Raw) (exts : List Word) : Option Instr :=
  match m with
  | 0x00 => onlyIf (r.d.extractLsb' 3 4 == 0) (noExt exts (.mxacq r.pg (fin8 (r.d.extractLsb' 0 3)) r.ra))
  | 0x01 => onlyIf (r.d == 0) (noExt exts (.mxrel r.pg r.ra))
  | 0x02 => noExt exts (.mxld r.pg r.rd r.ra)
  | 0x08 => noExt exts (.mxclr r.pg r.rd r.ra)
  | 0x09 => onlyIf (r.d == 0) (noExt exts (.sqwait r.pg r.ra))
  | 0x0A => oneReg exts (.gath r.pg r.rd r.ra)
  | _ => (MFmt.dec m).bind fun f => noExt exts (.mxst f r.pg r.rd r.ra)

/-- The 24 register numbers of `vwr` from 0x20 on, and then those of `vrd` (R212). -/
def decodeVec (n : Nat) (r : Raw) (exts : List Word) : Option Instr :=
  (fin24? (n % 24)).bind fun x => noExt exts (if n / 24 = 0 then .vwr r.pg r.rd r.ra x else .vrd r.pg r.rd r.ra x)

/-- The twelve pairs of `mma` from 0x50 on, then those of `mma.sp`, `mma.ol` and `mma.sp.ol` (R212). -/
def decodeMma (n : Nat) (r : Raw) (exts : List Word) : Option Instr :=
  (fin12? (n % 12)).bind fun q => match n / 12 with
    | 0 => oneExt exts (.mma r.pg r.rd r.ra q)
    | 1 => oneExt exts (.mmaSp r.pg r.rd r.ra q)
    | 2 => twoOl exts (.mmaOl r.pg r.rd r.ra q)
    | _ => twoOl exts (.mmaSpOl r.pg r.rd r.ra q)

/-- Major 0x7E (R212). -/
def decode7E (r : Raw) (exts : List Word) : Option Instr :=
  let m := r.b.toNat
  if m < 0x10 then decodeMx m r exts
  else if m < 0x18 then oneReg exts (.cpy (m - 0x10 ≥ 4) (CpyT.dec (m - 0x10)) r.pg r.rd r.ra)
  else if m < 0x20 then onlyIf (r.a == 0) (noExt exts (.mxmon r.pg r.rd (fin8 (r.b.extractLsb' 0 3))))
  else if m < 0x50 then decodeVec (m - 0x20) r exts
  else decodeMma (m - 0x50) r exts

/-- Major 0x7F (R212). -/
def decode7F (r : Raw) (exts : List Word) : Option Instr :=
  match r.b.toNat with
  | 0x00 => onlyIf (r.d == 0 && r.a == 0) (noExt exts (.brk r.pg))
  | 0x01 => onlyIf (r.a == 0) (noExt exts (.tick r.pg r.rd))
  | 0x02 => noExt exts (.colpost r.pg r.rd r.ra)
  | _ => none

/-- Majors 0x58 and 0x59: MS = WID[6:4] SC[3:1] A[0] (R205). -/
def decodeMs (store : Bool) (r : Raw) (exts : List Word) : Option Instr :=
  match Width.dec (r.b.extractLsb' 4 3), Scope.dec (r.b.extractLsb' 1 3).toNat, optExt exts with
  | some w, some s, some e =>
    if r.b.extractLsb' 0 1 == 1 then
      some (if store then .stRel w s r.pg r.rd r.ra e else .ldAcq w s r.pg r.rd r.ra e)
    else onlyIf (r.b.extractLsb' 1 3 == 0)
      (if store then (if w == .b128 then some (.stB128 r.pg r.rd r.ra e) else none)
       else some (.ldB128Signed w r.pg r.rd r.ra e))
  | _, _, _ => none

/-- The long `atom` form: J of R206. -/
def decodeAtom (j : Nat) (r : Raw) (exts : List Word) : Option Instr :=
  match AOp.dec (j / 19), ordDec (j % 19) with
  | some op, some ord => oneReg exts (.atom op ord r.pg r.rd r.ra)
  | _, _ => none

/-- `atomf`: AFJ of R209. -/
def decodeAtomf (afj : Nat) (r : Raw) (exts : List Word) : Option Instr :=
  match AOp.dec (afj % 12), OPair.dec r.o6, fin24? r.h5.toNat with
  | some op, some o, some h =>
    if afj / 12 = 0 then oneReg exts (.atomf op none r.pg r.rd o h)
    else match AOrd.dec (afj / 12 - 1) with
      | some ord => oneReg exts (.atomf op (some ord) r.pg r.rd o h)
      | none => none
  | _, _, _ => none

/-- Majors 0x64 and 0x65 (R209). -/
def decodeRemote (store : Bool) (r : Raw) (exts : List Word) : Option Instr :=
  match OPair.dec r.o6, fin24? r.h5.toNat with
  | some o, some h =>
    if store then
      match r.v3.toNat with
      | 0 => noExt exts (.stf .b8 r.pg r.rd o h)
      | 1 => noExt exts (.stf .b16 r.pg r.rd o h)
      | 2 => noExt exts (.stf .b32 r.pg r.rd o h)
      | 3 => noExt exts (.stf .b64 r.pg r.rd o h)
      | 4 => noExt exts (.stfUrg .b8 r.pg r.rd o h)
      | 5 => noExt exts (.stfUrg .b16 r.pg r.rd o h)
      | 6 => noExt exts (.stfUrg .b32 r.pg r.rd o h)
      | _ => noExt exts (.fencef r.pg r.rd o h)
    else (Width.decLt r.v3.toNat).bind fun w => noExt exts (.ldf w r.pg r.rd o h)
  | _, _ => none

/-- Majors 0x6C to 0x7B: control and strand state (R203). -/
def decodeControl (r : Raw) (exts : List Word) : Option Instr :=
  let pg := r.pg
  match r.op.toNat with
  | 0x6C => noExt exts (.bra pg r.disp21)
  | 0x6D => onlyIf (r.d.extractLsb' 5 2 == 0) (oneExt exts (.brx pg r.ra (r.d.extractLsb' 0 5 ++ r.b)))
  | 0x6E => noExt exts (.call pg r.disp21)
  | 0x6F => onlyIf (r.n == 0 && r.p == 0) (noExt exts (.joinat r.disp21))
  | 0x70 => onlyIf (r.disp21 == 0) (noExt exts (.ret pg))
  | 0x71 => onlyIf (r.disp21 == 0) (noExt exts (.exit pg))
  | 0x72 => onlyIf (r.d.extractLsb' 2 5 == 0) (noExt exts (.trap pg r.imm16))
  | 0x73 =>
    onlyIf (r.d == 0 && r.a == 0)
      (match r.b.toNat with
       | 0x00 => noExt exts (.eret pg)
       | 0x01 => noExt exts (.yield pg)
       | 0x02 => noExt exts (.nop pg)
       | n => if 0x10 ≤ n ∧ n < 0x20 then noExt exts (.winb pg (r.b.extractLsb' 0 4)) else none)
  | 0x74 =>
    noExt exts (.rgn (.dec (r.low25.extractLsb' 18 7)) (r.low25.extractLsb' 12 6)
      (.dec (r.low25.extractLsb' 5 7)) (r.low25.extractLsb' 0 5))
  | 0x75 => onlyIf (r.n == 0 && r.p == 0 && r.d.extractLsb' 2 5 == 0) (noExt exts (.sigchk r.imm16))
  | 0x76 => onlyIf (r.imm14.extractLsb' 8 6 == 0) (noExt exts (.movs pg r.rd (r.imm14.extractLsb' 0 8)))
  | 0x77 =>
    onlyIf (r.d.extractLsb' 2 5 == 0)
      (match (r.d.extractLsb' 0 2).toNat with
       | 0 => noExt exts (.barArv pg r.ra r.rb)
       | 1 => onlyIf (r.b == 0) (noExt exts (.barWait pg r.ra))
       | 2 => noExt exts (.barSync pg r.ra r.rb)
       | _ => none)
  | 0x78 =>
    match r.b.toNat with
    | 0 => match r.rd with
      | .g n => noExt exts (.gbind pg n r.ra)
      | _ => none
    | 1 => match r.ra with
      | .g n => onlyIf (r.d.extractLsb' 3 4 == 0) (noExt exts (.gstat pg (fin8 (r.d.extractLsb' 0 3)) n))
      | _ => none
    | 2 => onlyIf (r.d == 0) (noExt exts (.rgdone pg r.ra))
    | _ => none
  | 0x79 => noExt exts (.gloop pg (fin8 (r.d.extractLsb' 4 3)) (r.d.extractLsb' 2 2) r.imm16)
  | 0x7A => noExt exts (.rgwait pg r.rd r.imm14)
  | 0x7B => oneExt exts (.cpyY pg r.rd r.ra r.rb)
  | _ => none

/-- Majors 0x50 to 0x6B: memory and remote access (R203). -/
def decodeMem (r : Raw) (exts : List Word) : Option Instr :=
  let pg := r.pg
  match r.op.toNat with
  | 0x50 => (optExt exts).map fun e => .ld .b8 pg r.rd r.ra r.b e
  | 0x51 => (optExt exts).map fun e => .ld .b16 pg r.rd r.ra r.b e
  | 0x52 => (optExt exts).map fun e => .ld .b32 pg r.rd r.ra r.b e
  | 0x53 => (optExt exts).map fun e => .ld .b64 pg r.rd r.ra r.b e
  | 0x54 => (optExt exts).map fun e => .st .b8 pg r.rd r.ra r.b e
  | 0x55 => (optExt exts).map fun e => .st .b16 pg r.rd r.ra r.b e
  | 0x56 => (optExt exts).map fun e => .st .b32 pg r.rd r.ra r.b e
  | 0x57 => (optExt exts).map fun e => .st .b64 pg r.rd r.ra r.b e
  | 0x58 => decodeMs false r exts
  | 0x59 => decodeMs true r exts
  | 0x5A => onlyIf (r.b.extractLsb' 0 4 == 0)
      (match Width.dec (r.b.extractLsb' 4 3), optExt exts with
       | some w, some e => some (.ldw w pg r.rd r.ra e)
       | _, _ => none)
  | 0x5B => onlyIf (r.b.extractLsb' 0 3 == 0)
      ((Width.dec (r.b.extractLsb' 4 3)).bind fun w =>
        noExt exts (if r.b.extractLsb' 3 1 == 1 then .sts w pg r.rd r.ra else .lds w pg r.rd r.ra))
  | 0x5C => onlyIf (r.b.extractLsb' 0 4 == 0)
      (match Width.dec (r.b.extractLsb' 4 3), optExt exts with
       | some w, some e => some (.ldk w pg r.rd r.ra e)
       | _, _ => none)
  | 0x5D => onlyIf (r.b.extractLsb' 0 2 == 0)
      ((AOp.dec (r.b.extractLsb' 3 4).toNat).bind fun op =>
        if r.b.extractLsb' 2 1 == 1 then
          match op with
          | .minS => oneReg exts (.atomsBcast false true pg r.rd r.ra)
          | .minN => oneReg exts (.atomsBcast false false pg r.rd r.ra)
          | .maxS => oneReg exts (.atomsBcast true true pg r.rd r.ra)
          | .maxN => oneReg exts (.atomsBcast true false pg r.rd r.ra)
          | _ => none
        else oneReg exts (.atoms op pg r.rd r.ra))
  | 0x5E => noExt exts (.atomAddS32 pg r.rd r.ra r.rb)
  | 0x5F => decodeAtom r.b.toNat r exts
  | 0x60 => decodeAtom (128 + r.b.toNat) r exts
  | 0x61 => decodeMop r exts
  | 0x62 => noExt exts (.ctradd pg r.rd r.ra r.rb)
  | 0x63 => noExt exts (.ctrwait pg r.rd r.ra r.rb)
  | 0x64 => decodeRemote false r exts
  | 0x65 => decodeRemote true r exts
  | 0x66 => decodeAtomf r.v3.toNat r exts
  | 0x67 => decodeAtomf (8 + r.v3.toNat) r exts
  | 0x68 => decodeAtomf (16 + r.v3.toNat) r exts
  | 0x69 => decodeAtomf (24 + r.v3.toNat) r exts
  | 0x6A => decodeAtomf (32 + r.v3.toNat) r exts
  | 0x6B => decodeAtomf (40 + r.v3.toNat) r exts
  | _ => none

/-- A shift or bit number held in imm7: 32 to 127 are no instruction (R203, R215). -/
def imm5 (r : Raw) (exts : List Word) (f : BitVec 5 → Instr) : Option Instr :=
  onlyIf (r.b.extractLsb' 5 2 == 0) (noExt exts (f (r.b.extractLsb' 0 5)))

/-- A conversion: CV = ELT[6:5] DIR[4] TY[3:0] (R207). -/
def decodeCvt (sat : Bool) (r : Raw) (exts : List Word) : Option Instr :=
  (CvtTy.dec (r.b.extractLsb' 0 4)).bind fun ty =>
    let e := fin4 (r.b.extractLsb' 5 2)
    if sat then onlyIf (r.b.extractLsb' 4 1 == 0) (noExt exts (.cvtSat ty e r.pg r.rd r.ra))
    else noExt exts (.cvt (r.b.extractLsb' 4 1 == 1) ty e r.pg r.rd r.ra)

/-- Majors 0x01 to 0x48: arithmetic, conversion and lanes (R203). -/
def decodeArith (r : Raw) (exts : List Word) : Option Instr :=
  let pg := r.pg
  match r.op.toNat with
  | 0x01 => noExt exts (.iadd pg r.rd r.ra r.rb)
  | 0x02 => noExt exts (.isub pg r.rd r.ra r.rb)
  | 0x03 => noExt exts (.iaddi pg r.rd r.ra r.b)
  | 0x04 => noExt exts (.imul pg r.rd r.ra r.rb)
  | 0x05 => noExt exts (.imad pg r.rd r.ra r.rb)
  | 0x06 => noExt exts (.imulhi true pg r.rd r.ra r.rb)
  | 0x07 => noExt exts (.imulhi false pg r.rd r.ra r.rb)
  | 0x08 => noExt exts (.and pg r.rd r.ra r.rb)
  | 0x09 => noExt exts (.or pg r.rd r.ra r.rb)
  | 0x0A => noExt exts (.xor pg r.rd r.ra r.rb)
  | 0x0B => noExt exts (.andn pg r.rd r.ra r.rb)
  | 0x0C => noExt exts (.shl pg r.rd r.ra r.rb)
  | 0x0D => noExt exts (.shr pg r.rd r.ra r.rb)
  | 0x0E => noExt exts (.sar pg r.rd r.ra r.rb)
  | 0x0F => imm5 r exts (.shli pg r.rd r.ra)
  | 0x10 => imm5 r exts (.shri pg r.rd r.ra)
  | 0x11 => imm5 r exts (.sari pg r.rd r.ra)
  | 0x12 => noExt exts (.sel pg r.rd r.ra r.rb)
  | 0x13 => onlyIf (r.b == 0) (noExt exts (.mov pg r.rd r.ra))
  | 0x14 => noExt exts (.movi pg r.rd r.imm14)
  | 0x15 => noExt exts (.movh (.dec (r.low25.extractLsb' 18 7)) (r.low25.extractLsb' 0 18))
  | 0x16 => (Cmp.dec (r.d.extractLsb' 3 4)).bind fun c =>
      noExt exts (.icmp c.1 c.2 pg (fin8 (r.d.extractLsb' 0 3)) r.ra r.rb)
  | 0x17 => (Cmp.dec (r.d.extractLsb' 3 4)).bind fun c =>
      noExt exts (.icmpi c.1 c.2 pg (fin8 (r.d.extractLsb' 0 3)) r.ra r.b)
  | 0x18 => noExt exts (.imin true pg r.rd r.ra r.rb)
  | 0x19 => noExt exts (.imin false pg r.rd r.ra r.rb)
  | 0x1A => noExt exts (.imax true pg r.rd r.ra r.rb)
  | 0x1B => noExt exts (.imax false pg r.rd r.ra r.rb)
  | 0x1C => noExt exts (.add64 pg r.rd r.ra r.rb)
  | 0x1D => noExt exts (.sub64 pg r.rd r.ra r.rb)
  | 0x1E => imm5 r exts (.lea pg r.rd r.ra)
  | 0x20 => noExt exts (.fadd pg r.rd r.ra r.rb)
  | 0x21 => noExt exts (.fsub pg r.rd r.ra r.rb)
  | 0x22 => noExt exts (.fmul pg r.rd r.ra r.rb)
  | 0x23 => noExt exts (.ffma pg r.rd r.ra r.rb)
  | 0x24 => noExt exts (.fmin pg r.rd r.ra r.rb)
  | 0x25 => noExt exts (.fmax pg r.rd r.ra r.rb)
  | 0x26 => (FCmp.dec (r.d.extractLsb' 3 4)).bind fun c => noExt exts (.fcmp c pg (fin8 (r.d.extractLsb' 0 3)) r.ra r.rb)
  | 0x27 => (frintDec r.b).bind fun m => noExt exts (.frint m pg r.rd r.ra)
  | 0x28 => onlyIf (r.b == 0) (noExt exts (.fabs pg r.rd r.ra))
  | 0x29 => onlyIf (r.b == 0) (noExt exts (.fneg pg r.rd r.ra))
  | 0x2A => noExt exts (.hadd2 false pg r.rd r.ra r.rb)
  | 0x2B => noExt exts (.hadd2 true pg r.rd r.ra r.rb)
  | 0x2C => noExt exts (.hmul2 false pg r.rd r.ra r.rb)
  | 0x2D => noExt exts (.hmul2 true pg r.rd r.ra r.rb)
  | 0x2E => noExt exts (.hfma2 false pg r.rd r.ra r.rb)
  | 0x2F => noExt exts (.hfma2 true pg r.rd r.ra r.rb)
  | 0x30 => noExt exts (.hmin2 false pg r.rd r.ra r.rb)
  | 0x31 => noExt exts (.hmin2 true pg r.rd r.ra r.rb)
  | 0x32 => noExt exts (.hmax2 false pg r.rd r.ra r.rb)
  | 0x33 => noExt exts (.hmax2 true pg r.rd r.ra r.rb)
  | 0x34 => noExt exts (.fdiv pg r.rd r.ra r.rb)
  | 0x38 => decodeCvt false r exts
  | 0x39 => decodeCvt true r exts
  | 0x3A => onlyIf (r.b.extractLsb' 3 4 == 0) (noExt exts (.qmx pg r.rd r.ra (fin8 (r.b.extractLsb' 0 3))))
  | 0x3B => onlyIf (r.b.extractLsb' 6 1 == 0)
      (noExt exts (.qdx pg r.rd r.ra (fin8 (r.b.extractLsb' 0 3)) (r.b.extractLsb' 3 3)))
  | 0x3C => onlyIf (r.b == 0) (noExt exts (.dqmx pg r.rd r.ra))
  | 0x3D => onlyIf (r.b == 0) (noExt exts (.dqdx pg r.rd r.ra))
  | 0x3E => imm5 r exts (.plane pg r.rd r.ra)
  | 0x40 => noExt exts (.xlaneG pg r.rd r.ra r.rb)
  | 0x41 => noExt exts (.xlaneRot pg r.rd r.ra r.rb)
  | 0x42 => noExt exts (.xlaneX pg r.rd r.ra r.rb)
  | 0x44 => onlyIf (r.d.extractLsb' 3 4 == 0 && r.a.extractLsb' 3 4 == 0 && r.b.extractLsb' 2 5 == 0)
      (noExt exts (.ptest (PCond.dec (r.b.extractLsb' 0 2)) pg (fin8 (r.d.extractLsb' 0 3)) (fin8 (r.a.extractLsb' 0 3))))
  | 0x45 => onlyIf (r.a.extractLsb' 3 4 == 0 && r.b == 0) (noExt exts (.pmask pg r.rd (fin8 (r.a.extractLsb' 0 3))))
  | 0x47 => (Fold.dec r.b).bind fun f => noExt exts (.lfold f pg r.rd r.ra)
  | 0x48 => onlyIf (r.b == 0) (noExt exts (.lkey pg r.rd r.ra))
  | _ => none

/-- The instruction a word and its extension words stand for before the checks of WellFormed (R203). -/
def decodeRaw (r : Raw) (exts : List Word) : Option Instr :=
  let m := r.op.toNat
  if m < 0x50 then decodeArith r exts
  else if m < 0x6C then decodeMem r exts
  else if m < 0x7C then decodeControl r exts
  else if m = 0x7C then decode7C r exts
  else if m = 0x7D then decode7D r exts
  else if m = 0x7E then decode7E r exts
  else decode7F r exts

/-- Keep a well-formed instruction. -/
def keepWf (i : Instr) : Option Instr := if i.wf then some i else none

/-- THE DECODER: an instruction word and the words that XF marks after it in its bundle (R193 to R195). `none`: the word
is no instruction and raises ILLEGAL (R215). -/
def decode (w : Word) (exts : List Word) : Option Instr := (decodeRaw (Raw.ofWord w) exts).bind keepWf

/-- The extension words of a table word: bits 63..32 are the first, bits 95..64 the second. -/
def tableWord (w i : Nat) : Word := BitVec.ofNat 32 (w / 2 ^ (32 * i))

/-- The extension words with which the decoder reads a table word: as many as the instruction takes, at least as many as
`nbits` holds. -/
def tableExts (nbits w : Nat) : List Word :=
  if nbits ≤ 32 ∧ (decode (tableWord w 0) []).isSome then []
  else if nbits ≤ 64 ∧ (decode (tableWord w 0) [tableWord w 1]).isSome then [tableWord w 1]
  else [tableWord w 1, tableWord w 2]

/-- The instruction the decoder reads from a row's bits, numbered as the opcode table numbers them. -/
def decodeTableWord (nbits w : Nat) : Option Instr := decode (tableWord w 0) (tableExts nbits w)

/-! ## The encoder -/

/-- F3 with a guard. -/
def f3 (op : BitVec 7) (pg : Guard) (d a b : BitVec 7) : Raw :=
  { op := op, n := if pg.neg then 1 else 0, p := bits3 pg.p, d := d, a := a, b := b }

/-- A 14-bit payload in a and b (FW, FD, FM). -/
def f14 (op : BitVec 7) (pg : Guard) (d : BitVec 7) (x : BitVec 14) : Raw :=
  f3 op pg d (x.extractLsb' 7 7) (x.extractLsb' 0 7)

/-- A 21-bit payload in d, a and b (FB, FK, FG). -/
def f21 (op : BitVec 7) (pg : Guard) (x : BitVec 21) : Raw :=
  f3 op pg (x.extractLsb' 14 7) (x.extractLsb' 7 7) (x.extractLsb' 0 7)

/-- A 25-bit payload (FH, FR). -/
def f25 (op : BitVec 7) (x : BitVec 25) : Raw :=
  { op := op, n := x.extractLsb' 24 1, p := x.extractLsb' 21 3, d := x.extractLsb' 14 7, a := x.extractLsb' 7 7,
    b := x.extractLsb' 0 7 }

/-- Guard p0. -/
def guard0 : Guard := { neg := false, p := 0 }

/-- FM (R198). -/
def fm (op : BitVec 7) (pg : Guard) (d : Reg) (o : OPair) (h : Fin 24) (v3 : BitVec 3) : Raw :=
  f14 op pg d.enc (o.enc ++ BitVec.ofNat 5 h.val ++ v3)

/-- A predicate field in d. -/
def dPred (hi : BitVec 4) (pd : Fin 8) : BitVec 7 := hi ++ bits3 pd

/-- The list of an optional extension. -/
def extList : Option (BitVec 32) → List Word
  | none => []
  | some x => [x]

/-- A 7-bit sub-operation code. -/
def code7 (n : Nat) : BitVec 7 := BitVec.ofNat 7 n

/-- The bit of a flag. -/
def bit1 (b : Bool) : BitVec 1 := if b then 1 else 0

/-- Major and imm7 of an `atom` (R206). -/
def atomJ (op : AOp) (ord : Option (AOrd × Scope)) : Nat := 19 * op.code + ordCode ord

/-- AFJ of an `atomf` (R209). -/
def atomfJ (op : AOp) (ord : Option AOrd) : Nat :=
  (match ord with | none => 0 | some o => 12 * (o.code + 1)) + op.code

/-- The major of a plain load or store (R203). -/
def widthIx : Width → Nat
  | .b8 => 0 | .b16 => 1 | .b32 => 2 | .b64 => 3 | _ => 0

/-- THE ENCODER: the fields and the extension words of an instruction (R203 to R212). -/
def encodeRaw : Instr → Raw × List Word
  | .iadd pg d a b => (f3 0x01 pg d.enc a.enc b.enc, [])
  | .isub pg d a b => (f3 0x02 pg d.enc a.enc b.enc, [])
  | .iaddi pg d a i => (f3 0x03 pg d.enc a.enc i, [])
  | .imul pg d a b => (f3 0x04 pg d.enc a.enc b.enc, [])
  | .imad pg d a b => (f3 0x05 pg d.enc a.enc b.enc, [])
  | .imulhi sg pg d a b => (f3 (if sg then 0x06 else 0x07) pg d.enc a.enc b.enc, [])
  | .imulw sg pg d a b => (f3 0x7C pg d.enc a.enc (if sg then 0x08 else 0x09), [regExt b])
  | .iaddSat sg pg d a b => (f3 0x7C pg d.enc a.enc (if sg then 0x00 else 0x01), [regExt b])
  | .isubSat sg pg d a b => (f3 0x7C pg d.enc a.enc (if sg then 0x02 else 0x03), [regExt b])
  | .idiv sg pg d a b => (f3 0x7C pg d.enc a.enc (if sg then 0x04 else 0x05), [regExt b])
  | .irem sg pg d a b => (f3 0x7C pg d.enc a.enc (if sg then 0x06 else 0x07), [regExt b])
  | .imin sg pg d a b => (f3 (if sg then 0x18 else 0x19) pg d.enc a.enc b.enc, [])
  | .imax sg pg d a b => (f3 (if sg then 0x1A else 0x1B) pg d.enc a.enc b.enc, [])
  | .iabs pg d a => (f3 0x7C pg d.enc a.enc 0x0A, [])
  | .ineg pg d a => (f3 0x7C pg d.enc a.enc 0x0B, [])
  | .not pg d a => (f3 0x7C pg d.enc a.enc 0x0C, [])
  | .and pg d a b => (f3 0x08 pg d.enc a.enc b.enc, [])
  | .or pg d a b => (f3 0x09 pg d.enc a.enc b.enc, [])
  | .xor pg d a b => (f3 0x0A pg d.enc a.enc b.enc, [])
  | .andn pg d a b => (f3 0x0B pg d.enc a.enc b.enc, [])
  | .shl pg d a b => (f3 0x0C pg d.enc a.enc b.enc, [])
  | .shr pg d a b => (f3 0x0D pg d.enc a.enc b.enc, [])
  | .sar pg d a b => (f3 0x0E pg d.enc a.enc b.enc, [])
  | .shli pg d a s => (f3 0x0F pg d.enc a.enc ((0 : BitVec 2) ++ s), [])
  | .shri pg d a s => (f3 0x10 pg d.enc a.enc ((0 : BitVec 2) ++ s), [])
  | .sari pg d a s => (f3 0x11 pg d.enc a.enc ((0 : BitVec 2) ++ s), [])
  | .popc pg d a => (f3 0x7C pg d.enc a.enc 0x0D, [])
  | .clz pg d a => (f3 0x7C pg d.enc a.enc 0x0E, [])
  | .ctz pg d a => (f3 0x7C pg d.enc a.enc 0x0F, [])
  | .brev pg d a => (f3 0x7C pg d.enc a.enc 0x10, [])
  | .bfx sg pg d a b => (f3 0x7C pg d.enc a.enc (if sg then 0x11 else 0x12), [regExt b])
  | .bfi pg d a b => (f3 0x7C pg d.enc a.enc 0x13, [regExt b])
  | .bmix pg d a b => (f3 0x7C pg d.enc a.enc 0x14, [regExt b])
  | .sel pg d a b => (f3 0x12 pg d.enc a.enc b.enc, [])
  | .mov pg d a => (f3 0x13 pg d.enc a.enc 0, [])
  | .movi pg d i => (f14 0x14 pg d.enc i, [])
  | .movh d h => (f25 0x15 (d.enc ++ h), [])
  | .movs pg d s => (f14 0x76 pg d.enc ((0 : BitVec 6) ++ s), [])
  | .icmp c sg pg pd a b => (f3 0x16 pg (dPred (c.enc sg) pd) a.enc b.enc, [])
  | .icmpi c sg pg pd a i => (f3 0x17 pg (dPred (c.enc sg) pd) a.enc i, [])
  | .add64 pg d a b => (f3 0x1C pg d.enc a.enc b.enc, [])
  | .sub64 pg d a b => (f3 0x1D pg d.enc a.enc b.enc, [])
  | .lea pg d a s => (f3 0x1E pg d.enc a.enc ((0 : BitVec 2) ++ s), [])
  | .shl64 pg d a b => (f3 0x7C pg d.enc a.enc 0x15, [regExt b])
  | .shr64 pg d a b => (f3 0x7C pg d.enc a.enc 0x16, [regExt b])
  | .bra pg x => (f21 0x6C pg x, [])
  | .brx pg a n1 tab => (f3 0x6D pg ((0 : BitVec 2) ++ n1.extractLsb' 7 5) a.enc (n1.extractLsb' 0 7), [tab])
  | .call pg x => (f21 0x6E pg x, [])
  | .ret pg => (f21 0x70 pg 0, [])
  | .joinat x => (f21 0x6F guard0 x, [])
  | .exit pg => (f21 0x71 pg 0, [])
  | .trap pg i => (f21 0x72 pg ((0 : BitVec 5) ++ i), [])
  | .eret pg => (f21 0x73 pg 0, [])
  | .yield pg => (f21 0x73 pg 1, [])
  | .nop pg => (f21 0x73 pg 2, [])
  | .winb pg n => (f3 0x73 pg 0 0 ((1 : BitVec 3) ++ n), [])
  | .rgn f1 l1 f2 l2 => (f25 0x74 (f1.enc ++ l1 ++ f2.enc ++ l2), [])
  | .sigchk i => (f21 0x75 guard0 ((0 : BitVec 5) ++ i), [])
  | .barArv pg a b => (f3 0x77 pg 0 a.enc b.enc, [])
  | .barWait pg a => (f3 0x77 pg 1 a.enc 0, [])
  | .barSync pg a b => (f3 0x77 pg 2 a.enc b.enc, [])
  | .gbind pg n a => (f3 0x78 pg (Reg.enc (.g n)) a.enc 0, [])
  | .gstat pg pd n => (f3 0x78 pg (dPred 0 pd) (Reg.enc (.g n)) 1, [])
  | .rgdone pg a => (f3 0x78 pg 0 a.enc 2, [])
  | .gloop pg n dim x => (f21 0x79 pg (bits3 n ++ dim ++ x), [])
  | .rgwait pg a x => (f14 0x7A pg a.enc x, [])
  | .cpyY pg d a b lab => (f3 0x7B pg d.enc a.enc b.enc, [lab])
  | .fadd pg d a b => (f3 0x20 pg d.enc a.enc b.enc, [])
  | .fsub pg d a b => (f3 0x21 pg d.enc a.enc b.enc, [])
  | .fmul pg d a b => (f3 0x22 pg d.enc a.enc b.enc, [])
  | .ffma pg d a b => (f3 0x23 pg d.enc a.enc b.enc, [])
  | .fdiv pg d a b => (f3 0x34 pg d.enc a.enc b.enc, [])
  | .sqrt pg d a => (f3 0x7D pg d.enc a.enc 0x00, [])
  | .fscale pg d a b => (f3 0x7D pg d.enc a.enc 0x09, [regExt b])
  | .fmin pg d a b => (f3 0x24 pg d.enc a.enc b.enc, [])
  | .fmax pg d a b => (f3 0x25 pg d.enc a.enc b.enc, [])
  | .fabs pg d a => (f3 0x28 pg d.enc a.enc 0, [])
  | .fneg pg d a => (f3 0x29 pg d.enc a.enc 0, [])
  | .fcmp c pg pd a b => (f3 0x26 pg (dPred c.enc pd) a.enc b.enc, [])
  | .frint m pg d a => (f3 0x27 pg d.enc a.enc (frintEnc m), [])
  | .fclass pg d a => (f3 0x7D pg d.enc a.enc 0x08, [])
  | .rcp pg d a => (f3 0x7D pg d.enc a.enc 0x01, [])
  | .rsq pg d a => (f3 0x7D pg d.enc a.enc 0x02, [])
  | .exp2 pg d a => (f3 0x7D pg d.enc a.enc 0x03, [])
  | .log2 pg d a => (f3 0x7D pg d.enc a.enc 0x04, [])
  | .sinpi pg d a => (f3 0x7D pg d.enc a.enc 0x05, [])
  | .cospi pg d a => (f3 0x7D pg d.enc a.enc 0x06, [])
  | .tanh pg d a => (f3 0x7D pg d.enc a.enc 0x07, [])
  | .hadd2 bf pg d a b => (f3 (if bf then 0x2B else 0x2A) pg d.enc a.enc b.enc, [])
  | .hmul2 bf pg d a b => (f3 (if bf then 0x2D else 0x2C) pg d.enc a.enc b.enc, [])
  | .hfma2 bf pg d a b => (f3 (if bf then 0x2F else 0x2E) pg d.enc a.enc b.enc, [])
  | .hmin2 bf pg d a b => (f3 (if bf then 0x31 else 0x30) pg d.enc a.enc b.enc, [])
  | .hmax2 bf pg d a b => (f3 (if bf then 0x33 else 0x32) pg d.enc a.enc b.enc, [])
  | .setfpc m z pg => (f3 0x7D pg 0 0 ((2 : BitVec 4) ++ m.enc ++ bit1 z), [])
  | .cvt f ty e pg d a => (f3 0x38 pg d.enc a.enc (BitVec.ofNat 2 e.val ++ bit1 f ++ ty.enc), [])
  | .cvtSat ty e pg d a => (f3 0x39 pg d.enc a.enc (BitVec.ofNat 2 e.val ++ (0 : BitVec 1) ++ ty.enc), [])
  | .qmx pg d a sp => (f3 0x3A pg d.enc a.enc (dPred 0 sp), [])
  | .qdx pg d a sp x => (f3 0x3B pg d.enc a.enc ((0 : BitVec 1) ++ x ++ bits3 sp), [])
  | .dqmx pg d a => (f3 0x3C pg d.enc a.enc 0, [])
  | .dqdx pg d a => (f3 0x3D pg d.enc a.enc 0, [])
  | .plane pg d a n => (f3 0x3E pg d.enc a.enc ((0 : BitVec 2) ++ n), [])
  | .xlaneG pg d a b => (f3 0x40 pg d.enc a.enc b.enc, [])
  | .xlaneRot pg d a b => (f3 0x41 pg d.enc a.enc b.enc, [])
  | .xlaneX pg d a b => (f3 0x42 pg d.enc a.enc b.enc, [])
  | .ptest c pg pd ps => (f3 0x44 pg (dPred 0 pd) (dPred 0 ps) ((0 : BitVec 5) ++ c.enc), [])
  | .pmask pg d ps => (f3 0x45 pg d.enc (dPred 0 ps) 0, [])
  | .lfold op pg d a => (f3 0x47 pg d.enc a.enc op.enc, [])
  | .lkey pg d a => (f3 0x48 pg d.enc a.enc 0, [])
  | .ld w pg d a off ext => (f3 (code7 (0x50 + widthIx w)) pg d.enc a.enc off, extList ext)
  | .st w pg d a off ext => (f3 (code7 (0x54 + widthIx w)) pg d.enc a.enc off, extList ext)
  | .ldB128Signed w pg d a ext => (f3 0x58 pg d.enc a.enc (w.enc ++ (0 : BitVec 4)), extList ext)
  | .stB128 pg d a ext => (f3 0x59 pg d.enc a.enc (Width.b128.enc ++ (0 : BitVec 4)), extList ext)
  | .ldAcq w s pg d a ext =>
    (f3 0x58 pg d.enc a.enc (w.enc ++ BitVec.ofNat 3 s.code ++ (1 : BitVec 1)), extList ext)
  | .stRel w s pg d a ext =>
    (f3 0x59 pg d.enc a.enc (w.enc ++ BitVec.ofNat 3 s.code ++ (1 : BitVec 1)), extList ext)
  | .ldw w pg d a ext => (f3 0x5A pg d.enc a.enc (w.enc ++ (0 : BitVec 4)), extList ext)
  | .lds w pg d a => (f3 0x5B pg d.enc a.enc (w.enc ++ (0 : BitVec 4)), [])
  | .sts w pg d a => (f3 0x5B pg d.enc a.enc (w.enc ++ (8 : BitVec 4)), [])
  | .ldk w pg d a ext => (f3 0x5C pg d.enc a.enc (w.enc ++ (0 : BitVec 4)), extList ext)
  | .atomAddS32 pg d a b => (f3 0x5E pg d.enc a.enc b.enc, [])
  | .atom op ord pg d a v =>
    (f3 (code7 (0x5F + atomJ op ord / 128)) pg d.enc a.enc (code7 (atomJ op ord % 128)), [regExt v])
  | .atoms op pg d a v => (f3 0x5D pg d.enc a.enc (BitVec.ofNat 4 op.code ++ (0 : BitVec 3)), [regExt v])
  | .atomsBcast mx sg pg d a v =>
    (f3 0x5D pg d.enc a.enc
      (BitVec.ofNat 4 ((if mx then 4 else 2) + (if sg then 0 else 1)) ++ (4 : BitVec 3)), [regExt v])
  | .pf pg a ext => (f3 0x61 pg 0 a.enc 0, extList ext)
  | .lease pg d a => (f3 0x61 pg d.enc a.enc 2, [])
  | .unlease pg => (f3 0x61 pg 0 0 1, [])
  | .wchk pg pd => (f3 0x61 pg 0 0 ((1 : BitVec 4) ++ bits3 pd), [])
  | .waitc c s pg d a => (f3 0x61 pg d.enc a.enc (code7 (0x20 + 6 * c.code + s.code)), [])
  | .fence o s pg => (f3 0x61 pg 0 0 (code7 (0x44 + 6 * o.code + s.code)), [])
  | .dqpush pg pd d a => (f3 0x61 pg d.enc a.enc ((0xC : BitVec 4) ++ bits3 pd), [])
  | .dqpop pg pd d a => (f3 0x61 pg d.enc a.enc ((0xD : BitVec 4) ++ bits3 pd), [])
  | .dqsteal pg pd d a => (f3 0x61 pg d.enc a.enc ((0xE : BitVec 4) ++ bits3 pd), [])
  | .ctradd pg d a b => (f3 0x62 pg d.enc a.enc b.enc, [])
  | .ctrwait pg d a b => (f3 0x63 pg d.enc a.enc b.enc, [])
  | .ldf w pg d o h => (fm 0x64 pg d o h w.encLt, [])
  | .stf w pg d o h => (fm 0x65 pg d o h (BitVec.ofNat 3 (widthIx w)), [])
  | .stfUrg w pg d o h => (fm 0x65 pg d o h (BitVec.ofNat 3 (4 + widthIx w)), [])
  | .fencef pg d o h => (fm 0x65 pg d o h 7, [])
  | .atomf op ord pg d o h a =>
    (fm (code7 (0x66 + atomfJ op ord / 8)) pg d o h (BitVec.ofNat 3 (atomfJ op ord % 8)), [regExt a])
  | .colpost pg d a => (f3 0x7F pg d.enc a.enc 2, [])
  | .mxacq pg pd a => (f3 0x7E pg (dPred 0 pd) a.enc 0x00, [])
  | .mxrel pg a => (f3 0x7E pg 0 a.enc 0x01, [])
  | .mxld pg d a => (f3 0x7E pg d.enc a.enc 0x02, [])
  | .mxst f pg d a => (f3 0x7E pg d.enc a.enc (code7 f.code), [])
  | .mxclr pg d a => (f3 0x7E pg d.enc a.enc 0x08, [])
  | .sqwait pg a => (f3 0x7E pg 0 a.enc 0x09, [])
  | .gath pg d a x => (f3 0x7E pg d.enc a.enc 0x0A, [regExt x])
  | .cpy out t pg d a x => (f3 0x7E pg d.enc a.enc (code7 (0x10 + (if out then 4 else 0) + t.code)), [regExt x])
  | .mxmon pg d c => (f3 0x7E pg d.enc 0 (code7 (0x18 + c.val)), [])
  | .vwr pg d a n => (f3 0x7E pg d.enc a.enc (code7 (0x20 + n.val)), [])
  | .vrd pg d a n => (f3 0x7E pg d.enc a.enc (code7 (0x38 + n.val)), [])
  | .mma pg d a b x => (f3 0x7E pg d.enc a.enc (code7 (0x50 + b.val)), [x])
  | .mmaSp pg d a b x => (f3 0x7E pg d.enc a.enc (code7 (0x5C + b.val)), [x])
  | .mmaOl pg d a b x y => (f3 0x7E pg d.enc a.enc (code7 (0x68 + b.val)), [x, regExt y])
  | .mmaSpOl pg d a b x y => (f3 0x7E pg d.enc a.enc (code7 (0x74 + b.val)), [x, regExt y])
  | .brk pg => (f3 0x7F pg 0 0 0, [])
  | .tick pg d => (f3 0x7F pg d.enc 0 1, [])
  | _ => (f3 0 guard0 0 0 0, [])

/-- The words of an instruction: its word, then its extension words. -/
def encode (i : Instr) : Word × List Word := ((encodeRaw i).1.toWord, (encodeRaw i).2)

/-- Does a constructor have an encoding? The events of rows 156 to 258 have none. -/
def Instr.hasWord (i : Instr) : Bool := (encodeRaw i).1.op != 0

end Sys2Proof
end

