-- ==== Sys2Proof/Config.lean ====
section
/-!
DEFINITION. What an implementation fixes and the free values. Every constant here is OPAQUE: no proof can see a value of
it, so a theorem holds whatever the hardware does there. Log entries 1, 8, 10, 13, 15, 24 and 98 of notes/assumptions name them.
-/
namespace Sys2Proof

/-- An error in a storage (R352): `hard` one that SEC-DED does not correct. Words are 64 bits. Of a strand or context: a word of its
registers, numbered as in its poison, with the lane whose slice it is; or a word of its split table or Loupe. Of a core: a word of its
scratchpad, its accumulator store, a line of its L1. Of a die: a word of an L2 line. Of the hub: a word of the chunk buffer, or of a packet
that a source end keeps. Of HBM4E: a symbol of a sector's codeword, and by what it is changed. -/
inductive Upset where
  | regs (t word lane : Nat) (hard : Bool)
  | table (t word : Nat) (hard : Bool)
  | scratch (core word : Nat) (hard : Bool)
  | acc (core word : Nat) (hard : Bool)
  | l1 (core line word : Nat) (hard : Bool)
  | l2 (die line word : Nat) (hard : Bool)
  | chunk (word : Nat) (hard : Bool)
  | retry (src dst seq word : Nat) (hard : Bool)
  | hbm (sector pos : Nat) (by' : Byte)
  deriving DecidableEq, Repr

end Sys2Proof

namespace Sys2Proof.Config

/-- Which of several things that may happen next does happen (message arrivals, command completions, the order of units in
a cycle): applied to a plain counter of State (log 1). -/
opaque choose : Nat → Nat
/-- Which line a full L1 gives up for a fill; the L1's sets and replacement are not in the spec (log 13). -/
opaque victim : Nat → Nat
/-- Which line, if any, an L1 or a home slice gives up in a cycle without being asked (log 13). -/
opaque evict : Nat → Nat
/-- The cycles, less one, after which an L1 gives the stores that it holds to L2 at the latest (R107; log 13). -/
opaque sweep : Nat
/-- How often a message on its way may be passed over before it arrives (R107; log 1). -/
opaque patience : Nat
/-- The error, if any, that the storages suffer in a cycle (R352; log 98). -/
opaque upset : Nat → Option Upset
/-- The defective lane, if any, that the self-test after a remap finds: its quadrant and its number (R362; log 98). -/
opaque laneTest : Nat → Option (Nat × Nat)
/-- The power that the module draws, as its telemetry gives it (R371; log 15). -/
opaque power : Nat → Nat
/-- The Ultra Ethernet port that the configuration of an image names, by its DIGEST (R319, R365; log 8). -/
opaque portOf : BitVec 512 → Nat
/-- The duty value D that the Resident computes from a power cap in watts (R369; log 8). -/
opaque capDuty : Nat → Nat
/-- SHA-512 (R365; log 8). -/
opaque sha512 : List Byte → BitVec 512
/-- Ed25519 verification: key, message, signature (R365, R367; log 8). -/
opaque ed25519Verify : BitVec 256 → List Byte → BitVec 512 → Bool
/-- Ed25519 signature under a secret key (R367; log 8). -/
opaque ed25519Sign : BitVec 256 → List Byte → BitVec 512
/-- The public half of a secret key (R367; log 8). -/
opaque ed25519Public : BitVec 256 → BitVec 256
/-- The secret derived from the device secret alone, or from it and an image DIGEST (R367; log 8). -/
opaque deriveKey : BitVec 256 → Option (BitVec 512) → BitVec 256
/-- The device secret fused at manufacture (R367; log 8). -/
opaque deviceSecret : BitVec 256
/-- The vendor key whose digest is fused in the hub (R365; log 8). -/
opaque vendorKey : BitVec 256
/-- Has each instruction of a portable form the types and the operands of its row, so that the Acier translator accepts it (R306, R307;
log 10)? -/
opaque acierAccepted : List Byte → Bool
/-- Which `atomf` operations, by the number 4 × AOP + TYPE, the UALink 1.0 transaction layer defines (R142; log 24). -/
opaque stdAtomic : Nat → Bool

end Sys2Proof.Config
end

