-- ==== Sys2Proof/Machine/State.lean ====
section
/-!
DEFINITION. The state of the machine: one package, as plain data. Every piece of state that the spec names is a field here
(INVENTORY.md, '## State', lists each with its rule and its reset value). Maps are lists of key and value pairs with keys
rising and no entry equal to the default (Machine/Maps.lean).
-/
namespace Sys2Proof.Machine

/-- Why a step may stop with a fault. The faults of the SPEC (R351) are next states of this machine and not these. -/
inductive Fault where
  /-- Raised by `exec` on an instruction word when no split and no context is issuing (the issuer latch is empty). `step`
  never raises it: it fills the latch before it calls `exec`. Safe: the model stops where no instruction is issued. -/
  | noIssuer
  deriving DecidableEq, Repr

/-- Why a step may refuse. -/
inductive Refusal where
  /-- Raised by an arm of `exec` that has no meaning yet, with the row's mnemonic. Safe: nothing is claimed of it. -/
  | notModelled (mnemonic : String)
  deriving DecidableEq, Repr

/-- A sparse map: keys rising, no default entries. -/
abbrev SMap (α : Type) := List (Nat × α)

/-! ## Strands and contexts -/

/-- A bound stream (R235, R236): BASE, NDIM (dimensions minus one), and per dimension extent, stride, index, end flag. -/
structure Stream where
  base : Nat
  ndim : Nat
  ext : List Nat
  str : List Word
  idx : List Nat
  ended : List Bool
  deriving DecidableEq, Repr

/-- A deferred set (R33): PC, lanes, top join record, and whether it came out of the trap handler (R45). -/
structure DSet where
  pc : Nat
  mask : Mask
  top : Option Nat
  inH : Bool
  deriving DecidableEq, Repr

/-- What a split waits for (R43). `leaves`: resuming at the label leaves a bundle that marks the strand yielding (R194). -/
inductive Wait where
  | bar (x : Nat) (target : Bool)
  | mon (id : Nat)
  | copy (dst src len lab pc : Nat) (leaves : Bool)
  | region (desc : DWord) (lab : Nat) (leaves : Bool)
  deriving DecidableEq, Repr

/-- A fault that waits for the trap handler (R45): its place in the order, code, %faultpc and %faultinfo. -/
structure Held where
  order : Nat
  code : Nat
  pc : Nat
  info : Word
  deriving DecidableEq, Repr

/-- A split-table entry (R33), with the split's stall (R196), signature (R233), hold of R45 and stop of R296. `stall` is
the cycle before which the split issues nothing, or 0. `mix`: a SCOPEMIX of its wake-up still to report: the address, the
release's scope, the acquire's, the `waitc` (R117). -/
structure Split where
  valid : Bool
  pc : Nat
  mask : Mask
  top : Option Nat
  inH : Bool
  wait : Option Wait
  held : Option Held
  queue : List DSet
  stall : Nat
  sig : BitVec 16
  stopped : Bool
  mix : Option (Nat × Nat × Nat × Nat)
  deriving DecidableEq, Repr

/-- A join record (R33, R34). `inH`: the parked lanes that are in the trap handler (R45). -/
structure JoinRec where
  used : Bool
  addr : Nat
  recorded : Mask
  parked : Mask
  inH : Mask
  count : Nat
  below : Option Nat
  deriving DecidableEq, Repr

/-- Where a pending result lands (R201, R231): an absolute main-file register, a k register, a predicate. -/
inductive PDst where
  | v (abs : Nat)
  | k (n : Nat)
  | p (n : Nat)
  deriving DecidableEq, Repr

/-- A class A, B or C result not yet written (R201, R202): its lanes, its values, the lanes of the split that issued it,
and the cycle in which it is written. -/
structure Pend where
  due : Nat
  dst : PDst
  lanes : Mask
  vals : List Word
  split : Mask
  deriving DecidableEq, Repr

/-- A destination that waits for a remote answer (R201 class V; R153): registers of these lanes under this access number, and
the width of the access. `hold`: its lanes, `all` of them, wait whole, for the acquire half of an `atomf` (R142, R275). -/
structure RemDst where
  acc : Nat
  abs : List Nat
  lanes : Mask
  all : Mask
  width : Width
  hold : Bool
  deriving DecidableEq, Repr

/-- A Loupe entry (R121). `serial` names its confirm request (log 11). -/
structure Loupe where
  line : Nat          -- virtual address bits [47:7]
  pline : Nat         -- the physical line, where its home is
  fver : BitVec 16
  stamp : Nat
  mask : Mask
  struck : Bool       -- STATE: pending or struck; a free entry is not listed
  serial : Nat
  since : Nat         -- the cycle of the ldw's issue (R122)
  deriving DecidableEq, Repr

/-- A Clasp lease (R130): the strand that holds it, by number and incarnation, its core, gang and group, the line, and the cycle in
which it ends. It outlives its strand until its group ends. -/
structure Lease where
  t : Nat
  uid : Nat
  cid : Nat
  gang : Nat
  group : Nat
  line : Nat
  until' : Nat
  deriving DecidableEq, Repr

/-- A strand (R15, R27) or, with `seq`, a sequencer context (R29), which is one lane with one entry. -/
structure Thread where
  seq : Bool
  uid : Nat
  die : Nat
  cluster : Nat
  core : Nat          -- core in cluster; 0 in a context
  quad : Nat
  slot : Nat          -- strand slot of the quadrant, or context number
  space : Nat
  launch : Nat        -- %launch
  gang : Nat          -- the gang's number in `gangs`
  group : Nat
  strand : Nat
  rbase : Nat         -- first register of the allocation in the quadrant's main file (R336)
  regs : Nat          -- %regs
  splits : List Split
  recs : List JoinRec
  v : SMap Word       -- key 32 x absolute index + lane
  k : List Word
  p : List Mask
  streams : List (Option Stream)
  winBase : Nat
  region : Option (Nat × Nat × Nat × Nat)
  staged : Bool
  rm : RMode
  ftz : Bool
  pend : List Pend
  rem : List RemDst
  fault : Byte
  faultpc : Nat
  faultinfo : Word
  av : BitVec 32
  ap : BitVec 32
  loupe : List Loupe
  yielding : Bool
  poison : List Nat   -- poisoned 64-bit words of the v file (key 16 x absolute index + lane / 2), k words from 2^20 (R353)
  deriving DecidableEq, Repr

/-! ## Gangs, engines, cores -/

/-- A queued command with the operands read at its posting (R278, R280). `src` of a `colpost`: the footprint of its entry's source. -/
inductive CmdOp where
  | mma (sp ol : Bool) (c a b : DWord) (desc : Word) (olr : DWord) (n : Word)
  | mxld (c r : DWord)
  | mxst (f : MFmt) (r c : DWord)
  | mxclr (c : DWord) (core : Nat)
  | cpy (out : Bool) (t : CpyT) (rg gp cc : DWord)
  | gath (rd gp ri : DWord)
  | place (wr : Bool) (rg : DWord) (group n : Word)
  | colpost (h : Word) (va : Nat) (src : List (Nat × Nat × Nat))
  deriving DecidableEq, Repr

/-- A command of a region queue (R82, R83): its number, its address in the sequencer stream, whether it has started and
when, the `rgdone` count of a placeholder, and what the command read at its start: the index list of a `gath`, the pair codes of
a sparse `mma`, then its outlier entries (R88, R89, R293); and whether that was poisoned. `since`: before its start, the cycle of its
posting. -/
structure Cmd where
  id : Nat
  op : CmdOp
  pc : Nat
  started : Bool
  since : Nat
  count : Nat
  read : List Nat
  bad : Bool
  deriving DecidableEq, Repr

/-- A group of a gang (R47, R77, R234). -/
structure Grp where
  core : Nat          -- core in cluster
  scratch : Nat       -- first byte of its scratchpad allocation on the core
  bars : Nat          -- first of its barriers on the core
  live : Nat          -- strands not yet ended
  deriving DecidableEq, Repr

/-- A fault of a queued command, or a precise fault of the context, to be reported when the rest of the queue has completed (R90):
the code, the command's number in posting order, its stream address, ADDR, INFO, AUX0 and AUX1, and the cycle of the fault. -/
structure EFault where
  code : Nat
  cmd : Nat
  pc : Nat
  addr : Nat
  info : Nat
  aux0 : Nat
  aux1 : Nat
  precise : Bool
  at' : Nat
  deriving DecidableEq, Repr

/-- A gang (R77). -/
structure Gang where
  launch : Nat
  index : Nat
  die : Nat
  cluster : Nat
  ctx : Nat
  groups : List Grp
  size : Nat          -- bytes of each group's scratchpad allocation (R47)
  nbars : Nat
  queue : List Cmd
  nextCmd : Nat
  ctxEnded : Bool
  efault : Option EFault
  failed : Option Nat -- the code of a fault of one of its strands, recorded already (R350)
  killed : Bool       -- its strands and context have been ended by a fault or a cancel
  counts : Bool       -- its end counts in DONE: false of an attempt that rollback discards (R361)
  deriving DecidableEq, Repr

/-- A named barrier (R234). -/
structure Bar where
  arr : Nat
  cnt : Nat
  ph : Bool
  deriving DecidableEq, Repr

/-- A matrix engine: the gang that holds it, whether a release is pending after which command, and the eight monitors in
the order of R102. -/
structure Engine where
  holder : Option Nat
  release : Option Nat
  mon : List Word
  deriving DecidableEq, Repr

/-- States of R134. -/
inductive CSt where
  | I | IS_D | IM_D | S | SM_A | E | M | O | OM_A | EI_A | MI_A | MS_A | I_A
  deriving DecidableEq, Repr

/-- The recorded release of the scope check (R117): its scope code, the instances of its thread (strand key or none, gang
and group, cluster, die), and the cycle of the write. -/
structure Rel where
  scope : Nat
  strand : Nat
  gang : Nat
  group : Nat
  cluster : Nat
  die : Nat
  at' : Nat
  deriving DecidableEq, Repr

/-- A line of an L1 or of a peer L2 (R103, R119, R134). `sw`: an untracked copy of a SW page. `filled`: the clean bytes
are valid. `kept`: clean bytes that are valid although the line was never filled: those that a release wrote back (R106).
`stale`: a fill on its way when its core performed an acquire, which serves only the access that asked for it (R106). `asker`: the
access that asked for the line, until it has been performed (R132, R140). `who`: the node that wrote each dirty byte (R359). -/
structure Line where
  st : CSt
  sw : Bool
  filled : Bool
  kept : ByteMask
  stale : Bool
  data : LineData
  dirty : ByteMask
  ret : Bool
  ver : BitVec 16
  stamp : Nat
  asker : Option Nat
  pois : BitVec 4
  who : SMap Nat
  owner : Option Nat      -- at a peer L2: the L1 of its die that owns the line
  sharers : List Nat      -- at a peer L2: its L1s that hold it shared
  waiting : List (Nat × Nat)  -- at a peer L2: requests of its L1s held (L1, kind 0 GetS 1 GetM 2 Upg)
  cur : Option (Nat × Nat)    -- at a peer L2: the one in service; kinds 5, 6 and 7 are the home's FwdS, FwdM and Inv
  acks : List Nat             -- at a peer L2: its L1s whose answers are awaited
  rel : Option Rel
  deriving DecidableEq, Repr

/-- A compute core (R12, R103). `laneErrs`: the corrected errors of its quadrants' register slices in the last hour, as quadrant, lane and
cycle (R362). -/
structure Core where
  l1 : SMap Line
  scratch : SMap Byte
  acc : SMap Word
  engine : Engine
  bars : SMap Bar
  excluded : Bool         -- out of placement while its lanes are remapped (R362)
  retired : Bool
  spare : List (Option Nat)  -- per quadrant, the lane the spare replaces (R362)
  scratchPois : List Nat  -- poisoned 64-bit scratchpad words (R353)
  accPois : List Nat      -- poisoned 64-bit accumulator words: pairs of elements (R352)
  laneErrs : List (Nat × Nat × Nat)
  deriving DecidableEq, Repr

/-- A quadrant: the split slot that issued last (R41) and the operand-buffer places taken (R25). -/
structure Quad where
  last : Nat
  places : Nat
  deriving DecidableEq, Repr

/-- A cluster: the context that issued last (R76), the context passed over next (R230), the context granted a copy channel
last (R279). -/
structure Cluster where
  last : Nat
  pass : Option Nat
  chan : Nat
  deriving DecidableEq, Repr

/-! ## Memory system -/

/-- Directory states of R135. -/
inductive HSt where
  | HI | HS | HO | HX | HS_I | HX_S | HX_I
  deriving DecidableEq, Repr

/-- A request waiting at a home or in service there: who asks, and for what: 0 GetS, 1 GetM, 2 Upg; 3 a read and 4 a write of
R129; 5 a read that leaves an owner a shared copy: of a monitor's registration (R139), of a page in transition (R138), of a
context's uniform load; 6 the slice gives the line up (R135). `at'`: the cycle of its arrival and its place among the arrivals of
one cycle (R136). -/
structure HReq where
  src : Nat
  kind : Nat
  at' : Nat × Nat
  deriving DecidableEq, Repr

/-- The home's record of a line (R118, R135, R136): directory state, local owner, local sharers, version record, the
transaction in service with the answers it waits for, the requests waiting. `reserved`: the agent the line is kept for
until its access is performed (log 12). `adv`: the cycle, plus one, of its last version event (R118). `late`: a write-back of the
peer on its way whose bytes a SnpData has brought already (R137). `dirty`: L2 holds bytes that HBM4E does not (R352). -/
structure Home where
  st : HSt
  owner : Option Nat
  sharers : List Nat
  present : Bool
  ver : BitVec 16
  stamp : Nat
  cur : Option HReq
  acks : List Nat
  queue : List HReq
  reserved : Option Nat
  /-- The cycle, plus one, and the place in the order of R136 of the request that arrived last. -/
  arr : Nat × Nat
  /-- The recorded release of the scope check (R117). -/
  rel : Option Rel
  adv : Nat
  late : Bool
  dirty : Bool
  deriving DecidableEq, Repr

/-- A condition monitor (R139 to R141, R174): its split, its word, its condition, and where it stands. -/
structure Monitor where
  id : Nat
  t : Nat
  e : Nat
  uid : Nat
  va : Nat
  pa : Nat
  cond : WCond
  val : Word
  scope : Scope
  registered : Bool
  retry : Nat         -- cycle in which a refused registration is sent again, or 0
  pc : Nat            -- its `waitc`
  deriving DecidableEq, Repr

/-- A watch message in flight (R122): the entry's serial, and the verdict if the home has decided. -/
structure WMsg where
  serial : Nat
  core : Nat
  pline : Nat
  fver : BitVec 16
  stamp : Nat
  verdict : Option Bool
  deriving DecidableEq, Repr

/-- A capability slot (R347): GEN, retired, contents. -/
structure Cap where
  gen : Nat
  retired : Bool
  body : Option CapBody
  deriving DecidableEq, Repr

/-- A space context (R339) with its per-space parameters (R323). `capTable`: the physical address of its capability table (R347), once it
has one. -/
structure Space where
  root : Option Nat
  capTable : Option Nat
  caps : SMap Cap
  capSlots : Nat
  chunk : Option (Nat × Nat)
  pagers : List (Nat × Nat × Nat)
  retry : Nat
  undoLog : Nat
  pagerMs : Nat
  drainUs : Nat
  deriving DecidableEq, Repr

/-- An upcall outstanding (R345). -/
structure Upcall where
  token : Nat
  space : Nat
  va : Nat
  since : Nat
  limit : Nat         -- cycles within which the pager must answer (R323, R345)
  deriving DecidableEq, Repr

/-- A fault record (R349, R351). -/
structure FaultRec where
  code : Nat
  flags : Nat
  space : Nat
  launch : Nat
  die : Nat
  cluster : Nat
  core : Nat
  quad : Nat
  slot : Nat
  pc : Nat
  addr : Nat
  info : Nat
  aux0 : Nat
  aux1 : Nat
  job : Nat
  node : Nat
  time : Nat
  deriving DecidableEq, Repr

/-- A fault queue (R349): its records and whether one was lost since. -/
structure FaultQ where
  recs : List FaultRec
  lost : Bool
  deriving DecidableEq, Repr

/-- Overflow state of an HBM4E frame (R356, R357): raw sectors, and those that hold an entry. -/
structure Frame where
  raw : List Nat
  entries : List (Option Nat)
  weak : Bool
  deriving DecidableEq, Repr

/-! ## The fabric -/

/-- Who issued a remote access: the thread, its incarnation, its lanes, the instruction's address, its launch; or the queue pair
and entry position. -/
inductive Owner where
  | lanes (t uid : Nat) (m : Mask) (pc launch : Nat)
  | entry (qp pos : Nat)
  | none
  deriving DecidableEq, Repr

/-- A packet of a retry buffer (R150), with what its answer completes: the access number of an `ldf` or `atomf` (else 0), the
lanes it serves with each one's byte in the answer, and the space, slot and generation of the capability that accepted it
(R161). `due` is the cycle in which its wait for an answer ends (R154). `pois`: poisoned 64-bit words of its payload (R352). -/
structure Retry where
  seq : Nat
  pkt : Packet
  owner : Owner
  acc : Nat
  parts : List (Nat × Nat)
  gen : Option (Nat × Nat × Nat)
  due : Nat
  pois : List Nat
  deriving DecidableEq, Repr

/-- The source end of a flow (R150, R152). -/
structure SrcEnd where
  src : Nat
  dst : Nat
  cls : TClass
  inc : Nat
  next : Nat
  retry : List Retry
  path : Nat
  entry : DWord       -- the route entry it read last (R151)
  idle : Nat          -- since when the retry buffer has been empty
  closing : Option Nat   -- cycle of the last CLOSE
  deriving DecidableEq, Repr

/-- The destination end of a flow (R150). -/
structure DstEnd where
  src : Nat
  dst : Nat
  cls : TClass
  inc : Nat
  cum : Nat
  accepted : List Packet       -- accepted and not delivered
  again : List Packet          -- reads delivered before that are to be performed again
  results : List (Nat × Word × Nat)   -- SEQ, result, STATUS of the last 64 atomics, latest first
  refused : List Nat           -- SEQs of refused writes among the last 512 delivered
  deriving DecidableEq, Repr

/-- A packet waiting for or on a station: flits sent, the owner class being the header's. -/
structure TxPkt where
  pkt : Packet
  sent : Nat
  since : Nat
  deriving DecidableEq, Repr

/-- A reassembly context (R148), and since when the port has held its packet (R152). -/
structure RxCtx where
  cls : Nat
  vc : Nat
  pkt : Packet
  got : Nat
  since : Nat
  deriving DecidableEq, Repr

/-- A UALink station (R146 to R149, R370). `open'` holds the open packets; suspended ones lie beneath higher classes. `arb` is a
new arbitration register that acts from the next packet start (R323). -/
structure Station where
  up : Bool
  heldDown : Bool
  urun : Nat
  erun : Nat
  arb : Option (Nat × Nat)
  urgentRun : Nat
  expressRun : Nat
  waiting : List TxPkt
  open' : List TxPkt
  lastKey : List Nat      -- per class, the key of the packet started last (R146)
  rx : List RxCtx
  linkdown : Nat
  retrain : Nat
  malformed : Nat
  replay : Nat
  downs : List Nat
  deriving DecidableEq, Repr

/-- A standard-transport access outstanding (R142); its fields as in `Retry`, `write` for a write. -/
structure StdAcc where
  tag : Nat
  owner : Owner
  acc : Nat
  parts : List (Nat × Nat)
  station : Nat
  dst : Nat
  space : Nat
  va : Nat
  len : Nat
  op : Nat
  gen : Option (Nat × Nat × Nat)
  deriving DecidableEq, Repr

/-- A collective work entry (R170) as read. -/
structure WorkEntry where
  dst : Nat
  src : Nat
  len : Nat
  thresh : Nat
  aexp : Nat
  actr : Nat
  lctr : Nat
  rctr : Nat
  linc : Bool
  rinc : Bool
  fmt : Nat
  ph : Nat
  zero : Bool
  dk : Nat
  sk : Nat
  op : Nat
  deriving DecidableEq, Repr

/-- An entry of a work queue (R171 to R173): its position, its poster's node, space and endpoint, its peer, and how far it has
come: whether it has fired, the bytes or blocks of its source that it has read and sent, whether its local completion has
been counted, its packets unacknowledged, and whether its COLTRIG has been sent. -/
structure QEntry where
  pos : Nat
  w : WorkEntry
  node : Nat
  src : Nat
  peer : Nat
  pqp : Nat
  gen : Option (Nat × Nat × Nat)
  fired : Bool
  sent : Nat
  localDone : Bool
  outstanding : Nat
  trig : Bool
  deriving DecidableEq, Repr

/-- A queue pair (R169). -/
structure QPair where
  space : Nat
  queue : List QEntry
  nextPos : Nat
  ctrs : SMap Word
  refused : Bool
  block : Nat         -- physical address of the counter block
  blockVa : Nat       -- where the space reads it
  deriving DecidableEq, Repr

/-- The fabric part of the hub. -/
structure Fabric where
  eps : List Nat            -- the endpoint IDs of the two dies
  routes : SMap DWord       -- key 1,024 x endpoint + destination
  failed : List Nat         -- refused destinations, same key (R155)
  srcInc : SMap Nat         -- key (1,024 x endpoint + other) x 3 + class
  dstInc : SMap Nat         -- stored as INC + 1 modulo 16, so 15 at boot is the default
  src : List SrcEnd
  dst : List DstEnd
  stations : List Station
  loop : List Packet        -- packets between the package's own endpoints (R165)
  frozen : List Packet      -- writes and atomics delivered to a page being migrated (R346)
  std : List StdAcc
  stdIn : List Packet       -- standard requests that wait for lines, as packets (log 12)
  nextAcc : Nat
  qps : SMap QPair
  chunk : SMap Byte
  chunkPois : List Nat      -- poisoned 64-bit words of the chunk buffer (R352)
  timeoutUs : Nat
  deriving DecidableEq, Repr

/-! ## The Resident -/

/-- A loaded kernel (R300, R305). -/
structure Kernel where
  space : Nat
  object : Nat
  stext : Nat
  ssize : Nat
  qtext : Nat
  qsize : Nat
  rodata : Nat
  rosize : Nat
  strands : Nat
  gang : Nat
  regs : Nat
  scratch : Nat
  barriers : Nat
  signet : Bool
  stallchk : Bool
  trap : Option Nat
  args : Nat
  unloading : Bool
  deriving DecidableEq, Repr

/-- States of a unit (R329). -/
inductive UState where
  | waiting | running | complete | failed | cancelled
  deriving DecidableEq, Repr

/-- A unit of a job with its counter (R329). -/
structure JUnit where
  done : Nat
  total : Nat
  state : UState
  fcode : Nat
  deriving DecidableEq, Repr

/-- What a node is (R324, R326). -/
inductive NodeKind where
  | launch (id : Nat)
  | copy (src dst len : Nat)
  | coll (handle : Word) (n : Nat) (va : Nat)
  | service (token : Nat)
  deriving DecidableEq, Repr

/-- How a node is to end once its running work has: whether its writes are undone first, and its final STATE with its code, or
none where it is ready again (R331, R350, R361). -/
structure Ending where
  undo : Bool
  st : Option UState
  code : Nat
  deriving DecidableEq, Repr

/-- A node of a graph (R324), with its attempt, the RETRY and the undo log size that it began with (R323), and its undo record
(R359 to R361). -/
structure Node where
  kind : NodeKind
  graph : Nat         -- number of its graph in the job
  index : Nat         -- node index within the graph
  succ : List Nat     -- node numbers of the job
  pred : Nat          -- dependence counter
  ready : Bool
  posted : Nat        -- collective: entries still to complete
  progress : Nat      -- copy: bytes copied
  attempts : Nat
  retry : Nat
  undoLog : Nat
  ending : Option Ending
  staged : Bool
  undo : List (Nat × Byte)   -- latest first
  logged : List Nat          -- the bytes of it whose record is in the undo log (R359)
  deriving DecidableEq, Repr

/-- A job (R324, R325): its graphs per phase, its units in the order of R329, its nodes. -/
structure Job where
  space : Nat
  ctrbase : Nat       -- virtual
  phases : List Nat   -- graphs of each phase
  graphs : List Nat   -- nodes of each graph
  units : List JUnit
  nodes : List Node
  deriving DecidableEq, Repr

/-- A launch (R327) with its scheduling state (R332 to R337). -/
structure Launch where
  job : Nat
  node : Nat
  kernel : Nat
  space : Nat
  nx : Nat
  ny : Nat
  nz : Nat
  prio : Nat
  ceil : Nat
  dies : Nat
  xsplit : Bool
  stallchk : Bool
  signet : Bool
  scopechk : Bool
  scopetrap : Bool
  debug : Bool
  age : Nat           -- us
  drain : Nat         -- us
  argpa : Nat
  argva : Nat
  ranges : List (Nat × Nat)
  next : Nat          -- linear index of the next gang to place
  live : Nat          -- gangs placed and not ended
  ready : Bool
  e : Nat
  ageFrom : Nat
  blocking : Bool
  drainAt : Option Nat   -- under drain: the cycle in which it escalates (R337)
  drainBy : Option Nat   -- the blocking launch whose drain it is
  dropped : Bool      -- its unplaced gangs have been dropped
  resident : Bool     -- its residency ranges have been made present and leased
  startAt : Nat       -- when its first gang was placed (R117)
  used : List Nat     -- cores it has been placed on (R113)
  deriving DecidableEq, Repr

/-- A message of the device to the controller (R319, R320): its header, and the fields of its payload of `len` bytes. -/
structure DMsg where
  seq : Nat
  ack : Nat
  ref : Nat
  epoch : Nat
  op : Nat
  status : Nat
  len : Nat
  body : List Nat
  deriving DecidableEq, Repr

/-- A request accepted and not yet answered (R321): the request's SEQ, and what it waits for: 0 an unload of the object
`arg`, 1 a load of the translator token `arg`. -/
structure Open where
  seq : Nat
  kind : Nat
  arg : Nat
  deriving DecidableEq, Repr

/-- A run of the Acier translator (R306). -/
structure Translator where
  token : Nat
  space : Nat
  deriving DecidableEq, Repr

/-- The Resident (R319 to R338) and its allocators (log 7). -/
structure Resident where
  epoch : Nat
  lastSeq : Nat
  nextSeq : Nat
  acked : Nat
  store : List DMsg
  reply : List DMsg      -- what the device sent last outside the numbering or once more: a SYNCACK with its replays, a RESP again
  opens : List Open
  kernels : SMap Kernel
  nextKernel : Nat
  nextObject : Nat
  translators : List Translator
  nextToken : Nat
  jobs : SMap Job
  nextJob : Nat
  launches : SMap Launch
  nextLaunch : Nat
  lastAt : SMap Nat      -- per level, the launch that placed a gang last (R333)
  spaces : SMap Space
  holders : List (Nat × Nat × Nat)   -- space, 64 KiB page, launch (0: PIN)
  upcalls : List Upcall
  stops : List StopId
  calls : List Instr     -- calls that wait for work to end (R161, R348), and remaps that wait for their core (R362)
  begun : SMap Nat       -- spaces whose first waiting call has been attempted, with the mark that its wait keeps (R161)
  again : Bool           -- the event is the next attempt of a waiting call: set by the step for the length of the event
  frame0 : Nat           -- next frame of die 0, in 64 KiB units from its base
  frame1 : Nat
  table : Nat            -- next page-table frame, in 4 KiB units
  implVa : Nat           -- next implementation-chosen virtual page, in 64 KiB units
  scrubHours : Nat
  callStatus : Nat       -- the status and value the last system call returned
  callValue : Nat
  deriving DecidableEq, Repr

/-! ## The module -/

/-- Power states (R368). -/
inductive Power where
  | off | boot | run
  deriving DecidableEq, Repr

/-- A hart of the hub (R1, R339): whether it is held in reset (R365), and the space whose addresses it translates. -/
structure Hart where
  held : Bool
  space : Nat
  deriving DecidableEq, Repr

/-- An Ultra Ethernet port (R1, R365): whether it is up, and how often it failed to train. -/
structure Port where
  up : Bool
  linkdown : Nat
  deriving DecidableEq, Repr

/-- The module: power, fuses, flash, identity, thermal and error state (R364 to R371). `running`: the slot that runs or ran last, true for
B (R365); `deviceCert`: the device certificate, outside both slots (R367); `port`: the port that the configuration names (R319). -/
structure Module where
  power : Power
  bootFail : Option Nat
  slotA : Option ImageSlot
  slotB : Option ImageSlot
  floor : Nat
  flashEpoch : Nat
  version : Nat
  digest : BitVec 512
  imageKey : BitVec 256
  imageCert : BitVec 512
  serial : DWord
  stepping : Byte
  cap : Nat              -- the operator cap as a duty value
  thermal : Nat
  duty : Nat
  thermalAt : Nat
  temps : List Nat
  errs : List (List Nat) -- per die and hub, the eight counters in the order of R364
  swtot : List (List Nat)
  report : List Nat      -- the last attestation report or telemetry block
  scrubAt : Nat          -- the cycle of the last scrub pass
  teleAt : Nat           -- the cycle of the last telemetry block
  running : Option Bool
  deviceCert : BitVec 512
  harts : List Hart
  ports : List Port
  port : Nat
  deriving DecidableEq, Repr

/-! ## The issuer latch and the state -/

/-- Who is issuing: the thread, its entry, the instruction's address, the address of the next instruction in issue order,
its word, its stall count and whether its bundle marks the strand yielding (R193, R194). `op`: the access under way that is
being carried on, where it is not a first issue. -/
structure Issuer where
  t : Nat
  e : Nat
  pc : Nat
  npc : Nat
  word : Word
  stall : Nat
  yh : Bool
  op : Option Nat
  deriving DecidableEq, Repr

/-- How far an access has come: the lanes performed, what they read, the address of a lane that read poison, whether the release
actions and the acquire actions of its instruction have been performed, and the releases that its reads met and do not include, each
with the address read (R104, R106, R117, R260). -/
structure Part where
  done : Mask
  vals : SMap Nat
  bad : Option Nat
  rel : Bool
  acq : Bool
  mix : List (Nat × Nat)
  deriving DecidableEq, Repr

/-- A memory instruction that has issued and is not yet performed in every lane (R104, R106, R201; log 12): its number, which
rises in the order of issue; the strand or context as it was at the issue, with the operands; the lanes of its split and those
that take part; the destinations that are interlocked; and whether its split stays at it until it is performed, since its faults are
not decided before. -/
structure MOp where
  id : Nat
  x : Thread
  iss : Issuer
  instr : Instr
  act : Mask
  lanes : Mask
  dests : List PDst
  block : Bool
  part : Part
  deriving DecidableEq, Repr

/-- What the hub has still to do, in order (R129, R329): a write at the home of its line, or a message that follows the writes before it. -/
inductive HubAct where
  | write (pa : Nat) (bs : List Byte)
  | tell (op ref status : Nat) (body : List Nat)
  deriving DecidableEq, Repr

/-- The machine. -/
structure State where
  cycle : Nat
  inputs : List (Nat × Instr)
  turn : List Nat            -- quadrants (0 to 511) and sequencers (512 to 527) still to issue in this cycle
  iss : Option Issuer
  ops : List MOp             -- accesses under way, oldest first
  nextOp : Nat
  wake : List Nat            -- the accesses to be carried on before anything else happens
  leases : List Lease
  choice : Nat
  passed : Nat               -- choices of an event since the oldest message was last delivered for its age (R107)
  uid : Nat
  threads : SMap Thread      -- strands 0 to 8,191, contexts 8,192 to 8,447
  gangs : SMap Gang
  cores : SMap Core
  quads : SMap Quad
  clusters : SMap Cluster
  mem : List Host.Cell
  homes : SMap Home
  peers : SMap Line
  msgs : List Instr
  hubActs : List HubAct      -- writes of the hub that wait for their lines, and what follows them (R129)
  monitors : List Monitor
  watches : List WMsg
  poison : List Nat          -- poisoned 32-byte sectors
  writers : SMap Nat         -- last writer of a byte, as node key + 1 (log 16)
  hbmErrs : SMap (List (Nat × Byte))   -- per 32-byte sector, the symbols of its codeword that HBM4E holds wrong, and by what (R355)
  frames : SMap Frame
  weak : List Nat
  faultqs : List FaultQ
  fab : Fabric
  res : Resident
  mod : Module
  deriving DecidableEq, Repr

/-! ## Reset -/

/-- An idle engine. -/
def Engine.reset : Engine := { holder := none, release := none, mon := List.replicate 8 0 }

/-- A core with nothing resident. -/
def Core.reset : Core :=
  { l1 := [], scratch := [], acc := [], engine := Engine.reset, bars := [], excluded := false, retired := false,
    spare := [none, none, none, none], scratchPois := [], accPois := [], laneErrs := [] }

/-- A station as R147 and R370 reset it, down until it trains. -/
def Station.reset : Station :=
  { up := false, heldDown := false, urun := 16, erun := 64, arb := none, urgentRun := 0, expressRun := 0, waiting := [], open' := [],
    lastKey := [0, 0, 0], rx := [], linkdown := 0, retrain := 0, malformed := 0, replay := 0, downs := [] }

/-- The fabric at reset: every route slot invalid (R323), no flow, incarnations 0 and 15 (R152). -/
def Fabric.reset : Fabric :=
  { eps := [0, 1], routes := [], failed := [], srcInc := [], dstInc := [], src := [], dst := [],
    stations := List.replicate 18 Station.reset, loop := [], frozen := [], std := [], stdIn := [], nextAcc := 1, qps := [], chunk := [], chunkPois := [],
    timeoutUs := 20 }

/-- The Resident at reset. -/
def Resident.reset : Resident :=
  { epoch := 0, lastSeq := 0, nextSeq := 1, acked := 0, store := [], reply := [], opens := [], kernels := [], nextKernel := 1,
    nextObject := 1, translators := [], nextToken := 1, jobs := [], nextJob := 1, launches := [], nextLaunch := 1,
    lastAt := [], spaces := [], holders := [], upcalls := [], stops := [], calls := [], begun := [], again := false, frame0 := 0, frame1 := 0,
    table := 0, implVa := 0, scrubHours := 24, callStatus := 0, callValue := 0 }

/-- The module at reset: off, the flash empty and the epoch 0 from manufacture (R321). -/
def Module.reset : Module :=
  { power := .off, bootFail := none, slotA := none, slotB := none, floor := 0, flashEpoch := 0, version := 0, digest := 0,
    imageKey := 0, imageCert := 0, serial := 0, stepping := 0xB0, cap := 16, thermal := 16, duty := 16, thermalAt := 0,
    temps := [], errs := List.replicate 3 (List.replicate 8 0), swtot := List.replicate 2 (List.replicate 8 0),
    report := [], scrubAt := 0, teleAt := 0, running := none, deviceCert := 0,
    harts := List.replicate 24 { held := true, space := 0 }, ports := List.replicate 4 { up := false, linkdown := 0 }, port := 0 }

/-- The machine right after reset: power off, nothing placed, nothing in flight (R10, R368; log 2). -/
def State.reset : State :=
  { cycle := 0, inputs := [], turn := [], iss := none, ops := [], nextOp := 1, wake := [], leases := [], choice := 0, passed := 0, uid := 1,
    threads := [], gangs := [], cores := [], faultqs := List.replicate 3 { recs := [], lost := false }, quads := [], clusters := [],
    mem := [], homes := [], fab := Fabric.reset, peers := [], msgs := [], hubActs := [], monitors := [], res := Resident.reset,
    watches := [], poison := [], writers := [], mod := Module.reset, hbmErrs := [], frames := [], weak := [] }

end Sys2Proof.Machine
end

