-- ==== Sys2Proof/Machine/Maps.lean ====
section
/-!
DEFINITION. Sparse maps with rising keys, memory in canonical form, masks, bytes and lists: the plain helpers of the
machine. Everything recurses on a list or on a number, so Lean's kernel evaluates it on numerals.
-/
namespace Sys2Proof.Machine

/-! ## Sparse maps -/

/-- The value at a key. -/
def SMap.find? {α : Type} : SMap α → Nat → Option α
  | [], _ => none
  | (a, x) :: r, k => if a = k then some x else if k < a then none else SMap.find? r k

/-- The value at a key, or the default. -/
def SMap.getD {α : Type} (m : SMap α) (k : Nat) (d : α) : α := (SMap.find? m k).getD d

/-- Set the value at a key, keeping the keys rising. -/
def SMap.put {α : Type} : SMap α → Nat → α → SMap α
  | [], k, x => [(k, x)]
  | (a, y) :: r, k, x => if a = k then (k, x) :: r else if k < a then (k, x) :: (a, y) :: r else (a, y) :: SMap.put r k x

/-- Remove a key. -/
def SMap.del {α : Type} : SMap α → Nat → SMap α
  | [], _ => []
  | (a, y) :: r, k => if a = k then r else if k < a then (a, y) :: r else (a, y) :: SMap.del r k

/-- Set the value at a key; the default is never listed. -/
def SMap.set {α : Type} [DecidableEq α] (d : α) (m : SMap α) (k : Nat) (x : α) : SMap α :=
  if x = d then SMap.del m k else SMap.put m k x

/-- Keys strictly rising from a bound. -/
def SMap.risingFrom {α : Type} : Nat → SMap α → Bool
  | _, [] => true
  | b, (a, _) :: r => b ≤ a && SMap.risingFrom (a + 1) r

/-- Keys rising, no default listed. -/
def SMap.wf {α : Type} [DecidableEq α] (d : α) (m : SMap α) : Bool :=
  SMap.risingFrom 0 m && m.all fun c => c.2 != d

/-! ## Memory -/

/-- The byte an unlisted address reads as (log 3). -/
def Memory.unlisted : Byte := 0

/-- The byte at a physical address. -/
def Memory.read (m : List Host.Cell) (a : Nat) : Byte := SMap.getD m a Memory.unlisted

/-- Write one byte, keeping the canonical form. -/
def Memory.write (m : List Host.Cell) (a : Nat) (x : Byte) : List Host.Cell := SMap.set Memory.unlisted m a x

/-- The canonical form: addresses strictly rising, and no entry equal to what an unlisted address reads as. -/
def Memory.wf (m : List Host.Cell) : Bool := SMap.wf Memory.unlisted m

/-- The bytes from an address upward. -/
def Memory.bytes (m : List Host.Cell) (a : Nat) : Nat → List Byte
  | 0 => []
  | n + 1 => Memory.read m a :: Memory.bytes m (a + 1) n

/-- Write bytes from an address upward. -/
def Memory.writeBytes (m : List Host.Cell) (a : Nat) : List Byte → List Host.Cell
  | [] => m
  | x :: r => Memory.writeBytes (Memory.write m a x) (a + 1) r

/-- The number of a little-endian byte string (R7). -/
def leNat : List Byte → Nat
  | [] => 0
  | x :: r => x.toNat + 256 * leNat r

/-- The little-endian byte string of a number, n bytes (R7). -/
def leBytes : Nat → Nat → List Byte
  | 0, _ => []
  | n + 1, x => BitVec.ofNat 8 x :: leBytes n (x / 256)

/-- A little-endian number in memory (R7). -/
def Memory.le (m : List Host.Cell) (a n : Nat) : Nat := leNat (Memory.bytes m a n)

/-! ## Lists and masks -/

/-- Replace element i of a list. -/
def setAt {α : Type} : List α → Nat → α → List α
  | [], _, _ => []
  | _ :: r, 0, x => x :: r
  | y :: r, i + 1, x => y :: setAt r i x

/-- Change element i of a list. -/
def updAt {α : Type} : List α → Nat → (α → α) → List α
  | [], _, _ => []
  | y :: r, 0, f => f y :: r
  | y :: r, i + 1, f => y :: updAt r i f

/-- Element i, or the default. -/
def nth {α : Type} (l : List α) (i : Nat) (d : α) : α := l.getD i d

/-- The first number below n, counting up from `i`, for which f holds. -/
def firstFrom (f : Nat → Bool) : Nat → Nat → Option Nat
  | 0, _ => none
  | n + 1, i => if f i then some i else firstFrom f n (i + 1)

/-- Insert a number into a rising list without repeats. -/
def insertAsc (x : Nat) : List Nat → List Nat
  | [] => [x]
  | y :: r => if x = y then y :: r else if x < y then x :: y :: r else y :: insertAsc x r

/-- A rising list without repeats. -/
def sortAsc (l : List Nat) : List Nat := l.foldr insertAsc []

/-- The 32 lanes. -/
def lanes32 : List Nat := List.range 32

/-- The mask of the lanes for which f holds. -/
def maskOf (f : Nat → Bool) : Mask := lanes32.foldl (fun m l => if f l then m ||| (1 <<< l) else m) 0

/-- The lanes of a mask, ascending. -/
def lanesOf (m : Mask) : List Nat := lanes32.filter fun l => m.getLsbD l

/-- Does the mask hold a lane? -/
def hasLane (m : Mask) (l : Nat) : Bool := m.getLsbD l

/-- The lowest lane of a mask. -/
def lowLane (m : Mask) : Nat := (firstFrom (fun l => m.getLsbD l) 32 0).getD 0

/-- Number of lanes of a mask. -/
def laneCount (m : Mask) : Nat := (lanesOf m).length

/-- Byte i of a number held as bits. -/
def byteAt {w : Nat} (x : BitVec w) (i : Nat) : Byte := x.extractLsb' (8 * i) 8

/-- Replace byte i of a line. -/
def LineData.setByte (x : LineData) (i : Nat) (b : Byte) : LineData :=
  (x &&& ~~~((0xFF : LineData) <<< (8 * i))) ||| ((b.setWidth 1024) <<< (8 * i))

/-- The bytes of a line. -/
def LineData.bytes (x : LineData) (i n : Nat) : List Byte := (List.range n).map fun j => byteAt x (i + j)

/-- A line from bytes. -/
def LineData.ofBytes (l : List Byte) : LineData := BitVec.ofNat 1024 (leNat l)

/-- The signed value of a word. -/
def sInt (x : Word) : Int := x.toInt

/-- Sign-extend a field of n bits held in a number. -/
def signExt (n x : Nat) : Int := if x % 2 ^ n < 2 ^ (n - 1) then (x % 2 ^ n : Nat) else ((x % 2 ^ n : Nat) : Int) - 2 ^ n

/-- An integer reduced to an address of 48 bits, or of 64 bits. -/
def wrap (bits : Nat) (x : Int) : Nat := (x % (2 ^ bits : Nat)).toNat

/-- Saturating 32-bit sum (R173, R364, R370). -/
def sat32 (x : Nat) : Nat := if x > 0xFFFFFFFF then 0xFFFFFFFF else x

end Sys2Proof.Machine
end

