-- ==== Sys2Proof/Machine/Base.lean ====
section
/-!
DEFINITION. The numbering of units and agents, the records of State by number, and what every later file reads and writes
State through. Units: strands 0 to 8,191, contexts 8,192 to 8,447; cores 0 to 127; quadrants 0 to 511; L1 of core c is
cache agent c, the peer L2 of die d agent 128 + d, the home of die d server 130 + d.
-/
namespace Sys2Proof.Machine

/-! ## Numbers -/

/-- Number of the first context. -/
def ctxBase : Nat := 8192
/-- The peer L2 of a die as a cache agent (R133). -/
def peerAgent (die : Nat) : Nat := 128 + die
/-- The home slices of a die as a server (R133). -/
def homeServer (die : Nat) : Nat := 130 + die
/-- The hub's agents and the Resident, as an agent at a home (R129). -/
def hubAgent : Nat := 200
/-- The engines of a gang, as an agent at a home (R129). -/
def gangAgent (g : Nat) : Nat := 300 + g
/-- Bytes of one die's HBM4E (R103). -/
def dieBytes : Nat := 2 ^ 39
/-- The physical line of a physical address (R103). -/
def lineOf (pa : Nat) : Nat := pa / 128
/-- The die that homes a physical address: a page is homed where its frame lies. -/
def homeDie (pa : Nat) : Nat := pa / dieBytes
/-- The die that homes a line. -/
def lineDie (line : Nat) : Nat := homeDie (line * 128)
/-- The die of a core. -/
def coreDie (cid : Nat) : Nat := cid / 64
/-- The server that serves an L1 for a line: the home on its own die, else the peer L2 of its die (R133). -/
def serverOf (cid line : Nat) : Nat := if coreDie cid = lineDie line then homeServer (lineDie line) else peerAgent (coreDie cid)
/-- One microsecond in core cycles of 1.25 ns (R1). -/
def usCycles : Nat := 800

/-- The core of a strand or context; a context has none, and names core 0 of its cluster. -/
def Thread.cid (t : Thread) : Nat := (t.die * 8 + t.cluster) * 8 + t.core
/-- The cluster of the package. -/
def Thread.clus (t : Thread) : Nat := t.die * 8 + t.cluster

/-! ## Records of State -/

/-- A thread by number. -/
def State.thread? (s : State) (t : Nat) : Option Thread := SMap.find? s.threads t
/-- Replace a thread. -/
def State.setThread (s : State) (t : Nat) (x : Thread) : State := { s with threads := SMap.put s.threads t x }
/-- Change a thread that exists. -/
def State.updThread (s : State) (t : Nat) (f : Thread → Thread) : State :=
  match s.thread? t with
  | some x => s.setThread t (f x)
  | none => s

/-- A core by number. -/
def State.core (s : State) (c : Nat) : Core := SMap.getD s.cores c Core.reset
/-- Replace a core. -/
def State.setCore (s : State) (c : Nat) (x : Core) : State := { s with cores := SMap.set Core.reset s.cores c x }
/-- Change a core. -/
def State.updCore (s : State) (c : Nat) (f : Core → Core) : State := s.setCore c (f (s.core c))

/-- A quadrant with nothing issued; the slot that issued last is 63, so that slot 0 is first (log 5). -/
def Quad.reset : Quad := { last := 63, places := 0 }
/-- A quadrant by number. -/
def State.quad (s : State) (q : Nat) : Quad := SMap.getD s.quads q Quad.reset
/-- Replace a quadrant. -/
def State.setQuad (s : State) (q : Nat) (x : Quad) : State := { s with quads := SMap.set Quad.reset s.quads q x }

/-- A cluster with nothing issued; context 0 is first (log 5). -/
def Cluster.reset : Cluster := { last := 15, pass := none, chan := 15 }
/-- A cluster of the package by number. -/
def State.cluster (s : State) (k : Nat) : Cluster := SMap.getD s.clusters k Cluster.reset
/-- Replace a cluster. -/
def State.setCluster (s : State) (k : Nat) (x : Cluster) : State :=
  { s with clusters := SMap.set Cluster.reset s.clusters k x }

/-- A home that holds nothing of its line (R118, R135). -/
def Home.reset : Home :=
  { st := .HI, owner := none, sharers := [], present := false, ver := 0, stamp := 0, cur := none, acks := [], queue := [],
    reserved := none, arr := (0, 0), rel := none, adv := 0, late := false, dirty := false }
/-- The home's record of a line. -/
def State.home (s : State) (line : Nat) : Home := SMap.getD s.homes line Home.reset
/-- Replace the home's record of a line. -/
def State.setHome (s : State) (line : Nat) (x : Home) : State := { s with homes := SMap.set Home.reset s.homes line x }
/-- Change the home's record of a line. -/
def State.updHome (s : State) (line : Nat) (f : Home → Home) : State := s.setHome line (f (s.home line))

/-- A line in state I. -/
def Line.reset : Line :=
  { st := .I, sw := false, filled := false, kept := 0, stale := false, data := 0, dirty := 0, ret := false, ver := 0, stamp := 0,
    asker := none, pois := 0,
    who := [], owner := none, sharers := [], waiting := [], cur := none, acks := [], rel := none }
/-- The peer L2's record of a line: that of the die which does not home it. -/
def State.peer (s : State) (line : Nat) : Line := SMap.getD s.peers line Line.reset
/-- Replace the peer L2's record of a line. -/
def State.setPeer (s : State) (line : Nat) (x : Line) : State := { s with peers := SMap.set Line.reset s.peers line x }
/-- Change the peer L2's record of a line. -/
def State.updPeer (s : State) (line : Nat) (f : Line → Line) : State := s.setPeer line (f (s.peer line))
/-- The L1's record of a line. -/
def State.l1 (s : State) (cid line : Nat) : Line := SMap.getD (s.core cid).l1 line Line.reset
/-- Replace the L1's record of a line. -/
def State.setL1 (s : State) (cid line : Nat) (x : Line) : State :=
  s.updCore cid fun c => { c with l1 := SMap.set Line.reset c.l1 line x }
/-- Change the L1's record of a line. -/
def State.updL1 (s : State) (cid line : Nat) (f : Line → Line) : State := s.setL1 cid line (f (s.l1 cid line))

/-- A gang by number. -/
def State.gang? (s : State) (g : Nat) : Option Gang := SMap.find? s.gangs g
/-- Replace a gang. -/
def State.setGang (s : State) (g : Nat) (x : Gang) : State := { s with gangs := SMap.put s.gangs g x }
/-- Change a gang that exists. -/
def State.updGang (s : State) (g : Nat) (f : Gang → Gang) : State :=
  match s.gang? g with
  | some x => s.setGang g (f x)
  | none => s

/-- The Resident with a change. -/
def State.updRes (s : State) (f : Resident → Resident) : State := { s with res := f s.res }
/-- The fabric with a change. -/
def State.updFab (s : State) (f : Fabric → Fabric) : State := { s with fab := f s.fab }
/-- The module with a change. -/
def State.updMod (s : State) (f : Module → Module) : State := { s with mod := f s.mod }

/-- A space that nothing has used (R323, R339). -/
def Space.reset : Space :=
  { root := none, capTable := none, caps := [], capSlots := 4096, chunk := none, pagers := [], retry := 2, undoLog := 2 ^ 30, pagerMs := 1000,
    drainUs := 100000 }
/-- A space by identifier. -/
def State.space (s : State) (n : Nat) : Space := SMap.getD s.res.spaces n Space.reset
/-- Change a space. -/
def State.updSpace (s : State) (n : Nat) (f : Space → Space) : State :=
  s.updRes fun r => { r with spaces := SMap.set Space.reset r.spaces n (f (SMap.getD r.spaces n Space.reset)) }

/-- A launch by %launch. -/
def State.launch? (s : State) (n : Nat) : Option Launch := SMap.find? s.res.launches n
/-- Change a launch that exists. -/
def State.updLaunch (s : State) (n : Nat) (f : Launch → Launch) : State :=
  match s.launch? n with
  | some x => s.updRes fun r => { r with launches := SMap.put r.launches n (f x) }
  | none => s
/-- A job by identifier. -/
def State.job? (s : State) (n : Nat) : Option Job := SMap.find? s.res.jobs n
/-- Change a job that exists. -/
def State.updJob (s : State) (n : Nat) (f : Job → Job) : State :=
  match s.job? n with
  | some x => s.updRes fun r => { r with jobs := SMap.put r.jobs n (f x) }
  | none => s
/-- A kernel by handle. -/
def State.kernel? (s : State) (n : Nat) : Option Kernel := SMap.find? s.res.kernels n
/-- The kernel of a launch. -/
def State.kernelOf (s : State) (launch : Nat) : Option Kernel := (s.launch? launch).bind fun l => s.kernel? l.kernel
/-- The node of a job by number. -/
def State.node? (s : State) (j n : Nat) : Option Node := (s.job? j).bind fun x => x.nodes[n]?
/-- Change a node that exists. -/
def State.updNode (s : State) (j n : Nat) (f : Node → Node) : State :=
  s.updJob j fun x => { x with nodes := updAt x.nodes n f }

/-- A message put in flight. -/
def State.send (s : State) (m : Instr) : State := { s with msgs := s.msgs ++ [m] }

/-- The mark of a node on the bytes it writes: 0 is no node (R359; log 16). -/
def nodeKey (job node : Nat) : Nat := job * 2 ^ 32 + node + 1
/-- The mark of a thread's node. -/
def State.whoOf (s : State) (launch : Nat) : Nat :=
  match s.launch? launch with
  | some l => nodeKey l.job l.node
  | none => 0
/-- The job and node number of a mark. -/
def keyNode (k : Nat) : Nat × Nat := ((k - 1) / 2 ^ 32, (k - 1) % 2 ^ 32)

/-! ## Splits -/

/-- An entry that holds no split. -/
def Split.reset : Split :=
  { valid := false, pc := 0, mask := 0, top := none, inH := false, wait := none, held := none, queue := [], stall := 0,
    sig := 0xFFFF, stopped := false, mix := none }
/-- An entry of a thread. -/
def Thread.split (x : Thread) (e : Nat) : Split := x.splits.getD e Split.reset
/-- Change an entry of a thread. -/
def Thread.updSplit (x : Thread) (e : Nat) (f : Split → Split) : Thread := { x with splits := updAt x.splits e f }
/-- Change an entry of a thread that exists. -/
def State.updSplit (s : State) (t e : Nat) (f : Split → Split) : State := s.updThread t fun x => x.updSplit e f
/-- An entry of a thread, or an empty one. -/
def State.split (s : State) (t e : Nat) : Split :=
  match s.thread? t with
  | some x => x.split e
  | none => Split.reset
/-- The cycle in which the last class A, B or C result pending in some lane of the mask is written, or 0 (R189). -/
def Thread.drainAt (x : Thread) (m : Mask) : Nat :=
  x.pend.foldl (fun n p => if p.split &&& m != 0 then max n p.due else n) 0
/-- End the wait of a split: it resumes when the results its lanes have pending are written (R43, R189). -/
def State.resume (s : State) (t e : Nat) : State :=
  s.updThread t fun x => x.updSplit e fun p => { p with wait := none, stall := max p.stall (x.drainAt p.mask) }
/-- A split's wait ends at a label: its signature starts again (R233), and the strand becomes yielding where that leaves a bundle
which says so (R194). -/
def State.resumeAt (s : State) (t e lab : Nat) (leaves : Bool) : State :=
  (s.resume t e).updThread t fun x =>
    { x.updSplit e fun p => { p with pc := lab, sig := 0xFFFF } with yielding := x.yielding || leaves }
/-- The strands of a core. -/
def State.strandsOf (s : State) (cid : Nat) : List (Nat × Thread) := s.threads.filter fun c => !c.2.seq && c.2.cid == cid

/-! ## Accesses under way -/

/-- Nothing of an access has been performed. -/
def Part.none : Part := { done := 0, vals := [], bad := Option.none, rel := false, acq := false, mix := [] }
/-- An access under way by number. -/
def State.op? (s : State) (id : Nat) : Option MOp := s.ops.find? fun m => m.id == id
/-- The core of an access's strand: a context's accesses go to no L1. -/
def MOp.cid (m : MOp) : Nat := m.x.cid
/-- Accesses to be carried on next, in this order, those already waiting for it first. -/
def State.wakeOps (s : State) (ids : List Nat) : State := { s with wake := s.wake ++ ids.filter fun n => !s.wake.contains n }
/-- Every access of a core's strands is tried again, that of the given number first. -/
def State.wakeCore (s : State) (cid : Nat) (first : Option Nat) : State :=
  let mine := (s.ops.filter fun m => !m.x.seq && m.cid == cid).map (·.id)
  s.wakeOps ((first.toList.filter fun n => mine.contains n) ++ mine)
/-- Every access of an agent of the homes is tried again: a core's, or a gang's context's. -/
def State.wakeAgent (s : State) (agent : Nat) : State :=
  if agent < 128 then s.wakeCore agent none
  else s.wakeOps ((s.ops.filter fun m => m.x.seq && gangAgent m.x.gang == agent).map (·.id))
/-- Is an access of the same lanes, of the same strand's or context's life? -/
def MOp.overlaps (m : MOp) (uid : Nat) (lanes : Mask) : Bool := m.x.uid == uid && m.act &&& lanes != 0
/-- Does an earlier access of some of the lanes come before (R104, R106)? -/
def State.behind (s : State) (id uid : Nat) (lanes : Mask) : Bool := s.ops.any fun m => decide (m.id < id) && m.overlaps uid lanes
/-- An access is over; those that waited behind it are tried. -/
def State.endOp (s : State) (id : Nat) : State :=
  match s.op? id with
  | some m =>
    { s with ops := s.ops.filter fun (n : MOp) => n.id ≠ id }.wakeOps
      ((s.ops.filter fun (n : MOp) => decide (id < n.id) && n.overlaps m.x.uid m.act).map MOp.id)
  | none => s
/-- Change an access under way. -/
def State.updOp (s : State) (id : Nat) (f : MOp → MOp) : State := { s with ops := s.ops.map fun m => if m.id = id then f m else m }
/-- A new access under way. -/
def State.addOp (s : State) (m : MOp) : State := { s with ops := s.ops ++ [{ m with id := s.nextOp }], nextOp := s.nextOp + 1 }
/-- The accesses for which a condition holds are dropped. -/
def State.dropOps (s : State) (f : MOp → Bool) : State := { s with ops := s.ops.filter fun m => !f m }
/-- Does the split stay at an instruction under way? -/
def State.blocked (s : State) (t e uid : Nat) : Bool :=
  s.ops.any fun m => m.block && m.iss.t == t && m.iss.e == e && m.x.uid == uid
/-- An acquire is still to be performed for some lanes of a strand or context, before their later accesses (R106). -/
def State.addAcquire (s : State) (t e : Nat) (x : Thread) (m : Mask) (sc : Scope) (pc : Nat) : State :=
  let s := s.wakeOps [s.nextOp]
  s.addOp { id := 0, x := x, iss := { t := t, e := e, pc := pc, npc := pc, word := 0, stall := 0, yh := false, op := none },
            instr := .fence .acq sc { neg := false, p := 0 }, act := m, lanes := m, dests := [], block := false, part := Part.none }

/-! ## Error counters (R364) -/

/-- Indexes of the counters in the order of R364. -/
def ceSram : Nat := 0
def ceCache : Nat := 1
def ceHbm : Nat := 2
def ueIx : Nat := 3
def weakIx : Nat := 4
def unstagedIx : Nat := 5
def rollbackIx : Nat := 6
def laneIx : Nat := 7
/-- Add to an error counter of a die (0, 1) or the hub (2); it saturates (R364). -/
def State.count (s : State) (unit ix n : Nat) : State :=
  s.updMod fun m => { m with errs := updAt m.errs unit fun l => updAt l ix fun x => sat32 (x + n) }

/-! ## Physical placement (log 7) -/

/-- The 64 KiB frame number n of a die, as a physical address: the first 2 GiB of die 0 hold the tables, and the top 2 GiB of
every stack are its overflow region (R356). -/
def frameAddr (die n : Nat) : Option Nat :=
  let m := n + 32768
  let stack := m / 1015808
  if stack < 8 then some (die * dieBytes + stack * 2 ^ 36 + (m % 1015808) * 65536) else none

/-- Take a free frame of a die. -/
def State.allocFrame (s : State) (die : Nat) : Option (Nat × State) :=
  let n := if die = 0 then s.res.frame0 else s.res.frame1
  (frameAddr die n).map fun a =>
    (a, s.updRes fun r => if die = 0 then { r with frame0 := n + 1 } else { r with frame1 := n + 1 })

/-- Take free room for a table of `n` 4 KiB units, aligned to `n`. -/
def State.allocTable (s : State) (n : Nat) : Option (Nat × State) :=
  let b := (s.res.table + n - 1) / n * n
  if b + n ≤ 2 ^ 19 then some (b * 4096, s.updRes fun r => { r with table := b + n }) else none

/-- The virtual addresses that the Resident hands out itself begin here (log 7). -/
def implBase : Nat := 0xF00000000000
/-- Take `n` implementation-chosen virtual pages of 64 KiB (log 7). -/
def State.allocVa (s : State) (n : Nat) : Nat × State :=
  (implBase + s.res.implVa * 65536, s.updRes fun r => { r with implVa := r.implVa + n })

end Sys2Proof.Machine
end

