-- ==== Sys2Proof/Machine/Sector.lean ====
section
/-!
DEFINITION. A 32-byte sector as HBM4E stores it: the compressed schemes, the check symbols and the correction of errors (R355), the mark of
poison (R353), and a frame's overflow block (R356).
-/
namespace Sys2Proof.Machine

/-! ## GF(2^8) (R355) -/

/-- A byte times α = 0x02, modulo the field polynomial 0x11D. -/
def gfDouble (a : Nat) : Nat := if a < 128 then 2 * a else (2 * a) ^^^ 0x11D
/-- The product of two symbols: bit by bit of the second, from its lowest. -/
def gfMulN : Nat → Nat → Nat → Nat
  | 0, _, _ => 0
  | n + 1, a, b => (if b % 2 = 1 then a else 0) ^^^ gfMulN n (gfDouble a) (b / 2)
/-- The product of two symbols. -/
def gfMul (a b : Nat) : Nat := gfMulN 8 a b
/-- α to a power. -/
def gfExp : Nat → Nat
  | 0 => 1
  | n + 1 => gfDouble (gfExp n)
/-- The inverse of a symbol that is not zero: its power 254. -/
def gfInv (a : Nat) : Nat := (List.range 253).foldl (fun x _ => gfMul x a) a
/-- The generator's coefficients below its highest, from the highest: the product of x - α^i for i from 0 to 3. -/
def rsGen : List Nat :=
  ((List.range 4).foldl (fun g i => List.zipWith (· ^^^ ·) (g ++ [0]) (0 :: g.map (gfMul (gfExp i)))) [1]).drop 1
/-- The four check symbols of bytes, the first byte having the highest power of x (log 93): the remainder of their polynomial times x^4. -/
def rsCheck (bs : List Byte) : List Nat :=
  bs.foldl (fun r b =>
    let f := b.toNat ^^^ r.headD 0
    List.zipWith (· ^^^ ·) (r.drop 1 ++ [0]) (rsGen.map (gfMul f))) [0, 0, 0, 0]

/-! ## Errors and their correction (R355) -/

/-- Errors of a codeword: symbols by position, and by what they differ. -/
abbrev Errs := List (Nat × Byte)
/-- Two sets of errors together, by position; what cancels goes. -/
def Errs.add (a b : Errs) : Errs := b.foldl (fun m e => SMap.set 0 m e.1 (SMap.getD m e.1 0 ^^^ e.2)) a
/-- Syndrome j of errors in a codeword of n symbols. -/
def syndrome (n : Nat) (es : Errs) (j : Nat) : Nat := es.foldl (fun x e => x ^^^ gfMul e.2.toNat (gfExp (j * (n - 1 - e.1)))) 0
/-- Do errors have the given syndromes? -/
def explains (n : Nat) (ss : List Nat) (es : Errs) : Bool := (List.range 4).map (syndrome n es) == ss
/-- Errors of at most two symbols with the given syndromes, if there are any. -/
def rsFind (n : Nat) (ss : List Nat) : Option Errs :=
  let s0 := ss.getD 0 0
  let s1 := ss.getD 1 0
  let at' (p : Nat) : Nat := gfExp (n - 1 - p)
  if ss == [0, 0, 0, 0] then some []
  else match ((List.range n).map fun p => [(p, BitVec.ofNat 8 s0)]).find? (explains n ss) with
    | some e => some e
    | none =>
      ((List.range n).flatMap fun p => ((List.range n).filter (p < ·)).map fun q =>
        let w := gfMul (s1 ^^^ gfMul s0 (at' p)) (gfInv (at' p ^^^ at' q))
        [(p, BitVec.ofNat 8 (s0 ^^^ w)), (q, BitVec.ofNat 8 w)]).find? (explains n ss)

/-! ## Schemes (R355) -/

/-- Every of some bytes equal? -/
def sameBytes (d : List Byte) (ix : List Nat) : Bool := ix.all fun j => d.getD j 0 == d.getD (ix.headD 0) 0
/-- Indexes of the top bytes of the words, and of the halves. -/
def wordTops : List Nat := (List.range 8).map fun i => 4 * i + 3
def halfTops : List Nat := (List.range 16).map fun i => 2 * i + 1
/-- Content of a sector in the first scheme that fits it, or none: it is raw. -/
def schemeBytes (d : List Byte) : Option (List Byte) :=
  let nz := d.filter fun b => b != 0
  if nz.length ≤ 23 then
    some (1 :: leBytes 4 ((List.range 32).foldl (fun m i => if d.getD i 0 = 0 then m else m + 2 ^ i) 0) ++ nz)
  else if sameBytes d wordTops then
    some (2 :: d.getD 3 0 :: (List.range 32).filterMap fun i => if i % 4 = 3 then none else d[i]?)
  else if sameBytes d halfTops then
    some (3 :: d.getD 1 0 :: (List.range 32).filterMap fun i => if i % 2 = 1 then none else d[i]?)
  else none
/-- Does a 32-byte sector fit a compressed scheme? -/
def sectorFits (d : List Byte) : Bool := (schemeBytes d).isSome
/-- The 28 bytes of a compressed sector: its content, then zeros. -/
def packBytes (c : List Byte) : List Byte := c ++ List.replicate (28 - c.length) 0
/-- Take the nonzero bytes of a mask in turn. -/
def spread (m : Nat) : Nat → Nat → List Byte → List Byte
  | 0, _, _ => []
  | n + 1, i, bs => if m.testBit i then bs.headD 0 :: spread m n (i + 1) (bs.drop 1) else 0 :: spread m n (i + 1) bs
/-- The data of a compressed sector, where its first byte names a scheme. -/
def unpackBytes (c : List Byte) : Option (List Byte) :=
  let b := c.getD 1 0
  match (c.headD 0).toNat with
  | 1 => some (spread (leNat ((c.drop 1).take 4)) 32 0 (c.drop 5))
  | 2 => some ((List.range 8).flatMap fun i => (c.drop (2 + 3 * i)).take 3 ++ [b])
  | 3 => some ((List.range 16).flatMap fun i => (c.drop (2 + i)).take 1 ++ [b])
  | _ => none

/-- The check symbols of a sector, each changed by 0xFF where it is poisoned (R353). -/
def checkSymbols (bs : List Byte) (pois : Bool) : List Nat := (rsCheck bs).map fun c => if pois then c ^^^ 0xFF else c
/-- The 32 bytes that HBM4E holds for a sector: packed with their check symbols, or raw. -/
def storedBytes (d : List Byte) (pois : Bool) : List Byte :=
  match schemeBytes d with
  | some c => packBytes c ++ (checkSymbols (packBytes c) pois).map (BitVec.ofNat 8)
  | none => d

/-- What a read of a sector comes to: right; corrected; other data than was written, beyond what the code detects or without a code,
`fixed` where the code had changed something; or uncorrectable. -/
inductive SectorRead where
  | good
  | corrected
  | wrong (d : List Byte) (fixed : Bool)
  | lost
  deriving DecidableEq, Repr
/-- Bytes with errors. -/
def Errs.apply (es : Errs) (bs : List Byte) : List Byte := es.foldl (fun l e => updAt l e.1 fun b => b ^^^ e.2) bs
/-- READ a sector whose codeword HBM4E holds with errors; a raw one has a code of 36 symbols, or without an entry none. -/
def readSector (d : List Byte) (coded : Bool) (es : Errs) : SectorRead :=
  let c := schemeBytes d
  let n := if c.isSome then 32 else 36
  if es.isEmpty then .good
  else if c.isNone && !coded then (if Errs.apply es d == d then .good else .wrong (Errs.apply es d) false)
  else match rsFind n ((List.range 4).map (syndrome n es)) with
    | none => .lost
    | some fix =>
      let rest := Errs.add es fix
      if rest.isEmpty then .corrected
      else match c with
        | none => .wrong (Errs.apply rest d) (!fix.isEmpty)
        | some c => match unpackBytes ((Errs.apply rest (packBytes c)).take 28) with
          | some d => .wrong d (!fix.isEmpty)
          | none => .lost

/-! ## The overflow block (R356, R357) -/

/-- No sector of the frame is raw. -/
def Frame.reset : Frame := { raw := [], entries := [], weak := false }

/-- The lowest free entry of an overflow block, of its 192 (R356). `entries` lists those ever used, in order. -/
def Frame.take (f : Frame) (sec : Nat) : Frame × Bool :=
  match f.entries.findIdx? fun e => e.isNone with
  | some i => ({ f with entries := setAt f.entries i (some sec) }, true)
  | none => if f.entries.length < 192 then ({ f with entries := f.entries ++ [some sec] }, true) else (f, false)

/-- Free the entry of a sector, without trailing free entries, so that equal blocks are equal data. -/
def Frame.free (f : Frame) (sec : Nat) : Frame :=
  { f with entries := ((f.entries.map fun e => if e = some sec then none else e).reverse.dropWhile Option.isNone).reverse }

/-- Is a raw sector without an entry? -/
def Frame.unprotected (f : Frame) : Bool := f.raw.any fun q => !f.entries.contains (some q)

/-- The overflow state after sector `sec` of the frame was written (R357): the new state, and whether the frame became weak. -/
def Frame.write (f : Frame) (sec : Nat) (fits : Bool) : Frame × Bool :=
  if fits then
    let f := { f.free sec with raw := f.raw.filter (· ≠ sec) }
    ({ f with weak := f.weak && f.unprotected }, false)
  else
    let g := { f with raw := insertAsc sec f.raw }
    if g.entries.contains (some sec) then (g, false)
    else
      let (g, got) := g.take sec
      if got then ({ g with weak := g.weak && g.unprotected }, false) else ({ g with weak := true }, !f.weak)

/-- Where the overflow block of a frame lies, by the frame's physical address: its stack's top 2 GiB (R356). -/
def overflowAddr (frame : Nat) : Nat := frame / 2 ^ 36 * 2 ^ 36 + (2 ^ 36 - 2 ^ 31) + frame % 2 ^ 36 / 32
/-- Bytes 0 to 255 of the block: MAP. -/
def Frame.mapBytes (f : Frame) : List Byte := leBytes 256 (f.raw.foldl (fun m q => m + 2 ^ q) 0)
/-- An entry's 8 bytes: CHECK of the sector it names, V and SECTOR. -/
def entryBytes (check : Nat → List Nat) (e : Option Nat) : List Byte :=
  match e with
  | some q => leBytes 4 (2 ^ 15 + q) ++ (check q).map (BitVec.ofNat 8)
  | none => List.replicate 8 0
/-- Bytes 512 to 2,047: the 192 entries. -/
def Frame.entriesBytes (f : Frame) (check : Nat → List Nat) : List Byte :=
  (List.range 192).flatMap fun i => entryBytes check (f.entries.getD i none)
/-- The sectors of bytes, each as its 32 bytes. -/
def sectorsOf (n : Nat) (bs : List Byte) : List (List Byte) := (List.range n).map fun q => (bs.drop (32 * q)).take 32
/-- The 2,048 bytes of a frame's overflow block, from the check symbols of its raw sectors (R356). -/
def Frame.block (f : Frame) (check : Nat → List Nat) : List Byte :=
  let m := f.mapBytes
  let e := f.entriesBytes check
  m ++ ((sectorsOf 8 m ++ sectorsOf 48 e).flatMap fun x => (rsCheck x).map (BitVec.ofNat 8)) ++ List.replicate 32 0 ++ e

end Sys2Proof.Machine
end

