-- ==== Sys2Proof/Machine/Mem.lean ====
section
/-!
DEFINITION. Page tables and translation (R339 to R344), and the home copy of memory with its poison, its HBM4E sectors and
its undo record (R353 to R360).
-/
namespace Sys2Proof.Machine

/-! ## Page-table entries (R341) -/

/-- The fields of a leaf that a walk met, and where the entry lies. -/
structure Page where
  entry : Nat      -- address of the entry
  base : Nat       -- physical address of the page
  size : Nat
  pois : Bool
  tr : Bool
  mig : Nat
  home : Nat
  hw : Bool
  x : Bool
  w : Bool
  r : Bool
  lease : Bool
  deriving DecidableEq, Repr

/-- What a walk ends in. -/
inductive Walk where
  | absent
  | malformed
  | page (p : Page)
  deriving DecidableEq, Repr

/-- A page-table entry as a number (R341). -/
def pteWord (p : Page) (present : Bool) : Nat :=
  p.base + (if p.pois then 2048 else 0) + (if p.tr then 1024 else 0) + p.mig * 256 + p.home * 128
    + (if p.hw then 64 else 0) + (if p.x then 32 else 0) + (if p.w then 16 else 0) + (if p.r then 8 else 0)
    + (if p.lease then 4 else 0) + 2 + (if present then 1 else 0)

/-- The leaf fields of an entry that maps `size` bytes (R341). -/
def pteFields (addr e size : Nat) : Page :=
  { entry := addr, base := e / 4096 * 4096, size := size, pois := e.testBit 11, tr := e.testBit 10, mig := e / 256 % 4,
    home := e / 128 % 2, hw := e.testBit 6, x := e.testBit 5, w := e.testBit 4, r := e.testBit 3, lease := e.testBit 2 }

/-- A present leaf: malformed when a reserved bit is set, MIG is 3 or ADDR is not aligned to the page (R341). -/
def leafWalk (addr e size : Nat) : Walk :=
  let p := pteFields addr e size
  if e ≥ 2 ^ 52 ∨ p.mig = 3 ∨ p.base % size ≠ 0 then .malformed else .page p

/-- A present entry that names a next table: malformed when a reserved bit is set (R341). -/
def nextTable (e : Nat) : Option Nat := if e ≥ 2 ^ 52 ∨ e % 4096 ≠ 1 then none else some (e - 1)

/-- The address of the entry of a level in a table (R340). -/
def entryAt (table level va : Nat) : Nat :=
  table + 8 * (match level with
    | 0 => va / 2 ^ 30 % 2 ^ 18
    | 1 => va / 2 ^ 21 % 512
    | _ => va / 2 ^ 16 % 32)

/-- Bytes that a leaf of a level maps (R340). -/
def leafSize : Nat → Nat
  | 0 => 2 ^ 30
  | 1 => 2 ^ 21
  | _ => 2 ^ 16

/-- The walk of a virtual address from a table of a level, `n` levels deep (R340, R341). An absent entry is denied as absent
whatever its other bits hold. -/
def walkFrom (mem : List Host.Cell) (va : Nat) : Nat → Nat → Nat → Walk
  | 0, _, _ => .malformed
  | n + 1, level, table =>
    let addr := entryAt table level va
    let e := Memory.le mem addr 8
    if e % 2 = 0 then .absent
    else if e / 2 % 2 = 1 then leafWalk addr e (leafSize level)
    else if n = 0 then .malformed
    else match nextTable e with
      | some t => walkFrom mem va n (level + 1) t
      | none => .malformed

/-- The walk of a virtual address of a space. -/
def State.walk (s : State) (space va : Nat) : Walk :=
  match (s.space space).root with
  | some r => walkFrom s.mem va 3 0 r
  | none => .absent

/-- The page of a virtual address, where it is present and well formed. -/
def State.page? (s : State) (space va : Nat) : Option Page :=
  match s.walk space va with
  | .page p => some p
  | _ => none

/-- The physical address of a virtual address, where its page is present. -/
def State.pa? (s : State) (space va : Nat) : Option Nat :=
  (s.page? space va).map fun p => p.base + va % p.size

/-- Kinds of access. -/
inductive Acc where
  | load | store | fetch
  deriving DecidableEq, Repr

/-- Does a page allow the access? -/
def Page.allows (p : Page) : Acc → Bool
  | .load => p.r
  | .store => p.w
  | .fetch => p.x

/-- Why an access is denied, as the INFO of PERM (R351): 0 permission, 1 absent, 2 malformed, 3 upper bits. -/
def State.denied (s : State) (space ea : Nat) (a : Acc) : Option Nat :=
  if ea ≥ 2 ^ 48 then some 3
  else match s.walk space ea with
    | .absent => some 1
    | .malformed => some 2
    | .page p => if p.allows a then none else some 0

/-! ## Changing entries -/

/-- Write a number of n bytes into tables or records that lie outside every space. -/
def State.pokeRaw (s : State) (a n x : Nat) : State := { s with mem := Memory.writeBytes s.mem a (leBytes n x) }

/-- The root table of a space, made where it is missing (R339, R340). -/
def State.ensureRoot (s : State) (space : Nat) : Option (Nat × State) :=
  match (s.space space).root with
  | some r => some (r, s)
  | none => (s.allocTable 512).map fun (a, s) => (a, s.updSpace space fun x => { x with root := some a })

/-- The next table below an entry, made where it is missing (R340). -/
def State.ensureNext (s : State) (addr : Nat) : Option (Nat × State) :=
  let e := Memory.le s.mem addr 8
  if e % 2 = 1 then (if e / 2 % 2 = 1 then none else (nextTable e).map fun t => (t, s))
  else (s.allocTable 1).map fun (a, s) => (a, s.pokeRaw addr 8 (a + 1))

/-- The address of the level-2 entry of a virtual address, its tables made where they are missing. -/
def State.ensureEntry (s : State) (space va : Nat) : Option (Nat × State) :=
  (s.ensureRoot space).bind fun (r, s) =>
  (s.ensureNext (entryAt r 0 va)).bind fun (t1, s) =>
  (s.ensureNext (entryAt t1 1 va)).map fun (t2, s) => (entryAt t2 2 va, s)

/-- The address of the level-2 entry of a virtual address, if its tables exist. -/
def State.entry? (s : State) (space va : Nat) : Option Nat :=
  (s.space space).root.bind fun r =>
    let e0 := Memory.le s.mem (entryAt r 0 va) 8
    if e0 % 4 ≠ 1 then none
    else (nextTable e0).bind fun t1 =>
      let e1 := Memory.le s.mem (entryAt t1 1 va) 8
      if e1 % 4 ≠ 1 then none else (nextTable e1).map fun t2 => entryAt t2 2 va

/-- The level-2 entry of a virtual address: none where no MAP has covered it (R343). -/
def State.pte? (s : State) (space va : Nat) : Option (Nat × Nat) :=
  (s.entry? space va).bind fun a =>
    let e := Memory.le s.mem a 8
    if e = 0 then none else some (a, e)

/-- Rewrite an entry (R342): the model keeps no translator caches, so a shootdown is complete at once (log 18). -/
def State.setPte (s : State) (p : Page) (present : Bool) : State := s.pokeRaw p.entry 8 (pteWord p present)

/-- Map fresh read-only pages of the Resident into a space: kernel text, argument copies, counters, counter blocks (R28,
R169, R305, R329). Answers the virtual and the physical address of each page's start, for physically contiguous use of one
page only. -/
def State.mapPages (s : State) (space : Nat) (x : Bool) : Nat → Nat → Option State
  | 0, _ => some s
  | n + 1, va =>
    (s.allocFrame 0).bind fun (f, s) =>
    (s.ensureEntry space va).bind fun (e, s) =>
      State.mapPages
        (s.setPte { entry := e, base := f, size := 65536, pois := false, tr := false, mig := 0, home := 0, hw := false,
                    x := x, w := false, r := true, lease := true } true)
        space x n (va + 65536)

/-- Fresh pages of the Resident for `bytes` bytes, at a virtual address it chooses (log 7). -/
def State.residentPages (s : State) (space bytes : Nat) (x : Bool) : Option (Nat × State) :=
  let n := (bytes + 65535) / 65536
  let (va, s) := s.allocVa n
  (s.mapPages space x n va).map fun s => (va, s)

/-! ## The home copy of memory -/

/-- Follow a write of one sector into its overflow block, the weak list and the WEAK counter (R357, R364). -/
def State.sectorWritten (s : State) (sec : Nat) : State :=
  let fr := sec / 2048
  let old := SMap.getD s.frames fr Frame.reset
  let (f, weak) := old.write (sec % 2048) (sectorFits (Memory.bytes s.mem (sec * 32) 32))
  let s := { s with frames := SMap.set Frame.reset s.frames fr f, hbmErrs := SMap.del s.hbmErrs sec }
  if weak then { (s.count (homeDie (sec * 32)) weakIx 1) with weak := s.weak ++ [fr * 65536] } else s

/-- The numbers from a up to b. -/
def span (a b : Nat) : List Nat := (List.range (b + 1 - a)).map (· + a)

/-- A write of whole bytes to physical memory: its bytes, then the poison of the sectors it covers (R353), then the sectors'
encoding (R357). -/
def State.poke (s : State) (pa : Nat) (bs : List Byte) : State :=
  match bs with
  | [] => s
  | _ =>
    let n := bs.length
    let s := { s with mem := Memory.writeBytes s.mem pa bs }
    (span (pa / 32) ((pa + n - 1) / 32)).foldl
      (fun s sec =>
        let s := if s.poison.isEmpty then s
          else if pa ≤ sec * 32 ∧ sec * 32 + 32 ≤ pa + n then { s with poison := s.poison.filter (· ≠ sec) } else s
        s.sectorWritten sec) s

/-- A write of some bytes of one sector at once: the sector keeps its poison (R353), and is encoded once (R357). -/
def State.pokePart (s : State) (sec : Nat) (bs : List (Nat × Byte)) : State :=
  match bs with
  | [] => s
  | _ => State.sectorWritten { s with mem := bs.foldl (fun m b => Memory.write m (sec * 32 + b.1) b.2) s.mem } sec

/-- Poison a sector, and count it (R353, R364). -/
def State.poisonSector (s : State) (sec : Nat) : State :=
  if s.poison.contains sec then s
  else { (s.count (homeDie (sec * 32)) ueIx 1) with poison := insertAsc sec s.poison, hbmErrs := SMap.del s.hbmErrs sec }

/-- Is a sector raw with an entry, or compressed, so that check symbols cover it (R357)? -/
def State.sectorCoded (s : State) (sec : Nat) : Bool :=
  let f := SMap.getD s.frames (sec / 2048) Frame.reset
  !f.raw.contains (sec % 2048) || f.entries.contains (some (sec % 2048))
/-- HBM4E reads a sector whose codeword holds errors (R352, R355, R357): a corrected one is counted, an uncorrectable one is poisoned, and
what the code does not find is read as data. -/
def State.readHbm (s : State) (sec : Nat) : State :=
  match SMap.find? s.hbmErrs sec with
  | none => s
  | some es =>
    match readSector (Memory.bytes s.mem (sec * 32) 32) (s.sectorCoded sec) es with
    | .good => s
    | .corrected => s.count (homeDie (sec * 32)) ceHbm 1
    | .lost => s.poisonSector sec
    | .wrong d fixed =>
      let s := { s with mem := Memory.writeBytes s.mem (sec * 32) d, hbmErrs := SMap.del s.hbmErrs sec }
      if fixed then s.count (homeDie (sec * 32)) ceHbm 1 else s
/-- HBM4E reads a line. -/
def State.readHbmLine (s : State) (line : Nat) : State :=
  if s.hbmErrs.isEmpty then s else (List.range 4).foldl (fun s q => s.readHbm (line * 4 + q)) s
/-- A node stops being staged, and its telemetry counts it (R360, R364). The hub counts it, since a node has no die of its
own (log 17). -/
def State.unstage (s : State) (who : Nat) : State :=
  if who = 0 then s
  else
    let (j, n) := keyNode who
    match s.node? j n with
    | some x => if x.staged then (s.updNode j n fun x => { x with staged := false }).count 2 unstagedIx 1 else s
    | none => s

/-- Record a byte's value before a staged node's first write to it (R359); the last writer of the byte is noted where it is such a node
(R361; log 16). -/
def State.recordPrior (s : State) (who pa : Nat) (prior : Byte) : State :=
  let (j, n) := keyNode who
  match (if who = 0 then none else s.node? j n) with
  | some x =>
    if !x.staged then { s with writers := SMap.del s.writers pa }
    else
      let s := { s with writers := SMap.put s.writers pa who }
      if x.undo.any (fun u => u.1 == pa) then s else s.updNode j n fun x => { x with undo := (pa, prior) :: x.undo }
  | none => { s with writers := SMap.del s.writers pa }
/-- Record a byte of the home copy before a write. -/
def State.recordUndo (s : State) (who pa : Nat) : State := s.recordPrior who pa (Memory.read s.mem pa)

/-- Bytes of a space's undo log on a die that hold records (R360; log 17: one byte of log for each byte recorded). -/
def State.undoUsed (s : State) (space die : Nat) : Nat :=
  s.res.jobs.foldl (fun n j =>
    if j.2.space = space then
      j.2.nodes.foldl (fun n x => n + (x.logged.filter fun a => homeDie a == die).length) n
    else n) 0
/-- A line leaves L2: the undo records of its bytes, kept in L2 tags until then, are written to the undo log; a node for whose record
there is no room stops being staged (R359, R360). -/
def State.logUndo (s : State) (line : Nat) : State :=
  s.res.jobs.foldl (fun s (j, jb) =>
    (List.range jb.nodes.length).foldl (fun s n =>
      match s.node? j n with
      | some x =>
        let new := (x.undo.map (·.1)).filter fun a => a / 128 == line && !x.logged.contains a
        if !x.staged || new.isEmpty then s
        else if x.undoLog < s.undoUsed jb.space (lineDie line) + new.length then s.unstage (nodeKey j n)
        else s.updNode j n fun x => { x with logged := x.logged ++ new }
      | none => s) s) s

/-- A write into the home copy by a node, or by none: undo record, bytes, sectors. -/
def State.pokeBy (s : State) (who pa : Nat) (bs : List Byte) : State :=
  let s := if who = 0 ∧ s.writers.isEmpty then s
    else (List.range bs.length).foldl (fun s i => s.recordUndo who (pa + i)) s
  s.poke pa bs

/-- Is one of the bytes in a poisoned sector? -/
def State.poisoned (s : State) (pa n : Nat) : Bool :=
  !s.poison.isEmpty && (span (pa / 32) ((pa + n - 1) / 32)).any fun q => s.poison.contains q

/-! ## What waits for a migration (R346) -/

end Sys2Proof.Machine

namespace Sys2Proof
open Sys2Proof.Machine

/-- Field of `n` bytes at byte `i` of bytes 16 to 31 of a header, `i` counted from 16 (R166). -/
def Header.field (h : Header) (i n : Nat) : Nat := (h.opf.extractLsb' (8 * i) (8 * n)).toNat
/-- NBYTES (R166). -/
def Header.nbytes (h : Header) : Nat := h.field 0 2

end Sys2Proof

namespace Sys2Proof.Machine

/-- The bytes a packet accesses. -/
def packetBytes (p : Packet) : Nat := if p.hdr.opcode = 4 then 4 else p.hdr.nbytes
/-- Has a line a write or an atomic of a remote endpoint queued for the end of its page's migration (R346)? -/
def State.lineQueued (s : State) (pl : Nat) : Bool :=
  s.fab.frozen.any fun q => (span (q.hdr.va / 128) ((q.hdr.va + packetBytes q - 1) / 128)).any fun v =>
    (s.pa? q.hdr.space (v * 128)).any fun a => lineOf a == pl

/-- May a line of a page not be read now, since the page moves to its new home or a write of the line is queued (R346)? -/
def State.frozenRead (s : State) (space va : Nat) : Bool :=
  match s.page? space va with
  | some p => p.mig == 2 || s.lineQueued (lineOf (p.base + va % p.size))
  | none => false

/-! ## Writing the Resident's own pages -/

/-- Write bytes at a virtual address of a space, page by page byte, for the Resident's own pages. -/
def State.writeSpace (s : State) (space va : Nat) : List Byte → State
  | [] => s
  | b :: r =>
    State.writeSpace (match s.pa? space va with
      | some pa => s.poke pa [b]
      | none => s) space (va + 1) r

/-! ## Residency (R343, R344) -/

/-- Does a byte lie in a range of the launch? -/
def inRanges (rs : List (Nat × Nat)) (va : Nat) : Bool := rs.any fun r => r.1 ≤ va && va < r.1 + r.2

/-- What is exempt from LEASEOUT (R344): the argument copy, the kernel's text and read-only data, the space's completion
counters, the counter blocks of its queue pairs. -/
def State.exempt (s : State) (l : Launch) (va : Nat) : Bool :=
  (l.argva ≤ va && va < l.argva + 4096)
  || (match s.kernel? l.kernel with
      | some k => (k.stext ≤ va && va < k.stext + k.ssize) || (k.qtext ≤ va && va < k.qtext + k.qsize)
          || (k.rodata ≤ va && va < k.rodata + k.rosize)
      | none => false)
  || s.res.jobs.any (fun j => j.2.space == l.space && j.2.ctrbase ≤ va && va < j.2.ctrbase + 16 * j.2.units.length)
  || s.fab.qps.any (fun q => q.2.space == l.space && q.2.blockVa ≤ va && va < q.2.blockVa + 256)

/-- Does an access of n bytes of a launch raise LEASEOUT (R344)? -/
def State.leaseOut (s : State) (launch va n : Nat) : Bool :=
  match s.launch? launch with
  | some l => (List.range n).any fun i => !inRanges l.ranges (va + i) && !s.exempt l (va + i)
  | none => true

end Sys2Proof.Machine
end

