-- ==== Sys2Proof/Machine/Cache.lean ====
section
/-!
DEFINITION. L1 lines, peer L2 lines and homes as storage: versions (R118), merges of dirty bytes at the home (R106), condition
monitors and their wake-ups (R139), acquire actions, the home's and the peer's service of requests (R133 to R137), and the
accesses performed at a home (R129). Chapter 9's messages are in CoherEv.lean.
-/
namespace Sys2Proof.Machine

/-! ## Lines -/

/-- Does the line hold data that a load may take (R134)? -/
def Line.readable (l : Line) : Bool :=
  match l.st with
  | .S | .SM_A | .E | .M | .MS_A | .O | .OM_A => true
  | _ => false
/-- Does an L1 hold the line with exclusive ownership? -/
def Line.exclusive (l : Line) : Bool := l.st == .E || l.st == .M
/-- An untracked copy of a SW page: not owned and not on its way to be. -/
def Line.untracked (l : Line) : Bool := l.sw && l.st == .S
/-- All 128 bytes. -/
def allBytes : ByteMask := BitVec.allOnes 128
/-- The bytes whose values the line holds: all where it was filled, else those its core has written (R103, R106). -/
def Line.held (l : Line) : ByteMask := if l.filled then allBytes else l.dirty ||| l.kept
/-- Does the line hold a clean byte (R106)? -/
def Line.hasClean (l : Line) : Bool := l.held &&& ~~~l.dirty != 0
/-- The byte indexes of a mask, ascending. -/
def byteIxs (m : ByteMask) : List Nat := (List.range 128).filter fun i => m.getLsbD i
/-- The mask of n bytes from byte i. -/
def maskFrom (i n : Nat) : ByteMask := BitVec.ofNat 128 ((2 ^ n - 1) * 2 ^ i)
/-- A line's data under a mask, the rest from elsewhere. -/
def mergeData (old new : LineData) (m : ByteMask) : LineData :=
  (byteIxs m).foldl (fun d i => LineData.setByte d i (byteAt new i)) old
/-- The 32-byte sectors that a mask covers whole. -/
def fullSectors (m : ByteMask) : List Nat :=
  (List.range 4).filter fun q => m.extractLsb' (32 * q) 32 == BitVec.allOnes 32
/-- The poison bits of those sectors. -/
def fullMask (m : ByteMask) : BitVec 4 := (fullSectors m).foldl (fun p q => p ||| (1 <<< q)) 0
/-- Mark of the node that wrote a dirty byte. -/
def Line.whoAt (l : Line) (i : Nat) : Nat := SMap.getD l.who i 0
/-- The home copy of a line. -/
def State.homeData (s : State) (line : Nat) : LineData := LineData.ofBytes (Memory.bytes s.mem (line * 128) 128)
/-- Poison of the home copy's four sectors (R353). -/
def State.homePois (s : State) (line : Nat) : BitVec 4 :=
  (List.range 4).foldl (fun m q => if s.poison.contains (line * 4 + q) then m ||| (1 <<< q) else m) 0
/-- Set the poison of the home copy's sectors to that of data which replaces them (R353). -/
def State.setHomePois (s : State) (line : Nat) (p : BitVec 4) : State :=
  if s.poison.isEmpty ∧ p = 0 then s
  else { s with poison := (List.range 4).foldl (fun l q =>
      if p.getLsbD q then insertAsc (line * 4 + q) l else l.filter (· ≠ line * 4 + q)) s.poison }

/-! ## Versions (R118) -/

/-- Lines of one of the 64 slices of a die's L2, which together hold 256 MiB (R103). -/
def sliceLines : Nat := 32768
/-- The slice of a line on a die; the spec does not give it (log 59). -/
def sliceOf (line : Nat) : Nat := line % 64
/-- Lines of a slice of a die: those it homes and those it holds as the peer of the other die (R103, R133). -/
def State.slicePlaces (s : State) (die slice : Nat) : Nat :=
  (s.homes.filter fun h => h.2.present && lineDie h.1 == die && sliceOf h.1 == slice).length
    + (s.peers.filter fun p => p.2.st != .I && lineDie p.1 != die && sliceOf p.1 == slice).length
/-- May the home slice give up the line in silence: one that no other cache holds coherently and no agent waits for or watches
(R118, R135, R141)? -/
def State.homeEvictable (s : State) (c : Nat × Home) : Bool :=
  c.2.present && c.2.stamp != s.cycle && c.2.st == .HI && c.2.cur.isNone && c.2.queue.isEmpty && c.2.reserved.isNone
    && !s.monitors.any fun m => lineOf m.pa == c.1
/-- A home slice gives up a line with its version record (R118); its bytes' undo records go to the undo log (R359). -/
def State.homeGone (s : State) (line : Nat) : State :=
  (s.logUndo line).updHome line fun h => { h with present := false, ver := 0, stamp := 0, dirty := false }
/-- The line is present in its home slice from now on, read from HBM4E (R355): its version record is created. A full slice gives up
another line first (R103, R118; log 13). -/
def State.touch (s : State) (line : Nat) : State :=
  let h := s.home line
  if h.present then s
  else
    let s := if s.homes.length + s.peers.length < sliceLines ∨ s.slicePlaces (lineDie line) (sliceOf line) < sliceLines then s
      else
        let cand := s.homes.filter fun c => s.homeEvictable c && lineDie c.1 == lineDie line && sliceOf c.1 == sliceOf line
        match cand[Config.victim s.choice % cand.length]? with
        | some c => State.homeGone { s with choice := s.choice + 1 } c.1
        | none => s
    (s.readHbmLine line).setHome line { s.home line with present := true, ver := 0, stamp := s.cycle }
/-- The version advances: at most once in a cycle (R118). -/
def State.advance (s : State) (line : Nat) : State :=
  (s.touch line).updHome line fun h => { h with ver := h.ver + 1, adv := s.cycle + 1 }
/-- The home copy of a line has been written: one version event, and L2 holds what HBM4E does not (R118, R352). -/
def State.wrote (s : State) (line : Nat) : State := (s.advance line).updHome line fun h => { h with dirty := true }
/-- Has the line had its version event of this cycle (R118)? -/
def State.advanced (s : State) (line : Nat) : Bool := (s.home line).adv == s.cycle + 1

/-! ## Monitors (R139) -/

/-- The comparison of a monitor (R273). -/
def condHolds (c : WCond) (w d : Word) : Bool :=
  match c with
  | .eq => w == d
  | .ne => w != d
  | .geS => d.toInt ≤ w.toInt
  | .geN => d.toNat ≤ w.toNat
  | .ltS => w.toInt < d.toInt
  | .ltN => w.toNat < d.toNat
/-- The word at a physical address of the home copy. -/
def State.homeWord (s : State) (pa : Nat) : Word := BitVec.ofNat 32 (Memory.le s.mem pa 4)
/-- A monitor is registered on the line. -/
def State.monitored (s : State) (line : Nat) : Bool := s.monitors.any fun m => m.registered && lineOf m.pa == line
/-- Scopes at which an acquire or release acts on the L1 (R106). -/
def scopeWide (sc : Scope) : Bool :=
  match sc with
  | .str | .grp => false
  | _ => true
/-- Do two threads lie in one instance of a scope (R106, R108)? The threads as a recorded release gives them. -/
def Rel.sharesAt (sc : Nat) (a b : Rel) : Bool :=
  match sc with
  | 0 => a.strand == b.strand
  | 1 => a.gang == b.gang && a.group == b.group
  | 2 => a.die == b.die && a.cluster == b.cluster
  | 3 => a.die == b.die
  | _ => true
/-- Are a release and an acquire at inclusive scopes (R108)? -/
def Rel.inclusive (a b : Rel) : Bool := Rel.sharesAt a.scope a b && Rel.sharesAt b.scope a b
/-- A thread at a scope, as a release or an acquire. -/
def Thread.rel (x : Thread) (sc : Nat) (now : Nat) : Rel :=
  { scope := sc, strand := x.uid, gang := x.gang, group := x.group, cluster := x.cluster, die := x.die, at' := now }
/-- Number of a scope (R204, SC). -/
def scopeNo : Scope → Nat
  | .str => 0
  | .grp => 1
  | .cls => 2
  | .die => 3
  | .pkg => 4
  | .dom => 5
/-- Of two recorded releases, the one made last: the record that data keeps when the two meet (R117). -/
def Rel.later (a b : Option Rel) : Option Rel :=
  match a, b with
  | some x, some y => if x.at' < y.at' then b else a
  | none, _ => b
  | _, none => a
/-- The scope check of an acquire that reads a line: the recorded release's scope, where it is not inclusive and was made since
the launch began (R117). -/
def State.scopeMix (s : State) (x : Thread) (sc : Scope) (rel : Option Rel) : Option Nat :=
  match s.launch? x.launch, rel with
  | some l, some r =>
    if l.scopechk && l.startAt ≤ r.at' && !Rel.inclusive r (x.rel (scopeNo sc) s.cycle) then some r.scope else none
  | _, _ => none
/-- End a monitor's wait: the split resumes at its next instruction, and its wake-up is an acquire (R139), which is checked as one
(R117). -/
def State.wakeMonitor (s : State) (m : Monitor) : State :=
  let s := { s with monitors := s.monitors.filter fun x => x.id ≠ m.id }
  match s.thread? m.t with
  | some x =>
    if x.uid = m.uid then
      let s := s.resume m.t m.e
      let s := if scopeWide m.scope then s.addAcquire m.t m.e x (x.split m.e).mask m.scope m.pc else s
      match s.scopeMix x m.scope (s.home (lineOf m.pa)).rel with
      | some r => s.updSplit m.t m.e fun p => { p with mix := some (m.va, r, scopeNo m.scope, m.pc) }
      | none => s
    else s
  | none => s
/-- The home evaluates the monitors registered on a line: those whose condition holds are woken in the order of their
registration (R139). -/
def State.evalLine (s : State) (line : Nat) : State :=
  (s.monitors.filter fun m =>
    m.registered && lineOf m.pa == line && condHolds m.cond (s.homeWord m.pa) m.val).foldl State.wakeMonitor s
/-- Evaluate the monitors of lines just written. -/
def State.settle (s : State) (lines : List Nat) : State := if s.monitors.isEmpty then s else lines.foldl State.evalLine s

/-! ## Merging dirty bytes at the home (R106) -/

/-- Is the home free for an agent: no transaction, no reservation of another, no local owner? -/
def Home.free (h : Home) (agent : Nat) : Bool :=
  h.cur.isNone && (h.reserved.isNone || h.reserved == some agent) && h.owner.isNone
/-- May an agent write the home copy now: free, with no holder, and no version event yet in this cycle (R118, R129, R132, R135)? -/
def State.writable (s : State) (agent line : Nat) : Bool :=
  (s.home line).free agent && (s.home line).sharers.isEmpty && (s.home line).st == .HI && !s.advanced line
/-- May an agent of R129 read the home copy now: free, with no copy at the peer (R135)? -/
def State.homeQuiet (s : State) (agent line : Nat) : Bool := (s.home line).free agent && (s.home line).st == .HI
/-- May an agent read the home copy now, other caches keeping their shared copies: free, with no exclusive holder (R135)? -/
def State.homeReadable (s : State) (agent line : Nat) : Bool := (s.home line).free agent && (s.home line).st != .HX

/-- Write a line's masked bytes into the home copy with their writers' marks, sector by sector: a sector written whole loses its poison
(R353, R357, R359). -/
def State.pokeLine (s : State) (line : Nat) (d : LineData) (m : ByteMask) (who : Nat → Nat) : State :=
  let a := line * 128
  let s := (byteIxs m).foldl (fun s i =>
    if who i = 0 ∧ s.writers.isEmpty then s else s.recordUndo (who i) (a + i)) s
  (List.range 4).foldl (fun s q =>
    if (fullSectors m).contains q then s.poke (a + 32 * q) (LineData.bytes d (32 * q) 32)
    else s.pokePart (line * 4 + q) (((List.range 32).filter fun j => m.getLsbD (32 * q + j)).map fun j => (j, byteAt d (32 * q + j)))) s

/-- Poison carried by written-back sectors stays with them (R353). -/
def State.carryPoison (s : State) (line : Nat) (p : BitVec 4) (m : ByteMask) : State :=
  (List.range 4).foldl (fun s q =>
    if p.getLsbD q && m.extractLsb' (32 * q) 32 != 0 then { s with poison := insertAsc (line * 4 + q) s.poison } else s) s

/-- A line's dirty bytes go into the home copy, with their poison and the release they hold (R106, R117, R353). -/
def State.mergeBytes (s : State) (line : Nat) (l : Line) : State :=
  let s := (s.pokeLine line l.data l.dirty l.whoAt).carryPoison line l.pois l.dirty
  if l.rel.isSome then s.updHome line fun h => { h with rel := Rel.later l.rel h.rel } else s
/-- Merge a line's dirty bytes into the home copy, without evaluating monitors: one version event (R106, R118). -/
def State.mergeRaw (s : State) (line : Nat) (l : Line) : State := if l.dirty = 0 then s else (s.mergeBytes line l).wrote line

/-- A line whose dirty bytes have been written back: a clean copy of what it held (R106). -/
def Line.cleaned (l : Line) : Line := { l with dirty := 0, who := [], kept := if l.filled then 0 else l.held }

/-- What an acquire at cluster scope or wider waits for: lines that it must write back, and whose home cannot take their bytes now
(R106). -/
def State.acquireBlocked (s : State) (cid : Nat) : List Nat :=
  (s.core cid).l1.filterMap fun (line, l) =>
    if l.untracked && l.dirty != 0 && l.hasClean && !s.writable cid line then some line else none

/-- Merge one line's dirty bytes at the home, and evaluate. -/
def State.merge (s : State) (line : Nat) (l : Line) : State :=
  if l.dirty = 0 then s else (s.mergeRaw line l).settle [line]

/-- The acquire actions of R106 on a core's L1: every untracked SW line that holds a clean byte is written back where it also
holds dirty bytes, and dropped; a fill on its way serves only the access that asked for it. -/
def State.acquire (s : State) (cid : Nat) : State :=
  let (s, ls) := (s.core cid).l1.foldl (fun (s, ws) (line, l) =>
    if !l.sw then (s, ws)
    else if l.st == .S then
      (if !l.hasClean then (s, ws)
       else if l.dirty = 0 then (s.setL1 cid line Line.reset, ws)
       else ((s.mergeRaw line l).setL1 cid line Line.reset, ws ++ [line]))
    else if l.st == .IS_D then (s.setL1 cid line { l with stale := true, kept := 0 }, ws)
    else if l.st == .IM_D then (s.setL1 cid line { l with kept := 0 }, ws)
    else (s, ws)) (s, ([] : List Nat))
  s.settle ls

/-- One access of an agent that writes bytes of one line of the home copy: one version event (R118, R129). -/
def State.agentWrite (s : State) (who pa : Nat) (bs : List Byte) : State :=
  ((s.pokeBy who pa bs).wrote (lineOf pa)).settle [lineOf pa]
/-- The writes of one access to one line of the home copy have been made: one version event (R118). -/
def State.homeWritten (s : State) (line : Nat) : State := (s.wrote line).settle [line]

/-! ## The home's service of requests (R135, R136) -/

/-- Is a request of an L1 for a SW page, whose copies the home does not track (R105)? -/
def State.swRequest (s : State) (src line : Nat) : Bool := src < 128 && (s.l1 src line).sw

/-- Whom the home asks before it serves a request: the message for each (R135). -/
def homeAsks (line : Nat) (h : Home) (r : HReq) : List (Nat × Instr) :=
  let srv := homeServer (lineDie line)
  let peer := peerAgent (1 - lineDie line)
  let own (m : Nat → Instr) : List (Nat × Instr) := match h.owner with
    | some o => if o = r.src then [] else [(o, m o)]
    | none => []
  if r.kind = 0 ∨ r.kind = 5 then
    own (fun o => .fwdS o srv line) ++ (if h.st == .HX && r.src != peer then [(peer, .fwdS peer srv line)] else [])
  else if r.kind = 3 ∨ r.kind = 6 then
    own (fun o => .fwdM o srv line) ++ (match h.st with
      | .HS => [(peer, .inv peer srv line)]
      | .HX | .HO => [(peer, .fwdM peer srv line)]
      | _ => [])
  else
    own (fun o => .fwdM o srv line)
    ++ ((h.sharers.filter (· ≠ r.src)).map fun c => (c, .inv c srv line))
    ++ (if r.src = peer then []
        else match h.st with
          | .HS => [(peer, .inv peer srv line)]
          | .HX | .HO => [(peer, .fwdM peer srv line)]
          | _ => [])

/-- The directory's state while it waits (R135). -/
def homeWaiting (line : Nat) (h : Home) (r : HReq) : HSt :=
  if r.src = peerAgent (1 - lineDie line) then h.st
  else if r.kind = 0 ∨ r.kind = 5 then (if h.st == .HX then .HX_S else h.st)
  else match h.st with
    | .HS => .HS_I
    | .HX | .HO => .HX_I
    | x => x

/-- The home's agent for a monitor's registration. -/
def monAgent (id : Nat) : Nat := 2 ^ 20 + id
/-- Does the agent that asked still want the line kept for it: the accesses of a core, a gang, a monitor that is not registered, the
hub; agent 201 is an access that has been dropped? -/
def State.agentWants (s : State) (agent : Nat) : Bool :=
  if agent < 128 then s.ops.any fun m => !m.x.seq && m.cid == agent
  else if agent = 201 then false
  else if 2 ^ 20 ≤ agent ∧ agent < 2 ^ 21 then s.monitors.any fun m => !m.registered && monAgent m.id == agent
  else if 300 ≤ agent ∧ agent < 2 ^ 20 then (s.gang? (agent - 300)).isSome
  else true

/-- The home completes the request in service: it grants, or keeps the line for an agent's access (R135, R140). -/
def State.homeFinish (s : State) (line : Nat) (r : HReq) : State :=
  let s := s.touch line
  let srv := homeServer (lineDie line)
  let peer := peerAgent (1 - lineDie line)
  let h := s.home line
  let ret := s.monitored line
  let done := { h with cur := none, acks := [] }
  if 3 ≤ r.kind ∧ r.kind ≤ 5 then
    (s.setHome line { done with reserved := if s.agentWants r.src then some r.src else none }).wakeAgent r.src
  else if r.kind = 6 then (s.setHome line done).homeGone line
  else if r.kind = 0 then
    if s.swRequest r.src line then
      (s.setHome line done).send (.data r.src srv line (s.homeData line) h.ver .S false)
    else if h.st == .HI && h.sharers.isEmpty && !ret then
      let s := (s.setHome line (if r.src = peer then { done with st := .HX } else { done with owner := some r.src })).advance line
      s.send (.data r.src srv line (s.homeData line) (s.home line).ver .E false)
    else
      let s := s.setHome line (if r.src = peer then { done with st := .HS }
        else { done with sharers := insertAsc r.src h.sharers })
      s.send (.data r.src srv line (s.homeData line) h.ver .S false)
  else
    let holds := if r.src = peer then h.st == .HS || h.st == .HO else h.sharers.contains r.src
    let s := (s.setHome line (if r.src = peer then { done with st := .HX, owner := none, sharers := [] }
      else { done with st := .HI, owner := some r.src, sharers := [] })).advance line
    let v := (s.home line).ver
    if r.kind = 2 && holds then s.send (.grant r.src srv line v ret)
    else s.send (.data r.src srv line (s.homeData line) v .M ret)

/-- Does the completion of a request grant exclusive ownership, which is a version event (R118)? -/
def State.grants (s : State) (line : Nat) (r : HReq) : Bool :=
  r.kind == 1 || r.kind == 2
    || (r.kind == 0 && !s.swRequest r.src line && (s.home line).st == .HI && (s.home line).sharers.isEmpty && !s.monitored line)
/-- The request in service completes where its holders have answered and the line has had no version event in this cycle. -/
def State.homeEnds (s : State) (line : Nat) (r : HReq) : Bool := !(s.advanced line && s.grants line r)

/-- The home serves waiting requests while it can (R136). -/
def State.homeRunFor : Nat → State → Nat → State
  | 0, s, _ => s
  | n + 1, s, line =>
    let h := s.home line
    if h.cur.isSome || h.reserved.isSome then s
    else match h.queue with
      | [] => s
      | r :: rest =>
        let asks := homeAsks line h r
        let s := s.setHome line { h with queue := rest, cur := some r, acks := asks.map (·.1), st := homeWaiting line h r }
        if asks.isEmpty then (if s.homeEnds line r then State.homeRunFor n (s.homeFinish line r) line else s)
        else asks.foldl (fun s a => s.send a.2) s

/-- The home serves waiting requests. -/
def State.homeRun (s : State) (line : Nat) : State := State.homeRunFor ((s.home line).queue.length + 1) s line

/-- A holder has answered the home: when the last has, the request completes (R135). -/
def State.homeAnswered (s : State) (src line : Nat) : State :=
  let h := s.home line
  let acks := h.acks.filter (· ≠ src)
  let s := s.setHome line { h with acks := acks }
  match h.cur with
  | some r => if acks.isEmpty && s.homeEnds line r then (s.homeFinish line r).homeRun line else s
  | none => s

/-- The line kept for an agent's access is free again. -/
def State.unreserve (s : State) (agent line : Nat) : State :=
  let h := s.home line
  if h.reserved = some agent then (s.setHome line { h with reserved := none }).homeRun line else s
/-- Requests that a version event of the cycle before has held up are completed or served (R118), and a line that its agent no longer wants
is free. -/
def State.homeKick (s : State) : State :=
  let s := (s.homes.filter fun h => h.2.reserved.any fun a => !s.agentWants a).foldl (fun s h => s.unreserve (h.2.reserved.getD 0) h.1) s
  (s.homes.filter fun h => h.2.acks.isEmpty && (h.2.cur.isSome || !h.2.queue.isEmpty)).foldl (fun s h =>
    match h.2.cur with
    | some r => if s.homeEnds h.1 r then (s.homeFinish h.1 r).homeRun h.1 else s
    | none => s.homeRun h.1) s

/-- The die of an agent, and its number there in ascending cluster and core number: a core, the core of a monitor's split, after a
cluster's cores the engines of a gang; the peer L2 asks for its die's cores, and the hub is of no die (R136). -/
def State.agentPlace (s : State) (agent : Nat) : Option (Nat × Nat) :=
  if agent < 128 then some (coreDie agent, 2 * (agent % 64))
  else if agent < 130 then some (agent - 128, 0)
  else if 2 ^ 20 ≤ agent ∧ agent < 2 ^ 21 then
    (s.monitors.find? fun m => monAgent m.id == agent).bind fun m => (s.thread? m.t).map fun x => (x.die, 2 * (x.cid % 64))
  else if 300 ≤ agent then (s.gang? (agent - 300)).map fun g => (g.die, 16 * g.cluster + 15)
  else none
/-- The place of an agent among the arrivals of one cycle at a line's home: those of the home's die, those of the other, the hub
(R136). -/
def State.arrivalRank (s : State) (agent line : Nat) : Nat :=
  match s.agentPlace agent with
  | some (d, n) => if d = lineDie line then n else 200 + n
  | none => 400
/-- A request takes its place among those that wait: arrivals of one cycle in the order of R136. -/
def insertReq (q : HReq) : List HReq → List HReq
  | [] => [q]
  | r :: rest => if r.at'.1 = q.at'.1 ∧ q.at'.2 < r.at'.2 then q :: r :: rest else r :: insertReq q rest
/-- A request reaches the home (R136). -/
def State.homeRequest (s : State) (agent line kind : Nat) : State :=
  (s.updHome line fun h => { h with
    queue := insertReq { src := agent, kind := kind, at' := (s.cycle + 1, s.arrivalRank agent line) } h.queue }).homeRun line
/-- Has the agent's request of a kind been made, and not been served? -/
def State.homeAskedFor (s : State) (agent line kind : Nat) : Bool :=
  let is (r : HReq) : Bool := r.src == agent && r.kind == kind
  (s.home line).queue.any is || (match (s.home line).cur with
    | some r => is r
    | none => false)
/-- An access at the home waits there in turn, unless the agent's is already waiting or in service, or the line is kept for it and has
only had its version event of this cycle. -/
def State.askHome (s : State) (agent line kind : Nat) : State :=
  if s.homeAskedFor agent line kind || ((s.home line).reserved == some agent && s.advanced line) then s
  else (s.unreserve agent line).homeRequest agent line kind

/-- Every line kept for an agent is free again. -/
def State.unreserveAll (s : State) (agent : Nat) : State :=
  (s.homes.filter fun h => h.2.reserved == some agent).foldl (fun s h => s.unreserve agent h.1) s

/-- An agent gives up an access that waits at the home. -/
def State.dropHub (s : State) (agent line : Nat) : State :=
  (s.updHome line fun h => { h with
    queue := h.queue.filter fun r => r.src != agent
    cur := h.cur.map fun r => if r.src = agent then { r with src := 201 } else r }).unreserve agent line

/-- An agent gives up every access that waits at a home, and every line kept for it. -/
def State.dropAgent (s : State) (agent : Nat) : State :=
  ((s.homes.filter fun h => h.2.reserved == some agent || h.2.queue.any (fun r => r.src == agent) || h.2.cur.any fun r => r.src == agent)
    |>.map (·.1)).foldl (fun s l => s.dropHub agent l) s

/-- The first of an agent's lines, in rising order, that it may not access now. -/
def State.homeMissing (s : State) (agent : Nat) (lines : List (Nat × Bool)) : Option (Nat × Bool) :=
  let miss := lines.filter fun l => if l.2 then !s.writable agent l.1 else !s.homeQuiet agent l.1
  match sortAsc (miss.map (·.1)) with
  | [] => none
  | x :: _ => miss.find? fun l => l.1 == x
/-- Has the agent's request for the line been made, or has the line had its version event of this cycle? -/
def State.homeAsked (s : State) (agent : Nat) (l : Nat × Bool) : Bool :=
  s.homeAskedFor agent l.1 (if l.2 then 4 else 3) || (s.advanced l.1 && (s.home l.1).reserved == some agent)
/-- Would an attempt to access the lines change anything: they are there, or the next has not been asked for? -/
def State.homeTry (s : State) (agent : Nat) (lines : List (Nat × Bool)) : Bool :=
  match s.homeMissing agent lines with
  | some l => !s.homeAsked agent l
  | none => true
/-- An agent's reads and writes at the home, all or none: ready when every line is; else it asks for the first that is not, and
keeps none beyond it, so that no two agents wait for each other (R129). `lines` pairs each line with whether it is written. -/
def State.homeAccess (s : State) (agent : Nat) (lines : List (Nat × Bool)) : State × Bool :=
  match s.homeMissing agent lines with
  | some (line, w) =>
    (((lines.filter fun l => line < l.1).foldl (fun s l => s.unreserve agent l.1) s).askHome agent line (if w then 4 else 3), false)
  | none => (lines.foldl (fun s l => s.touch l.1) s, true)

/-- After the access the lines are free again. -/
def State.homeDone (s : State) (agent : Nat) (lines : List (Nat × Bool)) : State :=
  lines.foldl (fun s l => s.unreserve agent l.1) s

/-- A read at the home that leaves other caches their shared copies: ready, or asked for (R135, R139). -/
def State.homeShare (s : State) (agent line : Nat) : State × Bool :=
  if s.homeReadable agent line then (s.touch line, true) else (s.askHome agent line 5, false)

/-! ## The peer L2's service of its L1s (R133, R134) -/

/-- Dirty bytes of an L1's line come to its die's peer L2: each has its place in its node's undo record there, since they go home only
later (R359). -/
def State.peerRecord (s : State) (line : Nat) (l : Line) : State :=
  if l.who.isEmpty ∧ s.writers.isEmpty then s
  else (byteIxs l.dirty).foldl (fun s i => s.recordPrior (l.whoAt i) (line * 128 + i) (byteAt (s.peer line).data i)) s

/-- Is the peer's line in a stable state? -/
def CSt.stable : CSt → Bool
  | .I | .S | .E | .M | .O => true
  | _ => false

/-- Whom the peer asks before it serves its L1's request. -/
def peerAsks (line : Nat) (p : Line) (l1 kind : Nat) : List (Nat × Instr) :=
  let srv := peerAgent (1 - lineDie line)
  let own (m : Nat → Instr) : List (Nat × Instr) := match p.owner with
    | some o => if o = l1 then [] else [(o, m o)]
    | none => []
  if kind = 0 then own fun o => .fwdS o srv line
  else own (fun o => .fwdM o srv line) ++ (p.sharers.filter (· ≠ l1)).map fun c => (c, .inv c srv line)

/-- The peer grants to its L1. -/
def State.peerGrant (s : State) (line : Nat) (p : Line) (l1 kind : Nat) : State :=
  let srv := peerAgent (1 - lineDie line)
  let p := { p with cur := none, acks := [] }
  if kind = 0 then
    if s.swRequest l1 line then (s.setPeer line p).send (.data l1 srv line p.data p.ver .S false)
    else if p.exclusive && p.sharers.isEmpty && p.owner.isNone && !p.ret then
      (s.setPeer line { p with owner := some l1 }).send (.data l1 srv line p.data p.ver .E false)
    else (s.setPeer line { p with sharers := insertAsc l1 p.sharers }).send (.data l1 srv line p.data p.ver .S false)
  else
    let s := s.setPeer line { p with st := .M, owner := some l1, sharers := [] }
    if kind = 2 && p.sharers.contains l1 then s.send (.grant l1 srv line p.ver p.ret)
    else s.send (.data l1 srv line p.data p.ver .M p.ret)

/-- The peer serves its L1s while it is stable; where it lacks the copy it asks the home (R134). -/
def State.peerRunFor : Nat → State → Nat → State
  | 0, s, _ => s
  | n + 1, s, line =>
    let p := s.peer line
    if p.cur.isSome || !p.st.stable then s
    else match p.waiting with
      | [] => s
      | (l1, kind) :: rest =>
        let me := peerAgent (1 - lineDie line)
        let srv := homeServer (lineDie line)
        if kind = 0 ∧ p.st = .I then (s.setPeer line { p with st := .IS_D }).send (.getS me srv line)
        else if kind ≠ 0 ∧ p.st = .I then (s.setPeer line { p with st := .IM_D }).send (.getM me srv line)
        else if kind ≠ 0 ∧ p.st = .S then (s.setPeer line { p with st := .SM_A }).send (.upg me srv line)
        else if kind ≠ 0 ∧ p.st = .O then (s.setPeer line { p with st := .OM_A }).send (.upg me srv line)
        else
          let asks := peerAsks line p l1 kind
          let p := { p with waiting := rest }
          if asks.isEmpty then State.peerRunFor n (s.peerGrant line p l1 kind) line
          else asks.foldl (fun s a => s.send a.2) (s.setPeer line { p with cur := some (l1, kind), acks := asks.map (·.1) })

/-- The peer serves its L1s. -/
def State.peerRun (s : State) (line : Nat) : State := State.peerRunFor ((s.peer line).waiting.length + 1) s line

/-- The peer's answer to the home's forward or invalidation, once its L1s have answered: kinds 5 FwdS, 6 FwdM, 7 Inv (R134). -/
def State.peerAnswer (s : State) (line kind : Nat) : State :=
  let me := peerAgent (1 - lineDie line)
  let srv := homeServer (lineDie line)
  let p := s.peer line
  let p := { p with cur := none, acks := [], ret := kind == 7 && p.ret }
  let gone : Line := { Line.reset with waiting := p.waiting }
  let s := if kind = 7 then s else s.setHomePois line p.pois
  let s := if kind = 7 ∨ p.rel.isNone then s else s.updHome line fun h => { h with rel := Rel.later p.rel h.rel }
  match kind with
  | 5 =>
    match p.st with
    | .E => ((s.setPeer line { p with st := .S }).send (.snpData me srv line p.data false)).peerRun line
    | .M => ((s.setPeer line { p with st := .O, dirty := 0, who := [] }).send (.snpData me srv line p.data true)).peerRun line
    | .MS_A => (s.setPeer line p).send (.snpData me srv line p.data true)
    | .MI_A => (s.setPeer line { p with st := .I_A }).send (.snpData me srv line p.data true)
    | .EI_A => (s.setPeer line { p with st := .I_A }).send (.snpData me srv line p.data false)
    | _ => (s.setPeer line p).send (.snpData me srv line p.data false)
  | 6 =>
    match p.st with
    | .OM_A => (s.setPeer line { gone with st := .IM_D }).send (.snpData me srv line p.data true)
    | .MS_A | .MI_A => (s.setPeer line { gone with st := .I_A, data := p.data }).send (.snpData me srv line p.data true)
    | .EI_A | .I_A => (s.setPeer line { gone with st := .I_A, data := p.data }).send (.snpData me srv line p.data false)
    | st => ((s.setPeer line gone).send (.snpData me srv line p.data (st == .M || st == .O))).peerRun line
  | _ =>
    match p.st with
    | .SM_A => (s.setPeer line { gone with st := .IM_D }).send (.invAck me srv line)
    | .S => ((s.setPeer line gone).send (.invAck me srv line)).peerRun line
    | _ => (s.setPeer line p).send (.invAck me srv line)

/-- The operation that caused the peer's exclusive request under a monitor has been performed in its L1, whose data is back: the
peer returns it with PutM and RET (R134, R140). -/
def State.peerReturn (s : State) (line : Nat) : State :=
  let p := s.peer line
  if p.ret && p.st == .M && p.owner.isNone && p.cur.isNone then
    (s.setPeer line { p with st := .MS_A, ret := false }).send
      (.putM (peerAgent (1 - lineDie line)) (homeServer (lineDie line)) line p.data p.dirty true)
  else s

/-- One of the peer's L1s has answered it. A value written under RET goes to the home before another L1 is served (R140). -/
def State.peerAnswered (s : State) (src line : Nat) : State :=
  let p := s.peer line
  let acks := p.acks.filter (· ≠ src)
  let s := s.setPeer line { p with acks := acks }
  match p.cur with
  | some (l1, k) =>
    if !acks.isEmpty then s
    else if k ≥ 5 then s.peerAnswer line k
    else if p.ret then (s.setPeer line { p with acks := [], cur := none, waiting := (l1, k) :: p.waiting }).peerReturn line
    else (s.peerGrant line (s.peer line) l1 k).peerRun line
  | none => s

/-! ## An L1's requests and storage -/

/-- Lines that occupy the L1: a write-back buffer is not one (R134). -/
def l1Used (c : Core) : Nat := (c.l1.filter fun l => l.2.st != .MI_A && l.2.st != .EI_A && l.2.st != .I_A).length
/-- Lines of an L1: 256 KiB of 128 bytes (R103). -/
def l1Lines : Nat := 2048
/-- Is the line leased by a strand of the core (R130)? -/
def State.leased (s : State) (cid line : Nat) : Bool := s.leases.any fun l => l.cid == cid && l.line == line

/-- May an L1 give up a line now: one that is stable, that is not leased, and whose dirty bytes the home can take (R130, R134)? -/
def State.evictable (s : State) (cid : Nat) (c : Nat × Line) : Bool :=
  (c.2.st == .S || (c.2.exclusive && !c.2.ret)) && !s.leased cid c.1 && (c.2.exclusive || c.2.dirty == 0 || s.writable cid c.1)
/-- An L1 gives up a line: silently when shared and clean, with PutC or PutM when owned, by a merge at the home when a SW line is dirty
(R134). -/
def State.evictLine (s : State) (cid : Nat) (c : Nat × Line) : State :=
  let srv := serverOf cid c.1
  if c.2.st == .M then (s.setL1 cid c.1 { c.2 with st := .MI_A }).send (.putM cid srv c.1 c.2.data c.2.dirty false)
  else if c.2.st == .E then (s.setL1 cid c.1 { c.2 with st := .EI_A }).send (.putC cid srv c.1)
  else (s.merge c.1 c.2).setL1 cid c.1 Line.reset

/-- Take room for one more line: where the L1 is full, a line is evicted (log 13). -/
def State.l1Room (s : State) (cid : Nat) : Option State :=
  let c := s.core cid
  if l1Used c < l1Lines then some s
  else
    let cand := c.l1.filter (s.evictable cid)
    cand[Config.victim s.choice % cand.length]?.map fun l => State.evictLine { s with choice := s.choice + 1 } cid l

/-- May the peer L2 give up a line: one that is stable, that none of its L1s holds or waits for (R134)? -/
def peerEvictable (p : Line) : Bool :=
  p.st != .I && p.st.stable && p.owner.isNone && p.sharers.isEmpty && p.waiting.isEmpty && p.cur.isNone && !p.ret
/-- The peer L2 gives up a line: silently when shared, with PutC or PutM when owned (R134). -/
def State.evictPeer (s : State) (line : Nat) : State :=
  let p := s.peer line
  let me := peerAgent (1 - lineDie line)
  let srv := homeServer (lineDie line)
  match p.st with
  | .E => (s.setPeer line { p with st := .EI_A }).send (.putC me srv line)
  | .M | .O => (s.setPeer line { p with st := .MI_A }).send (.putM me srv line p.data p.dirty false)
  | _ => s.setPeer line Line.reset
/-- Was a line filled into this slice of a die in this cycle (R118)? -/
def State.sliceFilled (s : State) (die slice : Nat) : Bool :=
  (s.homes.any fun h => h.2.present && h.2.stamp == s.cycle && lineDie h.1 == die && sliceOf h.1 == slice)
    || s.peers.any fun p => p.2.filled && p.2.stamp == s.cycle && lineDie p.1 != die && sliceOf p.1 == slice
/-- May a home ask the peer to give its copy up, to give up the line itself (R135)? -/
def State.homeRecallable (s : State) (c : Nat × Home) : Bool :=
  c.2.present && c.2.stamp != s.cycle && (c.2.st == .HX || c.2.st == .HO) && c.2.cur.isNone && c.2.queue.isEmpty && c.2.reserved.isNone
    && c.2.owner.isNone && c.2.sharers.isEmpty && !s.monitors.any fun m => lineOf m.pa == c.1
/-- What gives a line up: the L1 of a core, a home slice, the peer L2. -/
inductive Giver where
  | l1 (cid : Nat)
  | home
  | peer
  deriving DecidableEq, Repr
/-- The lines that may go in this cycle: any that an L1 may give up, and, of the slices that a line was filled into, any that they
may. Sets and replacement are not in the spec (log 13). -/
def State.mayGo (s : State) : List (Giver × Nat) :=
  (s.cores.flatMap fun (c : Nat × Core) => (c.2.l1.filter (s.evictable c.1)).map fun l => (Giver.l1 c.1, l.1))
    ++ (s.homes.filter fun h => s.sliceFilled (lineDie h.1) (sliceOf h.1) && (s.homeEvictable h || s.homeRecallable h)).map
        (fun h => (Giver.home, h.1))
    ++ (s.peers.filter fun p => s.sliceFilled (1 - lineDie p.1) (sliceOf p.1) && p.2.stamp != s.cycle && peerEvictable p.2).map
        fun p => (Giver.peer, p.1)
/-- An L1, a home slice or a peer L2 gives up a line, or none does: Config says (log 13). A home whose peer holds the line
recalls it first (R135). -/
def State.lineGoes (s : State) : State :=
  match s.mayGo with
  | [] => s
  | cs =>
    let n := Config.evict s.choice % (cs.length + 1)
    let s := { s with choice := s.choice + 1 }
    if n = 0 then s
    else match cs[n - 1]? with
      | some (.l1 c, l) => s.evictLine c (l, s.l1 c l)
      | some (.home, l) => if (s.home l).st == .HI then s.homeGone l else s.askHome hubAgent l 6
      | some (.peer, l) => s.evictPeer l
      | none => s

/-- The stores that L1s hold of SW pages reach L2 within a finite time, also where no release asks for it (R107): their lines are written back
and stay, clean, or their homes are asked for them. -/
def State.writeOut (s : State) : State :=
  match (s.cores.flatMap fun (c : Nat × Core) => (c.2.l1.filter fun l => l.2.untracked && l.2.dirty != 0).map fun l => (c.1, l.1)) with
  | [] => s
  | ds =>
    if s.cycle % (Config.sweep + 1) ≠ 0 then s
    else ds.foldl (fun (s : State) d =>
      if s.writable d.1 d.2 then (s.merge d.2 (s.l1 d.1 d.2)).setL1 d.1 d.2 (s.l1 d.1 d.2).cleaned else s.askHome d.1 d.2 4) s

/-- The version and data that an L1 takes at once: from the home on its own die, or from its die's peer L2, where the copy
there is current and no other cache owns the line. -/
def State.l2Copy (s : State) (cid line : Nat) : Option (LineData × BitVec 16 × BitVec 4) :=
  if coreDie cid = lineDie line then
    if s.homeReadable cid line then
      let h := (s.touch line).home line
      some (s.homeData line, h.ver, s.homePois line)
    else none
  else
    let p := s.peer line
    if p.st.stable && p.readable && p.owner.isNone && p.cur.isNone then some (p.data, p.ver, p.pois) else none

/-- Fill an L1 line, keeping the bytes the core has written (R119). -/
def Line.fill (l : Line) (st : CSt) (d : LineData) (v : BitVec 16) (p : BitVec 4) (now : Nat) (ret : Bool)
    (rel : Option Rel) : Line :=
  { l with st := st, filled := true, kept := 0, data := mergeData d l.data (l.dirty ||| l.kept), ver := v, stamp := now, ret := ret,
           pois := p &&& ~~~(fullMask (l.dirty ||| l.kept)),
           rel := Rel.later l.rel rel }

/-- A SW line filled at once (R119). -/
def State.swFill (s : State) (cid line : Nat) (c : LineData × BitVec 16 × BitVec 4) : State :=
  let s := if coreDie cid = lineDie line then s.touch line else s
  s.setL1 cid line (Line.fill { s.l1 cid line with sw := true } .S c.1 c.2.1 c.2.2 s.cycle false (s.home line).rel)

/-- Send an L1's request for a line, for an access: a shared copy, or exclusive ownership (R134). -/
def State.l1Ask (s : State) (cid line : Nat) (op : Nat) (excl sw : Bool) : State :=
  let s := s.unreserve cid line
  let l := { s.l1 cid line with sw := sw, asker := some op }
  let srv := serverOf cid line
  match l.st with
  | .I => if excl then (s.setL1 cid line { l with st := .IM_D }).send (.getM cid srv line)
          else (s.setL1 cid line { l with st := .IS_D }).send (.getS cid srv line)
  | .S =>
    if excl then
      if l.sw then (s.setL1 cid line { l with st := .IM_D, filled := false, kept := 0 }).send (.getM cid srv line)
      else (s.setL1 cid line { l with st := .SM_A }).send (.upg cid srv line)
    else (s.setL1 cid line { l with st := .IS_D }).send (.getS cid srv line)
  | _ => s

/-- Does a line hold a dirty byte of the mask that another node wrote (R359)? -/
def Line.otherDirty (l : Line) (m : ByteMask) (who : Nat) : Bool := (byteIxs (l.dirty &&& m)).any fun i => l.whoAt i != who

/-- Write bytes into an L1 line: data, byte mask, the writer's mark, the poison they cover (R103, R353). -/
def State.l1Write (s : State) (cid line off : Nat) (bs : List Byte) (who : Nat) : State :=
  let l := s.l1 cid line
  let ixs := (List.range bs.length).map (· + off)
  let m := maskFrom off bs.length
  s.setL1 cid line { l with
    st := if l.st == CSt.E then CSt.M else l.st
    data := (bs.zip ixs).foldl (fun d b => LineData.setByte d b.2 b.1) l.data
    dirty := l.dirty ||| m
    kept := l.kept &&& ~~~m
    pois := l.pois &&& ~~~(fullMask m)
    who := if who = 0 ∧ l.who.isEmpty then l.who else ixs.foldl (fun w i => SMap.set 0 w i who) l.who }

/-- The operation that caused an exclusive request under a monitor has been performed: the data returns with PutM and RET
(R134, R140). -/
def State.returnRet (s : State) (cid line : Nat) : State :=
  let l := s.l1 cid line
  if l.ret && l.exclusive && !s.leased cid line then
    (s.setL1 cid line { l with st := .MS_A, ret := false, asker := none }).send (.putM cid (serverOf cid line) line l.data l.dirty true)
  else s

/-- Is a forward or an invalidation of the line on its way to the L1 (R132)? -/
def State.forwardPending (s : State) (cid line : Nat) : Bool :=
  s.msgs.any fun m => match m with
    | .fwdS d _ l | .fwdM d _ l | .inv d _ l => d == cid && l == line
    | _ => false

/-- A core gives up a SW line that it owns: its dirty bytes are written back and it becomes an untracked clean copy (R128). -/
def State.giveUp (s : State) (cid line : Nat) : State :=
  let l := s.l1 cid line
  let clean : Line := { l with st := .S, dirty := 0, who := [], ret := false }
  if coreDie cid = lineDie line then
    (((s.mergeRaw line l).updHome line fun h => { h with owner := none }).setL1 cid line clean).settle [line] |>.homeRun line
  else
    (((s.peerRecord line l).updPeer line fun p => { p with
      data := mergeData p.data l.data l.dirty, dirty := p.dirty ||| l.dirty, owner := none,
      st := if p.st == .E && l.dirty != 0 then .M else p.st, rel := Rel.later l.rel p.rel,
      who := l.who.foldl (fun w x => SMap.set 0 w x.1 x.2) p.who }).setL1 cid line clean).peerReturn line |>.peerRun line

/-- The dirty bytes of a line that its core goes on owning under a lease are written back (R128). -/
def State.writeBackOwned (s : State) (cid line : Nat) : State :=
  let l := s.l1 cid line
  if coreDie cid = lineDie line then
    ((s.mergeRaw line l).setL1 cid line { l with dirty := 0, who := [] }).settle [line]
  else
    ((s.peerRecord line l).updPeer line fun p => { p with
      data := mergeData p.data l.data l.dirty, dirty := p.dirty ||| l.dirty,
      st := if p.st == .E && l.dirty != 0 then .M else p.st, rel := Rel.later l.rel p.rel,
      who := l.who.foldl (fun w x => SMap.set 0 w x.1 x.2) p.who }).setL1 cid line { l with dirty := 0, who := [] }

/-- Is the home of a line of this core's die, and has it had its version event of this cycle (R118)? -/
def State.mergeLate (s : State) (cid line : Nat) : Bool := coreDie cid == lineDie line && s.advanced line
/-- What the release actions wait for: untracked dirty lines whose home cannot take their bytes now, with whether the core may ask
for the line; dirty lines on their way; owned ones whose home takes no bytes in this cycle (R106, R118). -/
def State.releaseBlocked (s : State) (cid : Nat) : List (Nat × Bool) :=
  (s.core cid).l1.filterMap fun (line, l) =>
    if !l.sw || l.dirty == 0 then none
    else if l.st == .S then (if s.writable cid line then none else some (line, true))
    else if l.exclusive then (if s.mergeLate cid line then some (line, false) else none)
    else if l.st == .IS_D || l.st == .IM_D then some (line, false)
    else none
/-- Ask for the lines that the release actions wait for. -/
def State.releaseAsk (s : State) (cid : Nat) : State :=
  (s.releaseBlocked cid).foldl (fun s l => if l.2 then s.askHome cid l.1 4 else s) s

/-- Write back one line of the L1 under a release: an untracked line becomes clean; an owned SW line is given up, or stays owned
where it is leased (R106, R128). -/
def State.writeBackLine (s : State) (cid line : Nat) : State :=
  let l := s.l1 cid line
  if l.untracked && l.dirty != 0 then ((s.merge line l).setL1 cid line l.cleaned).unreserve cid line
  else if l.sw && l.exclusive then (if s.leased cid line then s.writeBackOwned cid line else s.giveUp cid line)
  else s

/-- The release actions of R106 at cluster scope or wider, where nothing blocks them. -/
def State.releaseLines (s : State) (cid : Nat) : State :=
  ((s.core cid).l1.map (·.1)).foldl (fun s line => s.writeBackLine cid line) s

end Sys2Proof.Machine
end

