-- ==== Sys2Proof/Machine/Queue.lean ====
section
/-!
DEFINITION. A gang's region queue: region and C-tile descriptors (R80, R81), footprints (R82, R280), which commands may start,
placeholders (R83), pending engine releases (R78), and an engine fault's cancellations (R90).
-/
namespace Sys2Proof.Machine

/-! ## Descriptors -/

/-- Fields of a region descriptor (R80). -/
structure Region where
  len : Nat
  pitch : Nat
  rows : Nat     -- ROWS + 1
  rsv : Bool
  off : Nat
  deriving DecidableEq, Repr
/-- A region descriptor's fields (R80). -/
def regionOf (d : DWord) : Region :=
  { len := (d.extractLsb' 48 16).toNat, pitch := (d.extractLsb' 32 16).toNat, rows := (d.extractLsb' 24 8).toNat + 1,
    rsv := d.getLsbD 23, off := (d.extractLsb' 0 23).toNat }
/-- The core named by a region's offset (R80, R284). -/
def Region.core (r : Region) : Nat := r.off / 2 ^ 20 % 8
/-- Fields of a C-tile descriptor (R81). -/
structure Tile where
  k : Nat
  m : Nat
  n : Nat
  empty : Bool
  eoff : Nat
  rsv : Bool
  deriving DecidableEq, Repr
/-- A C-tile descriptor's fields; with EMPTY, M and N are 0 (R81). -/
def tileOf (d : DWord) : Tile :=
  let e := d.getLsbD 15
  { k := (d.extractLsb' 32 16).toNat, empty := e,
    m := if e then 0 else 16 * ((d.extractLsb' 16 4).toNat + 1), n := if e then 0 else 16 * ((d.extractLsb' 20 4).toNat + 1),
    eoff := (d.extractLsb' 0 15).toNat, rsv := d.extractLsb' 48 16 != 0 || d.extractLsb' 24 8 != 0 }
/-- Does a C-tile descriptor raise MXCFG (R81)? -/
def Tile.bad (t : Tile) : Bool :=
  t.rsv || (!t.empty && (t.m * t.n > 32768 || t.eoff + t.m * t.n > 32768 || t.eoff % 256 != 0))

/-- The gang's group on a core of its cluster. -/
def Gang.groupOn (g : Gang) (core : Nat) : Option Grp := g.groups.find? fun x => x.core == core
/-- Is a window offset valid for the gang (R48)? -/
def Gang.windowOk (g : Gang) (off : Nat) : Bool := (g.groupOn (off / 2 ^ 20)).isSome && off % 2 ^ 20 < g.size
/-- Does a region raise REGION (R80)? -/
def Gang.regionBad (g : Gang) (r : Region) : Bool :=
  r.len == 0 || r.len % 16 != 0 || r.len > 4096 || r.pitch % 16 != 0 || r.off % 16 != 0
  || (r.rows > 1 && r.pitch < r.len) || r.rsv
  || (List.range r.rows).any fun j =>
      let a := r.off + j * r.pitch
      !(g.windowOk a && g.windowOk (a + r.len - 1) && a / 2 ^ 20 == (a + r.len - 1) / 2 ^ 20)

/-! ## Footprints -/

/-- A range of a footprint: a space (0 the cluster window, 1 + c the accumulator of core c, 9 global virtual memory), its
first number and the one after its last. -/
abbrev FRange := Nat × Nat × Nat
/-- Do two footprints meet (R82)? -/
def overlaps (a b : List FRange) : Bool :=
  a.any fun x => b.any fun y => x.1 == y.1 && x.2.1 < y.2.2 && y.2.1 < x.2.2 && x.2.1 < x.2.2 && y.2.1 < y.2.2
/-- A region's footprint, with core c in place of its own where c is given (R80, R292). -/
def Region.foot (r : Region) (c : Option Nat) : List FRange :=
  let off := match c with
    | some c => r.off % 2 ^ 20 + c * 2 ^ 20
    | none => r.off
  (List.range r.rows).map fun j => (0, off + j * r.pitch, off + j * r.pitch + r.len)
/-- A C tile's footprint on a core (R81). -/
def Tile.foot (t : Tile) (core : Nat) : List FRange :=
  if t.empty then [] else [(1 + core, t.eoff, t.eoff + t.m * t.n)]

/-- Global operand of a copy or gather (R289): the address of row 0, and the pitch or none for the default. -/
def globalOf (d : DWord) : Nat × Option Nat :=
  ((d.extractLsb' 0 48).toNat, if d.extractLsb' 48 16 == 0 then none else some (16 * (d.extractLsb' 48 16).toNat))
/-- Fields of the copy control (R290). -/
structure CopyCtl where
  kdim : Nat
  ndim : Nat
  rsv : Bool
  esz : Nat
  fmt : Nat
  mcast : Nat
  deriving DecidableEq, Repr
/-- The copy control's fields (R290). -/
def ctlOf (d : DWord) : CopyCtl :=
  { kdim := (d.extractLsb' 48 16).toNat, ndim := (d.extractLsb' 32 16).toNat, rsv := d.extractLsb' 13 19 != 0,
    esz := (d.extractLsb' 11 2).toNat, fmt := (d.extractLsb' 8 3).toNat, mcast := (d.extractLsb' 0 8).toNat }
/-- ceil(a / b). -/
def ceilDiv (a b : Nat) : Nat := (a + b - 1) / b
/-- Bytes of an element of a format that is not a block format (R291): formats 0 and 1 are one byte, 4 is two. -/
def fmtBytes (f : Nat) : Nat := if f = 4 then 2 else 1
/-- Is the format a block format: MXFP4 2 or DX4 3 (R92)? -/
def fmtBlock (f : Nat) : Bool := f == 2 || f == 3
/-- Bytes of a block's memory image (R69, R70). -/
def imageBytes (f : Nat) : Nat := if f = 2 then 17 else 18

/-- The global rows of a copy: address and length of each (R291). -/
def copyRows (out : Bool) (t : CpyT) (rg gp cc : DWord) : List (Nat × Nat) :=
  let r := regionOf rg
  let c := ctlOf cc
  let (va, sp) := globalOf gp
  match t with
  | .none => (List.range r.rows).map fun j => (va + j * sp.getD r.len, r.len)
  | .filig | .unfilig =>
    if fmtBlock c.fmt then
      (List.range (c.ndim * ceilDiv c.kdim 32)).map fun i => (va + i * sp.getD 32, imageBytes c.fmt)
    else (List.range c.kdim).map fun k => (va + k * sp.getD (c.ndim * fmtBytes c.fmt), c.ndim * fmtBytes c.fmt)
  | .tr =>
    let e := 2 ^ c.esz
    if out then (List.range c.ndim).map fun j => (va + j * sp.getD (c.kdim * e), c.kdim * e)
    else (List.range c.kdim).map fun j => (va + j * sp.getD (c.ndim * e), c.ndim * e)

/-- Rows of global memory as a footprint. -/
def globalFoot (rows : List (Nat × Nat)) : List FRange := rows.map fun x => (9, x.1, x.1 + x.2)
/-- The bits of a core mask, ascending. -/
def coresOf (m : Nat) : List Nat := (List.range 8).filter fun c => m.testBit c

/-- The target core of an engine command (R284 to R287). -/
def CmdOp.engine : CmdOp → Option Nat
  | .mma _ _ _ _ b _ _ _ => some (regionOf b).core
  | .mxld _ r => some (regionOf r).core
  | .mxst _ r _ => some (regionOf r).core
  | .mxclr _ c => some c
  | _ => none
/-- Does the command run on a copy channel (R279)? -/
def CmdOp.isCopy : CmdOp → Bool
  | .cpy .. | .gath .. => true
  | _ => false
/-- The read footprint (R280, R83). -/
def CmdOp.rd : CmdOp → List FRange
  | .mma _ ol c a b _ o _ =>
    (regionOf a).foot none ++ (regionOf b).foot none ++ (if ol then (regionOf o).foot none else [])
      ++ (tileOf c).foot (regionOf b).core
  | .mxld _ r => (regionOf r).foot none
  | .mxst _ r c => (tileOf c).foot (regionOf r).core
  | .mxclr .. => []
  | .cpy out t rg gp cc => if out then (regionOf rg).foot none else globalFoot (copyRows false t rg gp cc)
  | .gath _ _ ri => (regionOf ri).foot none
  | .place wr rg _ _ => if wr then [] else (regionOf rg).foot none
  | .colpost _ va src => (9, va, va + 32) :: src
/-- The write footprint (R280, R83, R292). -/
def CmdOp.wr : CmdOp → List FRange
  | .mma _ _ c _ b _ _ _ => (tileOf c).foot (regionOf b).core
  | .mxld c r => (tileOf c).foot (regionOf r).core
  | .mxst _ r _ => (regionOf r).foot none
  | .mxclr c core => (tileOf c).foot core
  | .cpy out t rg gp cc =>
    if out then globalFoot (copyRows true t rg gp cc)
    else if (ctlOf cc).mcast = 0 then (regionOf rg).foot none
    else (coresOf (ctlOf cc).mcast).flatMap fun c => (regionOf rg).foot (some c)
  | .gath rd _ _ => (regionOf rd).foot none
  | .place wr rg _ _ => if wr then (regionOf rg).foot none else []
  | .colpost .. => []

/-- Must X wait for the earlier command Y (R82)? -/
def conflicts (y x : CmdOp) : Bool := overlaps y.wr x.rd || overlaps y.rd x.wr || overlaps y.wr x.wr
/-- Commands of the queue before the one with this number. -/
def Gang.before (g : Gang) (id : Nat) : List Cmd := g.queue.takeWhile fun c => c.id ≠ id
/-- Does R82 let a command start? -/
def Gang.mayStart (g : Gang) (c : Cmd) : Bool := !(g.before c.id).any fun y => conflicts y.op c.op

/-! ## Posting and faults -/

/-- A command enters its gang's region queue (R82). -/
def Gang.post (g : Gang) (op : CmdOp) (pc now : Nat) : Gang :=
  { g with queue := g.queue ++ [{ id := g.nextCmd, op := op, pc := pc, started := false, since := now, count := 0, read := [], bad := false }]
           nextCmd := g.nextCmd + 1 }

/-- The numbers of the commands that are hit, and of those that depend on them, directly or through others (R90). -/
def cutQueue (hit : Cmd → Bool) : List Cmd → List Cmd → List Nat
  | _, [] => []
  | roots, c :: r =>
    if hit c || (!c.started && roots.any fun y => conflicts y.op c.op) then c.id :: cutQueue hit (c :: roots) r
    else cutQueue hit roots r

/-- The commands that are hit leave the queue, with their dependents (R90). -/
def Gang.cancel (g : Gang) (hit : Cmd → Bool) : Gang :=
  let cut := cutQueue hit [] g.queue
  { g with queue := g.queue.filter fun y => !cut.contains y.id }

/-- An engine fault (R90): the command and its dependents leave the queue, the context stops, and the earliest posted fault is
the one reported when the rest has completed. -/
def Gang.engineFault (g : Gang) (c : Cmd) (f : EFault) : Gang :=
  { g.cancel (fun y => y.id == c.id) with
    efault := match g.efault with
      | some e => if e.cmd ≤ f.cmd then some e else some f
      | none => some f }

/-- Codes of engine faults (R351). -/
def codeMXCFG : Nat := 0x18
def codeMXMETA : Nat := 0x19
def codeMXHELD : Nat := 0x1A
def codeREGION : Nat := 0x1B

/-! ## Placeholders and releases -/

/-- The split of a placeholder wait that matches (R83): same descriptor, a strand of the group. -/
def State.placeWaiters (s : State) (gid grp : Nat) (desc : DWord) : List (Nat × Nat × Nat × Bool) :=
  s.threads.flatMap fun (t, x) =>
    if x.seq || x.gang != gid || x.group != grp then []
    else (List.range 4).filterMap fun e =>
      match (x.split e).wait with
      | some (.region d lab leaves) => if d = desc then some (t, e, lab, leaves) else none
      | _ => none

/-- The earliest incomplete placeholder of a group with this descriptor (R83). -/
def Gang.placeholder? (g : Gang) (grp : Nat) (desc : DWord) : Option Cmd :=
  g.queue.find? fun c => match c.op with
    | .place _ rg group _ => rg == desc && group.toNat == grp
    | _ => false

/-- Splits that wait for this placeholder resume at their labels, with the acquire actions of R112 (R83, R237). -/
def State.endRegionWaits (s : State) (gid grp : Nat) (desc : DWord) : State :=
  (s.placeWaiters gid grp desc).foldl (fun s (t, e, lab, leaves) =>
    let s := s.resumeAt t e lab leaves
    match s.thread? t with
    | some x => s.addAcquire t e x (x.split e).mask .cls lab
    | none => s) s

/-- A deferred-precise fault of a command (R90). -/
def Cmd.fault (c : Cmd) (now code addr info : Nat) : EFault :=
  { code := code, cmd := c.id, pc := c.pc, addr := addr, info := info, aux0 := 0, aux1 := 0, precise := false, at' := now }
/-- Bits [31:0] of a descriptor, as REGION reports them (R351). -/
def descInfo (d : DWord) : Nat := d.toNat % 2 ^ 32

/-- The check of a placeholder at its start, and what it reports (R294, R278). -/
def Gang.placeFault (g : Gang) (now : Nat) (c : Cmd) : Option EFault :=
  match c.op with
  | .place _ rg group n =>
    if group.toNat ≥ g.groups.length ∨ n.toNat ≥ 4096 then some (c.fault now codeMXCFG 0 0)
    else if g.regionBad (regionOf rg) then some (c.fault now codeREGION 0 (descInfo rg))
    else none
  | _ => none

/-- Has every strand of a group ended? -/
def Gang.groupDone (g : Gang) (grp : Nat) : Bool :=
  match g.groups[grp]? with
  | some x => x.live == 0
  | none => false

/-- One placeholder that becomes ready, faults or completes, if there is one (R83, R294); those of a group that has ended complete
whatever they name (R77). -/
def State.placeStep (s : State) (gid : Nat) : Option State :=
  (s.gang? gid).bind fun g =>
    (g.queue.find? fun c => match c.op with
      | .place _ _ group n =>
        g.mayStart c && (!c.started || c.count ≥ n.toNat) || g.groupDone group.toNat
      | _ => false).map fun c =>
      match c.op with
      | .place _ rg group n =>
        if g.groupDone group.toNat then s.setGang gid { g with queue := g.queue.filter fun y => y.id ≠ c.id }
        else if g.mayStart c && !c.started then
          match g.placeFault s.cycle c with
          | some f => s.setGang gid (g.engineFault c f)
          | none =>
            (s.setGang gid { g with queue := g.queue.map fun y => if y.id = c.id then { y with started := true, since := s.cycle } else y }).endRegionWaits
              gid group.toNat rg
        else if n.toNat ≤ c.count then
          s.setGang gid { g with queue := g.queue.filter fun y => y.id ≠ c.id }
        else s
      | _ => s

/-- Follow placeholders until nothing changes. -/
def State.placeLoop : Nat → State → Nat → State
  | 0, s, _ => s
  | n + 1, s, gid =>
    match s.placeStep gid with
    | some s => State.placeLoop n s gid
    | none => s

/-- Engines whose pending release takes effect: every command on the engine posted before the `mxrel` has left the queue
(R78, R282). -/
def State.releaseEngines (s : State) (gid : Nat) : State :=
  match s.gang? gid with
  | none => s
  | some g =>
    (List.range 8).foldl (fun s c =>
      let cid := (g.die * 8 + g.cluster) * 8 + c
      let e := (s.core cid).engine
      match e.release with
      | some n =>
        if e.holder = some gid && !(g.queue.any fun y => y.id < n && y.op.engine == some c)
        then s.updCore cid fun k => { k with engine := { e with holder := none, release := none } } else s
      | none => s) s

/-- What follows each change of a region queue: placeholders, then engine releases. -/
def State.queueSettle (s : State) (gid : Nat) : State :=
  let n := match s.gang? gid with
    | some g => 2 * g.queue.length + 1
    | none => 0
  (State.placeLoop n s gid).releaseEngines gid

end Sys2Proof.Machine
end

