-- ==== Sys2Proof/Machine/Nodes.lean ====
section
/-!
DEFINITION. What the Resident and the graph engine do inside other steps: messages to the controller (R320, R321), completion
counters (R329), the spread of completion, failure and cancellation (R330, R331), the end of strands, groups and gangs (R40,
R47, R77), fault records (R349 to R351), and rollback (R361).
-/
namespace Sys2Proof.Machine

/-! ## Messages to the controller -/

/-- Operations of messages to the controller (R320). -/
def opRESP : Nat := 0x81
def opCOMPLETE : Nat := 0x82
def opFAULT : Nat := 0x83
def opSTOP : Nat := 0x84
def opSERVICE : Nat := 0x85
def opSYNCACK : Nat := 0x89

/-- Payload bytes of a message: a fault record's 64 (R349), a stop identity's 16 (R338), none in SYNCACK; else 8 for each field, which the
spec does not lay out (log 94). -/
def payloadBytes (op : Nat) (body : List Nat) : Nat :=
  if op = opFAULT then 64 else if op = opSTOP then 16 else if op = opSYNCACK then 0 else 8 * body.length
/-- Send a numbered message: it is stored until acknowledged, the oldest of 4,096 being discarded (R319, R321). -/
def State.tell (s : State) (op ref status : Nat) (body : List Nat) : State :=
  s.updRes fun r =>
    let m : DMsg := { seq := r.nextSeq, ack := r.lastSeq, ref := ref, epoch := r.epoch, op := op, status := status,
                      len := payloadBytes op body, body := body }
    { r with nextSeq := r.nextSeq + 1, store := if r.store.length ≥ 4096 then r.store.drop 1 ++ [m] else r.store ++ [m] }

/-! ## Writes by the Resident -/

/-- The hub does what it can of its acts, in their order: a write waits until its line is at its home, with no holder (R129). -/
def State.hubRunFor : Nat → State → State
  | 0, s => s
  | n + 1, s =>
    match s.hubActs with
    | [] => s
    | .tell op ref status body :: rest => State.hubRunFor n ({ s with hubActs := rest }.tell op ref status body)
    | .write pa bs :: rest =>
      let ls := [(lineOf pa, true)]
      match s.homeAccess hubAgent ls with
      | (s, false) => s
      | (s, true) => State.hubRunFor n ({ s with hubActs := rest }.agentWrite 0 pa bs |>.homeDone hubAgent ls)
/-- The hub does what it can of its acts. -/
def State.hubRun (s : State) : State := State.hubRunFor s.hubActs.length s
/-- A write of the Resident or of the collective sequencer: in its turn, at the line's home (R129, R329). -/
def State.residentWrite (s : State) (pa : Nat) (bs : List Byte) : State := { s with hubActs := s.hubActs ++ [HubAct.write pa bs] }.hubRun
/-- A message that follows the Resident's writes before it (R329). -/
def State.hubTell (s : State) (op ref status : Nat) (body : List Nat) : State :=
  { s with hubActs := s.hubActs ++ [HubAct.tell op ref status body] }.hubRun

/-! ## Reads by the Resident -/

/-- A request of the controller as an agent at the homes, the calls of a space, and a node. -/
def reqAgent (seq : Nat) : Nat := 2 ^ 67 + seq
def callAgent (space : Nat) : Nat := 2 ^ 25 + space
def nodeAgent (j n : Nat) : Nat := 2 ^ 66 + nodeKey j n
/-- Why bytes of a space are not there: a page denies the load; a page's migration has to end first (R346); a line has to be recalled. -/
inductive Lack where
  | denied
  | frozen
  | line (l : Nat)
  deriving DecidableEq, Repr
/-- The bytes of a range of a space, read at their homes, with no copy at the peer and no owner (R129, R324, R328). -/
def State.readSpace (s : State) (agent space va : Nat) : Nat → Except Lack (List Byte)
  | 0 => .ok []
  | n + 1 =>
    match s.denied space va .load, s.pa? space va with
    | none, some pa =>
      if s.frozenRead space va then .error .frozen
      else if s.homeQuiet agent (lineOf pa) then (State.readSpace s agent space (va + 1) n).map fun r => Memory.read s.mem pa :: r
      else .error (.line (lineOf pa))
    | _, _ => .error .denied
/-- Ask for what a read lacks; of the lines kept for it none lies beyond, so that no two agents wait for each other, and none is kept
while a page moves. -/
def State.readAsk (s : State) (agent : Nat) : Lack → State
  | .line line =>
    ((s.homes.filter fun h => h.2.reserved == some agent && decide (line < h.1)).foldl (fun s h => s.unreserve agent h.1) s).askHome agent
      line 3
  | _ => s.unreserveAll agent
/-- Would another attempt of a read change anything? -/
def lackMoves {α : Type} (s : State) (agent : Nat) : Except Lack α → Bool
  | .error (.line l) => !s.homeAsked agent (l, false)
  | .error .frozen => false
  | _ => true

/-! ## Units of a job -/

/-- Unit number of a phase, a graph, a node (R329). -/
def Job.phaseUnit (_ : Job) (p : Nat) : Nat := 1 + p
def Job.graphUnit (j : Job) (g : Nat) : Nat := 1 + j.phases.length + g
def Job.nodeUnit (j : Job) (n : Nat) : Nat := 1 + j.phases.length + j.graphs.length + n
/-- The phase of a graph: graphs are numbered phase by phase (R329). -/
def phaseOf : List Nat → Nat → Nat
  | [], _ => 0
  | n :: r, g => if g < n then 0 else phaseOf r (g - n) + 1
/-- The first graph of a phase. -/
def firstGraph (l : List Nat) (p : Nat) : Nat := (l.take p).foldl (· + ·) 0
/-- Numbers of the nodes of a graph. -/
def Job.nodesOf (j : Job) (g : Nat) : List Nat := (List.range (j.graphs.getD g 0)).map (· + firstGraph j.graphs g)
/-- A unit's counter, or one that is waiting. -/
def Job.unit (j : Job) (u : Nat) : JUnit := j.units.getD u { done := 0, total := 0, state := .waiting, fcode := 0 }
/-- STATE of R329. -/
def UState.code : UState → Nat
  | .waiting => 0 | .running => 1 | .complete => 2 | .failed => 3 | .cancelled => 4
/-- A final STATE (R329). -/
def UState.final : UState → Bool
  | .complete | .failed | .cancelled => true
  | _ => false

/-- Write a part of a unit's counter, through the page that the Resident has mapped for it (R329). -/
def State.counterWrite (s : State) (jb : Job) (va : Nat) (bs : List Byte) : State :=
  match s.pa? jb.space va with
  | some pa => s.residentWrite pa bs
  | none => s

/-- Write a unit's counter: DONE, TOTAL and FCODE before STATE; a final STATE is reported with COMPLETE (R329). -/
def State.setUnit (s : State) (j u : Nat) (f : JUnit → JUnit) : State :=
  match s.job? j with
  | none => s
  | some jb =>
    let old := jb.unit u
    let x := f old
    let a := jb.ctrbase + 16 * u
    let s := s.updJob j fun jb => { jb with units := setAt jb.units u x }
    let s := if x.done = old.done ∧ x.total = old.total then s else s.counterWrite jb a (leBytes 4 x.done ++ leBytes 4 x.total)
    let s := if x.fcode ≠ old.fcode then s.counterWrite jb (a + 12) (leBytes 4 x.fcode) else s
    let s := if x.state ≠ old.state then s.counterWrite jb (a + 8) (leBytes 4 x.state.code) else s
    if x.state.final && !old.state.final then s.hubTell opCOMPLETE 0 0 [j, u, x.state.code, x.fcode] else s

/-- A unit starts running, once (R329). -/
def State.startUnit (s : State) (j u : Nat) : State :=
  match s.job? j with
  | some jb => if (jb.unit u).state == .waiting then s.setUnit j u fun x => { x with state := .running } else s
  | none => s

/-- A node becomes ready (R325, R326): a launch waits for placement, a copy or a collective runs from now, a service is
reported. Its attempt keeps the RETRY, and the node the undo log size, of this moment (R323). A collective is never staged (R360). -/
def State.nodeReady (s : State) (j n : Nat) : State :=
  match s.job? j, s.node? j n with
  | some jb, some x =>
    let sp := s.space jb.space
    let s := s.updNode j n fun x => { x with
      ready := true, attempts := x.attempts + 1, retry := sp.retry, undoLog := if x.attempts = 0 then sp.undoLog else x.undoLog }
    match x.kind with
    | .launch id => s.updLaunch id fun l => { l with ready := true, dropped := false, e := l.prio, ageFrom := s.cycle }
    | .copy .. => s.startUnit j (jb.nodeUnit n)
    | .coll .. => (s.startUnit j (jb.nodeUnit n)).unstage (nodeKey j n)
    | .service tok => (s.startUnit j (jb.nodeUnit n)).hubTell opSERVICE 0 0 [j, jb.nodeUnit n, tok]
  | _, _ => s

/-- Is a node's STATE final? -/
def Job.nodeDone (j : Job) (n : Nat) : Bool := (j.unit (j.nodeUnit n)).state.final

/-- A graph starts: its nodes without predecessors are ready (R325). -/
def State.startGraph (s : State) (j g : Nat) : State :=
  match s.job? j with
  | none => s
  | some jb =>
    (jb.nodesOf g).foldl (fun s n => match s.node? j n with
      | some x => if x.pred = 0 && !x.ready && !jb.nodeDone n then s.nodeReady j n else s
      | none => s) (s.startUnit j (jb.graphUnit g))

/-- A unit reaches a final STATE and counts in its parent's DONE (R329). -/
def State.finishUnit (s : State) (j u parent : Nat) (st : UState) (code : Nat) : State :=
  match s.job? j with
  | none => s
  | some jb =>
    if (jb.unit u).state.final then s
    else
      let s := s.setUnit j u fun x => { x with state := st, fcode := if x.fcode = 0 then code else x.fcode }
      if parent = u then s else s.setUnit j parent fun x => { x with done := x.done + 1 }

/-- A fault of a node is recorded: it is the first of the node, of its graph, of its phase and of its job where they have had none
(R329, R350). -/
def State.firstFault (s : State) (j n code : Nat) : State :=
  match s.job? j, s.node? j n with
  | some jb, some x =>
    [jb.nodeUnit n, jb.graphUnit x.graph, jb.phaseUnit (phaseOf jb.phases x.graph), 0].foldl (fun (s : State) u =>
      if (jb.unit u).state.final || (jb.unit u).fcode ≠ 0 then s else s.setUnit j u fun y => { y with fcode := code }) s
  | _, _ => s

/-- How a graph ends when no node of it is ready or running: failed if a node failed, else cancelled if one was, else complete
(R330; log 21). -/
def Job.graphEnd (jb : Job) (g : Nat) : Option (UState × Nat) :=
  let ns := jb.nodesOf g
  if ns.any fun n => (match jb.nodes[n]? with
      | some x => x.ready
      | none => false) && !jb.nodeDone n
  then none
  else
    let us := ns.map fun n => jb.unit (jb.nodeUnit n)
    some (if us.any (fun u => u.state == .failed) then .failed
      else if us.any (fun u => u.state != .complete) then .cancelled else .complete,
      ((us.filter fun u => u.state == .failed).map (·.fcode)).headD 0)

/-- One move of a job that is not over: a phase or a graph starts, or a graph, a phase or the job takes its final STATE (R325, R329,
R330). The first phase, and in it the first graph, that is not complete decides. -/
def State.jobStep (s : State) (j : Nat) : Option State :=
  (s.job? j).bind fun jb =>
    if (jb.unit 0).state.final then none
    else match (List.range jb.phases.length).find? fun p => (jb.unit (jb.phaseUnit p)).state != .complete with
      | none => some (s.finishUnit j 0 0 .complete 0)
      | some p =>
        let pu := jb.unit (jb.phaseUnit p)
        if pu.state.final then some (s.finishUnit j 0 0 pu.state pu.fcode)
        else if pu.state == .waiting then some (s.startUnit j (jb.phaseUnit p))
        else
          let g0 := firstGraph jb.phases p
          match ((List.range (jb.phases.getD p 0)).map (· + g0)).find? fun g => (jb.unit (jb.graphUnit g)).state != .complete with
          | none => some (s.finishUnit j (jb.phaseUnit p) 0 .complete 0)
          | some g =>
            let gu := jb.unit (jb.graphUnit g)
            if gu.state.final then some (s.finishUnit j (jb.phaseUnit p) 0 gu.state gu.fcode)
            else if gu.state == .waiting then some (s.startGraph j g)
            else (jb.graphEnd g).map fun e => s.finishUnit j (jb.graphUnit g) (jb.phaseUnit p) e.1 e.2

/-- Move a job on until nothing changes. -/
def State.jobLoop : Nat → State → Nat → State
  | 0, s, _ => s
  | n + 1, s, j =>
    match s.jobStep j with
    | some s => State.jobLoop n s j
    | none => s
/-- Move a job on: each of its phases and graphs starts once and ends once. -/
def State.jobRun (s : State) (j : Nat) : State :=
  match s.job? j with
  | some jb => State.jobLoop (2 * (jb.phases.length + jb.graphs.length) + 2) s j
  | none => s

/-- Has every launch of an object's kernels ended (R305)? A launch of a job that is over runs no more. -/
def State.objectIdle (s : State) (object : Nat) : Bool :=
  s.res.launches.all fun l =>
    (match s.kernel? l.2.kernel with
     | some k => k.object != object
     | none => true)
    || (match s.job? l.2.job with
        | some jb => jb.nodeDone l.2.node || (jb.unit 0).state.final
        | none => true)
/-- Unloads that have waited for launches are done: the kernel goes and the RESP is sent (R305, R321). -/
def State.unloadSettle (s : State) : State :=
  let ready := s.res.opens.filter fun o => o.kind == 0 && (match s.kernel? o.arg with
    | some k => s.objectIdle k.object
    | none => true)
  ready.foldl (fun (s : State) o =>
    (s.updRes fun r => { r with opens := r.opens.filter (· ≠ o), kernels := SMap.del r.kernels o.arg }).tell opRESP o.seq 0 []) s

/-- End a launch's hold on the pages of its ranges: LEASE is cleared on a page without a holder (R343). The Resident holds its own. -/
def State.endHolder (s : State) (space launch : Nat) : State :=
  let mine := s.res.holders.filter fun h => h.1 == space && h.2.2 == launch
  let rest := s.res.holders.filter fun h => !(h.1 == space && h.2.2 == launch)
  let s := s.updRes fun r => { r with holders := rest }
  mine.foldl (fun s h =>
    if implBase ≤ h.2.1 * 65536 || rest.any fun x => x.1 == space && x.2.1 == h.2.1 then s
    else match s.pte? space (h.2.1 * 65536) with
      | some (a, e) => if e.testBit 2 then s.pokeRaw a 8 (e - 4) else s
      | none => s) s

/-- A node reaches a final STATE: it commits or keeps its writes, its lease ends, its successors become ready where it is
complete, and its graph may end (R325, R329, R330, R343, R359). -/
def State.nodeFinal (s : State) (j n : Nat) (st : UState) (code : Nat) : State :=
  match s.job? j, s.node? j n with
  | some jb, some x =>
    if (jb.unit (jb.nodeUnit n)).state.final then s
    else
      let s := match x.kind with
        | .launch id => (s.endHolder jb.space id).updLaunch id fun l => { l with dropped := true, ready := false, blocking := false }
        | _ => s.setUnit j (jb.nodeUnit n) fun u => { u with done := 1 }
      let s := s.updNode j n fun x => { x with undo := [], logged := [], staged := false, ending := none }
      let s := { s with writers := s.writers.filter fun w => w.2 ≠ nodeKey j n }
      let s := s.finishUnit j (jb.nodeUnit n) (jb.graphUnit x.graph) st code
      let s := if st == .complete then
          x.succ.foldl (fun s m =>
            let s := s.updNode j m fun y => { y with pred := y.pred - 1 }
            match s.node? j m with
            | some y => if y.pred = 0 && !y.ready && !jb.nodeDone m then s.nodeReady j m else s
            | none => s) s
        else s
      (s.jobRun j).unloadSettle
  | _, _ => s

/-! ## The end of strands and gangs -/

/-- Does a stop identity name a split of this strand, or this context (R338)? -/
def Thread.stopped (x : Thread) (i : StopId) : Bool :=
  i.launch == x.launch && i.die == x.die && i.cluster == x.cluster
    && (if x.seq then i.slot == 0x80 + x.slot else i.core == x.core && i.slot == 16 * x.quad + x.slot)

/-- Remove a strand or a context from its slot: its monitors, its place in the operand buffer, and the registers with it (R25, R40,
R126, R141). A lease stays until the end of the group (R130). -/
def State.dropThread (s : State) (t : Nat) : State :=
  match s.thread? t with
  | none => s
  | some x =>
    let s := (s.monitors.filter fun m => m.t == t && !m.registered).foldl (fun s m => s.dropHub (monAgent m.id) (lineOf m.pa)) s
    let s := { s with threads := SMap.del s.threads t, monitors := s.monitors.filter fun m => m.t ≠ t }
    let s := if s.res.stops.isEmpty then s else s.updRes fun r => { r with stops := r.stops.filter fun i => !x.stopped i }
    if x.seq then s
    else
      let s := if x.staged then s.setQuad (t / 16) { s.quad (t / 16) with places := (s.quad (t / 16)).places - 1 } else s
      if s.agentWants x.cid then s else s.unreserveAll x.cid

/-- End a lease: data under RET returns, and what waits outside may be served (R130, R132, R140). -/
def State.endLease (s : State) (l : Lease) : State :=
  ({ s with leases := s.leases.filter fun x => x ≠ l }.returnRet l.cid l.line).wakeCore l.cid none
/-- The leases of a group, or with `none` of every group of a gang, end (R130). -/
def State.endLeases (s : State) (gid : Nat) (grp : Option Nat) : State :=
  (s.leases.filter fun l => l.gang == gid && (grp.isNone || grp == some l.group)).foldl (fun s l => s.endLease l) s

/-- A strand or a context of a gang has ended; with the last strand of a group the group ends (R40, R77, R130). -/
def State.endThread (s : State) (t : Nat) : State :=
  match s.thread? t with
  | none => s
  | some x =>
    let s := s.dropThread t
    if x.seq then s.updGang x.gang fun g => { g with ctxEnded := true }
    else
      let s := s.updGang x.gang fun g => { g with groups := updAt g.groups x.group fun p => { p with live := p.live - 1 } }
      let last : Bool := match (s.gang? x.gang).bind fun g => g.groups[x.group]? with
        | some p => p.live == 0
        | none => true
      (if last then s.endLeases x.gang (some x.group) else s).queueSettle x.gang

/-- Free a gang's engines, barriers, scratchpads and queue (R77), and count its end (R329). -/
def State.freeGang (s : State) (gid : Nat) : State :=
  match s.gang? gid with
  | none => s
  | some g =>
    let base := (g.die * 8 + g.cluster) * 8
    let s := { s with gangs := SMap.del s.gangs gid }
    let s := (List.range 8).foldl (fun s c =>
      let e := (s.core (base + c)).engine
      if e.holder = some gid then s.updCore (base + c) fun k => { k with engine := { e with holder := none, release := none } }
      else s) s
    let s := g.groups.foldl (fun s x => s.updCore (base + x.core) fun k => { k with
      bars := k.bars.filter fun b => !(x.bars ≤ b.1 && b.1 < x.bars + g.nbars)
      scratch := k.scratch.filter fun b => !(x.scratch ≤ b.1 && b.1 < x.scratch + g.size)
      scratchPois := k.scratchPois.filter fun w => !(x.scratch ≤ 8 * w && 8 * w < x.scratch + g.size) }) s
    let s := (s.homes.filter fun h => h.2.reserved == some (gangAgent gid)).foldl (fun s h => s.unreserve (gangAgent gid) h.1) s
    s.updLaunch g.launch fun l => { l with live := l.live - 1 }

/-- A gang counts in its node's DONE, once (R329). -/
def State.countGang (s : State) (gid : Nat) : State :=
  match s.gang? gid with
  | none => s
  | some g =>
    let s := s.setGang gid { g with counts := false }
    match s.launch? g.launch, g.counts with
    | some l, true => match s.job? l.job with
      | some jb => s.setUnit l.job (jb.nodeUnit l.node) fun u => { u with done := u.done + 1 }
      | none => s
    | _, _ => s

/-- A gang ends when its strands, its context and its queue have (R77). -/
def State.gangEnd (s : State) (gid : Nat) : State :=
  match s.gang? gid with
  | some g =>
    if g.ctxEnded && g.queue.isEmpty && g.groups.all (fun x => x.live == 0) then (s.countGang gid).freeGang gid else s
  | none => s

/-- End a gang by a fault or a cancel: its strands and its context at their next instruction boundary, and the commands not
started (R44, R90, R331). Started commands complete before its resources are freed and it counts as ended. -/
def State.killGang (s : State) (gid : Nat) : State :=
  let ts := (s.threads.filter fun t => t.2.gang == gid).map (·.1)
  let s := ts.foldl (fun s t => s.dropThread t) (s.dropOps fun m => m.x.gang == gid)
  let s := s.endLeases gid none
  let s := s.updGang gid fun g => { g with
    ctxEnded := true, killed := true, efault := none, failed := none
    groups := g.groups.map fun x => { x with live := 0 }
    queue := g.queue.filter fun c => c.started && (match c.op with
      | .place .. => false
      | _ => true) }
  s.gangEnd gid

/-- The gangs of a launch. -/
def State.gangsOf (s : State) (launch : Nat) : List Nat := (s.gangs.filter fun g => g.2.launch == launch).map (·.1)

/-! ## Fault records (R349) -/

/-! Codes of R351: of the instruction word and its target. -/
def codeILLEGAL : Nat := 0x01
def codeTARGET : Nat := 0x02
def codeREGRANGE : Nat := 0x03
def codeNONUNIFORM : Nat := 0x04
def codeBRXRANGE : Nat := 0x05
def codeSTALLSHORT : Nat := 0x06

/-- A record without placement, as of a copy node, a collective entry or the Resident (R351). -/
def State.blankRec (s : State) (code : Nat) : FaultRec :=
  { code := code, flags := 1, space := 0, launch := 0, die := 0xFF, cluster := 0xFF, core := 0xFF, quad := 0xFF, slot := 0xFF,
    pc := 0, addr := 0, info := 0, aux0 := 0, aux1 := 0, job := 0, node := 0, time := s.cycle }

/-! Codes of what an instruction finds when it executes (R351). -/
def codeSIGNET : Nat := 0x07
def codeJOINDEPTH : Nat := 0x08
def codeSTREAM : Nat := 0x09
def codeALIGN : Nat := 0x0A
def codeSCRATCHRANGE : Nat := 0x0B
def codeTRAPINSN : Nat := 0x0C

/-- A record of a node's work: the space, the launch, the job and the index of the node (R349). -/
def State.nodeRec (s : State) (code job node : Nat) : FaultRec :=
  let r := s.blankRec code
  match s.job? job, s.node? job node with
  | some jb, some x => { r with space := jb.space, job := job, node := x.index, launch := match x.kind with
      | .launch id => id
      | _ => 0 }
  | _, _ => r

/-! Codes of translation and of capabilities (R351). -/
def codeLEASEOUT : Nat := 0x10
def codePERM : Nat := 0x11
def codeCAPGEN : Nat := 0x12
def codeCAPPERM : Nat := 0x13
def codeCAPINVAL : Nat := 0x14

/-- A record of a strand or a context (R349). -/
def State.opRec (s : State) (code : Nat) (x : Thread) (pc : Nat) : FaultRec :=
    let r := match s.launch? x.launch with
      | some l => s.nodeRec code l.job l.node
      | none => s.blankRec code
    { r with space := x.space, launch := x.launch, die := x.die, cluster := x.cluster, core := if x.seq then 0xFF else x.core,
             quad := if x.seq then 0xFF else x.quad, slot := if x.seq then 0x80 + x.slot else 16 * x.quad + x.slot, pc := pc }
/-! Codes of watched loads and scopes, of poison and of the fabric (R351). -/
def codeWATCHUNCHK : Nat := 0x15
def codeSCOPEMIX : Nat := 0x16
def codePOISON : Nat := 0x20
def codeFABRIC : Nat := 0x21

/-- A record of a strand or a context by number. -/
def State.threadRec (s : State) (code t pc : Nat) : FaultRec :=
  match s.thread? t with
  | none => s.blankRec code
  | some x => s.opRec code x pc

/-- The queue of a record: its die's, or the hub's (R349). -/
def FaultRec.queue (r : FaultRec) : Nat := if r.die = 0 ∨ r.die = 1 then r.die else 2

/-- The 64 bytes of a record (R349). -/
def FaultRec.bytes (r : FaultRec) : List Byte :=
  leBytes 1 r.code ++ leBytes 1 r.flags ++ leBytes 2 r.space ++ leBytes 4 r.launch ++ leBytes 1 r.die ++ leBytes 1 r.cluster
    ++ leBytes 1 r.core ++ leBytes 1 r.quad ++ leBytes 1 r.slot ++ leBytes 3 0 ++ leBytes 8 (r.pc % 2 ^ 48) ++ leBytes 8 r.addr
    ++ leBytes 4 r.info ++ leBytes 2 r.aux0 ++ leBytes 2 r.aux1 ++ leBytes 4 r.job ++ leBytes 4 r.node ++ leBytes 8 r.time ++ leBytes 8 0
/-- A record as the FAULT message carries it, byte by byte (R320). -/
def FaultRec.body (r : FaultRec) : List Nat := r.bytes.map (·.toNat)

/-- A record enters its queue and the Resident sends it as a FAULT message, which empties the queue again (log 22); a
report-only record that finds the queue full is dropped, and the next record says so (R349). -/
def State.record (s : State) (r : FaultRec) : State :=
  let q := s.faultqs.getD r.queue { recs := [], lost := false }
  let report := r.flags / 4 % 2 = 1
  if report ∧ q.recs.length ≥ 1024 then { s with faultqs := setAt s.faultqs r.queue { q with lost := true } }
  else
    let r := if q.lost then { r with flags := r.flags + 8 } else r
    let all := q.recs ++ [r]
    all.foldl (fun s x => s.tell opFAULT 0 0 x.body) { s with faultqs := setAt s.faultqs r.queue { recs := [], lost := false } }

/-! ## Write-back at kernel boundaries (R113) -/

/-- What a write-back of cores' L1s waits for: as a release does, and with `drop`, which gives up every SW line, dirty owned lines
whose home takes no bytes in this cycle (R106, R113). -/
def State.flushBlocked (s : State) (cids : List Nat) : List (Nat × Nat × Bool) :=
  cids.flatMap fun cid => (s.releaseBlocked cid).map fun l => (cid, l.1, l.2)

/-- Ask for the lines that a write-back waits for. -/
def State.flushAsk (s : State) (cids : List Nat) : State :=
  (s.flushBlocked cids).foldl (fun s l => if l.2.2 then s.askHome l.1 l.2.1 4 else s) s

/-- Does a blocked line still have to be asked for? -/
def State.flushUnasked (s : State) (cids : List Nat) : Bool :=
  (s.flushBlocked cids).any fun l => l.2.2 && !s.homeAskedFor l.1 l.2.1 4

/-- A SW line of an L1 is invalidated, its dirty bytes written back first (R113): an owned one is given up, unless it is leased; one on
its way serves only the access that asked for it. -/
def State.invalidateSw (s : State) (cid line : Nat) : State :=
  let s := s.writeBackLine cid line
  let l := s.l1 cid line
  if !l.sw then s
  else if l.st == .S then s.setL1 cid line Line.reset
  else if l.st == .IS_D then s.setL1 cid line { l with stale := true, kept := 0 }
  else s

/-- Write back every dirty SW line of the cores' L1s, and invalidate every SW line where `drop` says so (R113). -/
def State.flush (s : State) (cids : List Nat) (drop : Bool) : State :=
  cids.foldl (fun s cid =>
    ((s.core cid).l1.map (·.1)).foldl (fun s line =>
      if drop then s.invalidateSw cid line else s.writeBackLine cid line) s) s

/-! ## Failure and rollback -/

/-- A node as an agent at the homes, whose writes are undone. -/
def undoAgent (j n : Nat) : Nat := 2 ^ 60 + nodeKey j n
/-- An L1's line without the dirty bytes of a node, of which no home has heard (R361). -/
def Line.without (l : Line) (k : Nat) : Line :=
  let mine := (byteIxs l.dirty).filter fun i => l.whoAt i == k
  if mine.isEmpty then l
  else
    let l := { l with dirty := mine.foldl (fun m i => m &&& ~~~(maskFrom i 1)) l.dirty, who := l.who.filter fun w => w.2 ≠ k,
                      filled := false, kept := 0 }
    if l.st == .S && l.dirty == 0 then Line.reset else l
/-- The dirty bytes of a node in lines that no L1 owns are discarded (R361). -/
def State.discardNode (s : State) (k : Nat) : State :=
  s.cores.foldl (fun s (c : Nat × Core) =>
    (c.2.l1.filter fun l => (l.2.untracked || l.2.st == .IS_D || l.2.st == .IM_D) && l.2.who.any fun w => w.2 == k).foldl (fun s l =>
      s.setL1 c.1 l.1 (l.2.without k)) s) s
/-- The lines that a node's undo touches: those of its record, and those in which a cache that owns them holds its bytes. -/
def State.undoLines (s : State) (k : Nat) (x : Node) : List Nat :=
  let mine (l : Nat × Line) : Bool := l.2.who.any fun w => w.2 == k
  sortAsc (x.undo.map (fun u => u.1 / 128) ++ (s.cores.flatMap fun c => (c.2.l1.filter mine).map (·.1)) ++ (s.peers.filter mine).map (·.1))
/-- Undo a node's writes, latest first, where the node wrote the byte last: writes at the homes (R361). -/
def State.undoNode (s : State) (j n : Nat) (x : Node) (lines : List Nat) : State :=
  let k := nodeKey j n
  let s := x.undo.foldl (fun s u =>
    if SMap.find? s.writers u.1 = some k then { s with writers := SMap.del s.writers u.1 }.poke u.1 [u.2] else s) s
  let s := lines.foldl (fun s l => s.wrote l) s
  (s.updNode j n fun x => { x with undo := [], logged := [] }).settle lines

/-- Has a node's running work ended: no gang of its launch, none of its launch's remote accesses unanswered, none of a collective
node's entries in a queue (R113, R331, log 54)? -/
def State.quiet (s : State) (j n : Nat) : Bool :=
  match s.node? j n with
  | none => true
  | some x =>
    let mine (id : Nat) (o : Owner) : Bool := match o with
      | .lanes _ _ _ _ l => l == id
      | _ => false
    match x.kind with
    | .launch id => (s.gangsOf id).isEmpty
        && !(s.fab.src.any fun e => e.retry.any fun r => mine id r.owner)
        && !(s.fab.std.any fun a => mine id a.owner)
        && !(s.ops.any fun m => m.x.launch == id)
    | .coll .. => !(s.fab.qps.any fun q => q.2.queue.any fun e => e.node == nodeKey j n)
    | _ => true

/-- The cores that a node's launch has been placed on. -/
def State.usedBy (s : State) (x : Node) : List Nat :=
  match x.kind with
  | .launch id => ((s.launch? id).map (·.used)).getD []
  | _ => []

/-- The lines that the write-back at a node's end still waits for: none where its writes are undone (log 83). -/
def State.endBlocked (s : State) (x : Node) (e : Ending) : Bool := !e.undo && !(s.flushBlocked (s.usedBy x)).isEmpty

/-- A node's end once its running work has ended and its writes are where they are to be: a final STATE, or ready again (R331, R350,
R361). -/
def State.nodeEnds (s : State) (j n : Nat) (x : Node) (e : Ending) : State :=
  match e.st with
  | some st => s.nodeFinal j n st e.code
  | none =>
    let s := s.updNode j n fun x => { x with ending := none }
    (match x.kind with
     | .launch id => s.updLaunch id fun l => { l with next := 0 }
     | _ => s).nodeReady j n
/-- A node that is to end does so when its running work has: its writes are undone at their homes where they are to be, or else its cores
are written back (log 83), and it takes its final STATE or is ready again (R331, R350, R361). -/
def State.settleEnd (s : State) (j n : Nat) : State :=
  match s.job? j, s.node? j n with
  | some jb, some x =>
    match x.ending with
    | none => s
    | some e =>
      if !s.quiet j n || s.endBlocked x e then s
      else if !e.undo then (s.flush (s.usedBy x) false).nodeEnds j n x e
      else
        let s := s.discardNode (nodeKey j n)
        let lines := s.undoLines (nodeKey j n) x
        match s.homeAccess (undoAgent j n) (lines.map fun l => (l, true)) with
        | (s, false) => s
        | (s, true) =>
          let x := (s.node? j n).getD x
          let s := (s.undoNode j n x lines).homeDone (undoAgent j n) (lines.map fun l => (l, true))
          ((s.setUnit j (jb.nodeUnit n) fun u => { u with done := 0 }).updNode j n fun x => { x with progress := 0, posted := 0 }).nodeEnds j n x e
  | _, _ => s

/-- A node is to end: what it has not placed is dropped, and its gangs end; a STATE that was chosen before stays (R329, R331). -/
def State.endNode (s : State) (j n : Nat) (undo : Bool) (st : Option UState) (code : Nat) : State :=
  match s.job? j, s.node? j n with
  | some jb, some x =>
    if jb.nodeDone n then s
    else
      let e : Ending := match x.ending with
        | some e => if e.st.isNone then { e with st := st, code := code } else e
        | none => { undo := undo, st := st, code := code }
      let s := if st == some .failed && (x.ending.bind (·.st)).isNone then s.firstFault j n code else s
      let s := (s.dropAgent (nodeAgent j n)).updNode j n fun x => { x with ending := some e }
      let s := match x.kind with
        | .launch id =>
          (s.gangsOf id).foldl (fun (s : State) g => (if undo then s.updGang g fun y => { y with counts := false } else s).killGang g)
            (s.updLaunch id fun l => { l with dropped := true })
        | _ => s
      s.settleEnd j n
  | _, _ => s

/-- The node of a launch ends with a STATE (R331, R350). -/
def State.endLaunch (s : State) (launch : Nat) (st : UState) (code : Nat) : State :=
  match s.launch? launch with
  | none => s
  | some l => s.endNode l.job l.node false (some st) code

/-- A node's work ends because poison was consumed: a staged node is undone and ready again while attempts remain, else it fails
(R361). The record says whether it is re-queued. -/
def State.rollback (s : State) (j n : Nat) (r : FaultRec) : State :=
  match s.node? j n with
  | none => s.record r
  | some x =>
    if !x.staged then (s.record r).endNode j n false (some .failed) r.code
    else if x.attempts < x.retry + 1 then
      ((s.count 2 rollbackIx 1).record { r with flags := r.flags + 4 }).endNode j n true none 0
    else ((s.count 2 rollbackIx 1).record r).endNode j n true (some .failed) r.code

/-- Is the context stopped by a fault of its gang (R90)? -/
def Gang.stopped (g : Gang) : Bool := g.efault.isSome || g.failed.isSome

/-- The record of an engine fault, or of a precise fault of the context (R90, R349). -/
def State.engineRec (s : State) (g : Gang) (e : EFault) : FaultRec :=
  let r := match s.launch? g.launch with
    | some l => s.nodeRec e.code l.job l.node
    | none => s.blankRec e.code
  { r with flags := if e.precise then 1 else 2, die := g.die, cluster := g.cluster, slot := 0x80 + g.ctx, pc := e.pc, addr := e.addr,
           info := e.info, aux0 := e.aux0, aux1 := e.aux1, time := e.at' }

/-- A gang with a fault fails its node once the rest of its queue has completed (R90, R350). -/
def State.engineFaultEnd (s : State) (gid : Nat) : State :=
  match s.gang? gid with
  | none => s
  | some g =>
    if !g.stopped || !g.queue.isEmpty then s
    else match s.launch? g.launch, g.failed, g.efault with
      | none, _, some e => (s.record (s.engineRec g e)).killGang gid
      | none, _, none => s.killGang gid
      | some l, none, some e =>
        if e.code = codePOISON then s.rollback l.job l.node (s.engineRec g e)
        else (s.record (s.engineRec g e)).endLaunch g.launch .failed e.code
      | some _, f, some e => (s.record (s.engineRec g e)).endLaunch g.launch .failed (f.getD 0)
      | some _, f, none => s.endLaunch g.launch .failed (f.getD 0)

/-- What follows a step that may have ended a gang's work: a pending engine fault, then the gang's end (R77, R90). -/
def State.gangCheck (s : State) (gid : Nat) : State := (s.engineFaultEnd gid).gangEnd gid

/-- A fault of a strand ends its group: the placeholders that name it and the commands that depend on them are cancelled, the
context stops, and the rest of the queue runs on; the node's unplaced gangs are dropped and its other gangs end (R90, R350). -/
def State.groupFault (s : State) (gid grp code : Nat) : State :=
  match s.gang? gid with
  | none => s
  | some g =>
    let names (c : Cmd) : Bool := match c.op with
      | .place _ _ group _ => group.toNat == grp
      | _ => false
    let s := s.dropOps fun m => !m.x.seq && m.x.gang == gid && m.x.group == grp
    let s := ((s.threads.filter fun t => !t.2.seq && t.2.gang == gid && t.2.group == grp).map (·.1)).foldl (fun s t => s.dropThread t) s
    let s := s.endLeases gid (some grp)
    let s := s.setGang gid { g.cancel names with
      groups := updAt g.groups grp fun p => { p with live := 0 }
      failed := if g.failed.isSome then g.failed else some code }
    let s := match s.launch? g.launch with
      | some l => s.firstFault l.job l.node code
      | none => s
    let s := s.updLaunch g.launch fun l => { l with dropped := true }
    (((s.gangsOf g.launch).filter (· ≠ gid)).foldl (fun s x => s.killGang x) s).queueSettle gid |>.gangCheck gid

/-- A fault of a strand that ends its work: the record, then the group's end; POISON rolls back (R350, R351, R361). -/
def State.failThread (s : State) (t : Nat) (r : FaultRec) : State :=
  match s.thread? t with
  | none => s.record r
  | some x =>
    match s.launch? x.launch with
    | none => (s.record r).killGang x.gang
    | some l => if r.code = codePOISON then s.rollback l.job l.node r else (s.record r).groupFault x.gang x.group r.code

/-- A precise fault of a context stops it, and ends its gang when the queue has completed; a command posted earlier that has
faulted is the one reported (R90, R278). -/
def State.contextFault (s : State) (gid pc code addr info aux0 aux1 : Nat) : State :=
  (s.updGang gid fun g => { g with
    efault := if g.efault.isSome then g.efault else
      some { code := code, cmd := g.nextCmd, pc := pc, addr := addr, info := info, aux0 := aux0, aux1 := aux1, precise := true,
             at' := s.cycle } }).gangCheck gid

/-- Is the node of a launch still to take its final STATE? -/
def State.launchLive (s : State) (launch : Nat) : Bool :=
  match s.launch? launch with
  | some l => match s.job? l.job with
    | some j => !(j.unit (j.nodeUnit l.node)).state.final
    | none => false
  | none => false
/-- Is no end of a launch's node under way? -/
def State.launchOpen (s : State) (launch : Nat) : Bool :=
  s.launchLive launch && !(match s.launch? launch with
    | some l => match s.node? l.job l.node with
      | some x => x.ending.isSome
      | none => false
    | none => false)
/-- A fault of an access whose strand has ended fails its node (R155, R164), with the disposition of its code (R351, R361; log 54); what its
group has not performed ends with it. -/
def State.failDead (s : State) (uid launch : Nat) (r : FaultRec) : State :=
  let s := s.dropOps fun m => !m.x.seq && s.ops.any fun o => o.x.uid == uid && o.x.gang == m.x.gang && o.x.group == m.x.group
  match s.launch? launch with
  | some l => if r.code = codePOISON then s.rollback l.job l.node r else (s.record r).endLaunch launch .failed r.code
  | none => s

end Sys2Proof.Machine
end

