-- ==== Sys2Proof/Machine/Operands.lean ====
section
/-!
DEFINITION. The operand forms: which registers an instruction names in each of its fields and whether it reads or writes them
(R16, R18, R22 to R24, R198, R199), where it may be issued (R203, R213), and how a thread's registers are read and written,
with the pending results of latency classes A, B and C (R201, R202).
-/
namespace Sys2Proof.Machine

/-! ## Registers by their place -/

/-- A register or predicate by its place: a v register by its absolute main-file index (R16). -/
inductive Loc where
  | v (abs : Nat)
  | k (n : Nat)
  | p (n : Nat)
  | g (n : Nat)
  deriving DecidableEq, Repr

/-- One operand: its registers, and whether the instruction reads and writes it. -/
structure Opnd where
  locs : List Loc
  rd : Bool
  wr : Bool
  deriving DecidableEq, Repr

end Sys2Proof.Machine

namespace Sys2Proof
open Sys2Proof.Machine

/-- The n consecutive registers that a field names, at a window base (R16, R18, R261). -/
def Reg.locs (wb n : Nat) : Reg → List Loc
  | .v x => (List.range n).map fun i => .v (wb + x.val + i)
  | .k x => (List.range n).map fun i => .k (x.val + i)
  | .g x => [.g x.val]

/-- The pair of a 6-bit pair field (R199). -/
def OPair.locs (wb : Nat) : OPair → List Loc
  | .v q => [.v (wb + 2 * q.val), .v (wb + 2 * q.val + 1)]
  | .k q => [.k (2 * q.val), .k (2 * q.val + 1)]

/-- Registers of a value of a width: one, a pair for .b64, a quad for .b128 (R261). -/
def Width.regs : Width → Nat
  | .b64 => 2
  | .b128 => 4
  | _ => 1

/-- Bytes of an access of a width (R259). -/
def Width.bytes : Width → Nat
  | .b8 | .s8 => 1
  | .b16 | .s16 => 2
  | .b32 => 4
  | .b64 => 8
  | .b128 => 16

/-- Registers of an address field: a pair, or a stream (R259). -/
def Reg.addrLocs (wb : Nat) (a : Reg) : List Loc := a.locs wb 2

/-- The guard as an operand; p0 is never pending. -/
def gd (pg : Guard) : List Opnd := if pg.p.val = 0 then [] else [{ locs := [.p pg.p.val], rd := true, wr := false }]
/-- A field read. -/
def rdO (l : List Loc) : List Opnd := [{ locs := l, rd := true, wr := false }]
/-- A field written. -/
def wrO (l : List Loc) : List Opnd := [{ locs := l, rd := false, wr := true }]
/-- A field read and written. -/
def rwO (l : List Loc) : List Opnd := [{ locs := l, rd := true, wr := true }]
/-- A predicate field written; a write to p0 is discarded (R19). -/
def pdO (p : Nat) : List Opnd := if p = 0 then [] else wrO [.p p]
/-- A predicate field read. -/
def psO (p : Nat) : List Opnd := if p = 0 then [] else rdO [.p p]

/-- The link pair (R227). -/
def linkLocs (wb : Nat) (seq : Bool) : List Loc := if seq then [.k 20, .k 21] else [.v (wb + 30), .v (wb + 31)]

/-- The operands of an instruction in field order: guard, d, a, b, then the extension words (R351, STALLSHORT). -/
def Instr.opnds (wb : Nat) (seq : Bool) : Instr → List Opnd
  | .iadd pg d a b | .isub pg d a b | .imul pg d a b | .imulhi _ pg d a b | .iaddSat _ pg d a b | .isubSat _ pg d a b
  | .idiv _ pg d a b | .irem _ pg d a b | .imin _ pg d a b | .imax _ pg d a b | .and pg d a b | .or pg d a b | .xor pg d a b
  | .andn pg d a b | .shl pg d a b | .shr pg d a b | .sar pg d a b | .bfx _ pg d a b | .sel pg d a b | .fadd pg d a b
  | .fsub pg d a b | .fmul pg d a b | .fdiv pg d a b | .fscale pg d a b | .fmin pg d a b | .fmax pg d a b | .hadd2 _ pg d a b
  | .hmul2 _ pg d a b | .hmin2 _ pg d a b | .hmax2 _ pg d a b | .xlaneG pg d a b | .xlaneRot pg d a b | .xlaneX pg d a b =>
    gd pg ++ wrO (d.locs wb 1) ++ rdO (a.locs wb 1) ++ rdO (b.locs wb 1)
  | .imad pg d a b | .bfi pg d a b | .bmix pg d a b | .ffma pg d a b | .hfma2 _ pg d a b =>
    gd pg ++ rwO (d.locs wb 1) ++ rdO (a.locs wb 1) ++ rdO (b.locs wb 1)
  | .iaddi pg d a _ | .iabs pg d a | .ineg pg d a | .not pg d a | .shli pg d a _ | .shri pg d a _ | .sari pg d a _ | .popc pg d a
  | .clz pg d a | .ctz pg d a | .brev pg d a | .mov pg d a | .sqrt pg d a | .fabs pg d a | .fneg pg d a | .frint _ pg d a
  | .fclass pg d a | .rcp pg d a | .rsq pg d a | .exp2 pg d a | .log2 pg d a | .sinpi pg d a | .cospi pg d a | .tanh pg d a
  | .dqmx pg d a | .dqdx pg d a | .plane pg d a _ | .lfold _ pg d a | .lkey pg d a =>
    gd pg ++ wrO (d.locs wb 1) ++ rdO (a.locs wb 1)
  | .imulw _ pg d a b => gd pg ++ wrO (d.locs wb 2) ++ rdO (a.locs wb 1) ++ rdO (b.locs wb 1)
  | .movi pg d _ | .movs pg d _ => gd pg ++ wrO (d.locs wb 1)
  | .movh d _ => rwO (d.locs wb 1)
  | .icmp _ _ pg pd a b | .fcmp _ pg pd a b => gd pg ++ pdO pd.val ++ rdO (a.locs wb 1) ++ rdO (b.locs wb 1)
  | .icmpi _ _ pg pd a _ => gd pg ++ pdO pd.val ++ rdO (a.locs wb 1)
  | .add64 pg d a b | .sub64 pg d a b => gd pg ++ wrO (d.locs wb 2) ++ rdO (a.locs wb 2) ++ rdO (b.locs wb 2)
  | .lea pg d a _ => gd pg ++ rwO (d.locs wb 2) ++ rdO (a.locs wb 1)
  | .shl64 pg d a b | .shr64 pg d a b => gd pg ++ wrO (d.locs wb 2) ++ rdO (a.locs wb 2) ++ rdO (b.locs wb 1)
  | .bra pg _ | .exit pg | .trap pg _ | .eret pg | .yield pg | .nop pg | .winb pg _ | .setfpc _ _ pg | .unlease pg
  | .fence _ _ pg | .brk pg => gd pg
  | .brx pg a _ _ => gd pg ++ rdO (a.locs wb 1)
  | .call pg _ => gd pg ++ wrO (linkLocs wb seq)
  | .ret pg => gd pg ++ rdO (linkLocs wb seq)
  | .joinat _ | .sigchk _ | .rgn _ _ _ _ => []
  | .barArv pg a b | .barSync pg a b => gd pg ++ rdO (a.locs wb 1) ++ rdO (b.locs wb 1)
  | .barWait pg a => gd pg ++ rdO (a.locs wb 1)
  | .gbind pg _ a | .rgwait pg a _ | .rgdone pg a => gd pg ++ rdO (a.locs wb 2)
  | .gstat pg pd _ => gd pg ++ (List.range 4).flatMap fun j => pdO (pd.val + j)
  | .gloop pg _ _ _ => gd pg
  | .cpyY pg d a b _ => gd pg ++ rdO (d.locs wb 1) ++ rdO (a.locs wb 2) ++ rdO (b.locs wb 1)
  | .cvt toF32 ty _ pg d a =>
    gd pg ++ (if !toF32 && (ty == .f16 || ty == .bf16 || ty == .e4m3 || ty == .e5m2) then rwO (d.locs wb 1)
      else wrO (d.locs wb 1)) ++ rdO (a.locs wb 1)
  | .cvtSat ty _ pg d a =>
    gd pg ++ (if ty == .f16 || ty == .bf16 || ty == .e4m3 || ty == .e5m2 then rwO (d.locs wb 1) else wrO (d.locs wb 1))
      ++ rdO (a.locs wb 1)
  | .qmx pg d a sp | .qdx pg d a sp _ => gd pg ++ wrO (d.locs wb 1) ++ rdO (a.locs wb 1) ++ pdO sp.val
  | .ptest _ pg pd ps => gd pg ++ pdO pd.val ++ psO ps.val
  | .pmask pg d ps => gd pg ++ wrO (d.locs wb 1) ++ psO ps.val
  | .ld w pg d a _ _ | .ldB128Signed w pg d a _ | .ldAcq w _ pg d a _ | .ldw w pg d a _ | .ldk w pg d a _ =>
    gd pg ++ wrO (d.locs wb w.regs) ++ rdO (a.addrLocs wb)
  | .st w pg d a _ _ | .stRel w _ pg d a _ => gd pg ++ rdO (d.locs wb w.regs) ++ rdO (a.addrLocs wb)
  | .stB128 pg d a _ => gd pg ++ rdO (d.locs wb 4) ++ rdO (a.addrLocs wb)
  | .lds w pg d a => gd pg ++ wrO (d.locs wb w.regs) ++ rdO (a.locs wb 1)
  | .sts w pg d a => gd pg ++ rdO (d.locs wb w.regs) ++ rdO (a.locs wb 1)
  | .atomAddS32 pg d a b => gd pg ++ wrO (d.locs wb 1) ++ rdO (a.locs wb 2) ++ rdO (b.locs wb 1)
  | .atom op _ pg d a v =>
    gd pg ++ (if op == .cas then rwO (d.locs wb 1) else wrO (d.locs wb 1)) ++ rdO (a.locs wb 2) ++ rdO (v.locs wb 1)
  | .atoms op pg d a v =>
    gd pg ++ (if op == .cas then rwO (d.locs wb 1) else wrO (d.locs wb 1)) ++ rdO (a.locs wb 1) ++ rdO (v.locs wb 1)
  | .atomsBcast _ _ pg d a v => gd pg ++ wrO (d.locs wb 1) ++ rdO (a.locs wb 1) ++ rdO (v.locs wb 1)
  | .pf pg a _ => gd pg ++ rdO (a.locs wb 2)
  | .lease pg d a | .waitc _ _ pg d a | .colpost pg d a => gd pg ++ rdO (d.locs wb 1) ++ rdO (a.locs wb 2)
  | .wchk pg pd => gd pg ++ pdO pd.val
  | .dqpush pg pd d a => gd pg ++ rdO (d.locs wb 2) ++ rdO (a.locs wb 1) ++ pdO pd.val
  | .dqpop pg pd d a | .dqsteal pg pd d a => gd pg ++ wrO (d.locs wb 2) ++ rdO (a.locs wb 1) ++ pdO pd.val
  | .ctradd pg d a b | .ctrwait pg d a b => gd pg ++ rdO (d.locs wb 1) ++ rdO (a.locs wb 1) ++ rdO (b.locs wb 1)
  | .ldf w pg d o h => gd pg ++ wrO (d.locs wb w.regs) ++ rdO (o.locs wb) ++ rdO [.k h.val]
  | .stf w pg d o h | .stfUrg w pg d o h => gd pg ++ rdO (d.locs wb w.regs) ++ rdO (o.locs wb) ++ rdO [.k h.val]
  | .fencef pg d o h => gd pg ++ rdO (d.locs wb 1) ++ rdO (o.locs wb) ++ rdO [.k h.val]
  | .atomf op _ pg d o h a =>
    gd pg ++ (if op == .cas then rwO (d.locs wb 1) else wrO (d.locs wb 1)) ++ rdO (o.locs wb) ++ rdO [.k h.val]
      ++ rdO (a.locs wb 1)
  | .mxacq pg pd a => gd pg ++ pdO pd.val ++ rdO (a.locs wb 1)
  | .mxrel pg a | .sqwait pg a => gd pg ++ rdO (a.locs wb 1)
  | .mxld pg d a | .mxst _ pg d a => gd pg ++ rdO (d.locs wb 2) ++ rdO (a.locs wb 2)
  | .mxclr pg d a => gd pg ++ rdO (d.locs wb 2) ++ rdO (a.locs wb 1)
  | .gath pg d a x | .cpy _ _ pg d a x => gd pg ++ rdO (d.locs wb 2) ++ rdO (a.locs wb 2) ++ rdO (x.locs wb 2)
  | .mxmon pg d _ => gd pg ++ wrO (d.locs wb 8)
  | .vwr pg d a n | .vrd pg d a n => gd pg ++ rdO (d.locs wb 2) ++ rdO (a.locs wb 1) ++ rdO [.k n.val]
  | .mma pg d a b _ | .mmaSp pg d a b _ =>
    gd pg ++ rdO (d.locs wb 2) ++ rdO (a.locs wb 2) ++ rdO [.k (2 * b.val), .k (2 * b.val + 1)]
  | .mmaOl pg d a b _ x | .mmaSpOl pg d a b _ x =>
    gd pg ++ rdO (d.locs wb 2) ++ rdO (a.locs wb 2) ++ rdO [.k (2 * b.val), .k (2 * b.val + 1)] ++ rdO (x.locs wb 3)
  | .tick pg d => gd pg ++ wrO (d.locs wb 2)
  | _ => []

/-- The guard that selects the participating lanes: `sel`, `movh`, `joinat`, `sigchk` and `rgn` have none (R19, R200, R222). -/
def Instr.guard? : Instr → Option Guard
  | .iadd pg _ _ _ | .isub pg _ _ _ | .imul pg _ _ _ | .imad pg _ _ _ | .imulhi _ pg _ _ _ | .imulw _ pg _ _ _ => some pg
  | .iaddSat _ pg _ _ _ | .isubSat _ pg _ _ _ | .idiv _ pg _ _ _ | .irem _ pg _ _ _ | .imin _ pg _ _ _ | .imax _ pg _ _ _ => some pg
  | .and pg _ _ _ | .or pg _ _ _ | .xor pg _ _ _ | .andn pg _ _ _ | .shl pg _ _ _ | .shr pg _ _ _ | .sar pg _ _ _ => some pg
  | .bfx _ pg _ _ _ | .bfi pg _ _ _ | .bmix pg _ _ _ | .add64 pg _ _ _ | .sub64 pg _ _ _ | .shl64 pg _ _ _ | .shr64 pg _ _ _ => some pg
  | .fadd pg _ _ _ | .fsub pg _ _ _ | .fmul pg _ _ _ | .ffma pg _ _ _ | .fdiv pg _ _ _ | .fscale pg _ _ _ | .fmin pg _ _ _ => some pg
  | .fmax pg _ _ _ | .hadd2 _ pg _ _ _ | .hmul2 _ pg _ _ _ | .hfma2 _ pg _ _ _ | .hmin2 _ pg _ _ _ | .hmax2 _ pg _ _ _ => some pg
  | .xlaneG pg _ _ _ | .xlaneRot pg _ _ _ | .xlaneX pg _ _ _ => some pg
  | .iaddi pg _ _ _ | .iabs pg _ _ | .ineg pg _ _ | .not pg _ _ | .shli pg _ _ _ | .shri pg _ _ _ | .sari pg _ _ _ => some pg
  | .popc pg _ _ | .clz pg _ _ | .ctz pg _ _ | .brev pg _ _ | .mov pg _ _ | .movi pg _ _ | .movs pg _ _ | .lea pg _ _ _ => some pg
  | .icmp _ _ pg _ _ _ | .icmpi _ _ pg _ _ _ | .fcmp _ pg _ _ _ | .bra pg _ | .brx pg _ _ _ | .call pg _ | .ret pg | .exit pg => some pg
  | .trap pg _ | .eret pg | .yield pg | .nop pg | .winb pg _ | .barArv pg _ _ | .barWait pg _ | .barSync pg _ _ | .gbind pg _ _ => some pg
  | .gstat pg _ _ | .gloop pg _ _ _ | .rgwait pg _ _ | .rgdone pg _ | .cpyY pg _ _ _ _ => some pg
  | .sqrt pg _ _ | .fabs pg _ _ | .fneg pg _ _ | .frint _ pg _ _ | .fclass pg _ _ | .rcp pg _ _ | .rsq pg _ _ | .exp2 pg _ _ => some pg
  | .log2 pg _ _ | .sinpi pg _ _ | .cospi pg _ _ | .tanh pg _ _ | .setfpc _ _ pg | .cvt _ _ _ pg _ _ | .cvtSat _ _ pg _ _ => some pg
  | .qmx pg _ _ _ | .qdx pg _ _ _ _ | .dqmx pg _ _ | .dqdx pg _ _ | .plane pg _ _ _ | .ptest _ pg _ _ | .pmask pg _ _ => some pg
  | .lfold _ pg _ _ | .lkey pg _ _ => some pg
  | .ld _ pg _ _ _ _ | .st _ pg _ _ _ _ | .ldB128Signed _ pg _ _ _ | .stB128 pg _ _ _ | .ldAcq _ _ pg _ _ _ => some pg
  | .stRel _ _ pg _ _ _ | .ldw _ pg _ _ _ | .lds _ pg _ _ | .sts _ pg _ _ | .ldk _ pg _ _ _ | .atomAddS32 pg _ _ _ => some pg
  | .atom _ _ pg _ _ _ | .atoms _ pg _ _ _ | .atomsBcast _ _ pg _ _ _ | .pf pg _ _ | .lease pg _ _ | .unlease pg | .wchk pg _ => some pg
  | .waitc _ _ pg _ _ | .fence _ _ pg | .dqpush pg _ _ _ | .dqpop pg _ _ _ | .dqsteal pg _ _ _ | .ctradd pg _ _ _ => some pg
  | .ctrwait pg _ _ _ | .ldf _ pg _ _ _ | .stf _ pg _ _ _ | .stfUrg _ pg _ _ _ | .fencef pg _ _ _ | .atomf _ _ pg _ _ _ _ => some pg
  | .colpost pg _ _ => some pg
  | .mxacq pg _ _ | .mxrel pg _ | .mxld pg _ _ | .mxst _ pg _ _ | .mxclr pg _ _ | .sqwait pg _ | .gath pg _ _ _ => some pg
  | .cpy _ _ pg _ _ _ | .mxmon pg _ _ | .vwr pg _ _ _ | .vrd pg _ _ _ | .mma pg _ _ _ _ | .mmaSp pg _ _ _ _ => some pg
  | .mmaOl pg _ _ _ _ _ | .mmaSpOl pg _ _ _ _ _ | .brk pg | .tick pg _ => some pg
  | _ => none

/-- Where an instruction may be issued (R203, R213). -/
inductive Place where
  | s | q | sq
  deriving DecidableEq, Repr

/-- The "Where" column of R203, R210 to R212. -/
def Instr.place (i : Instr) : Place :=
  match i with
  | .iadd .. | .isub .. | .iaddi .. | .imul .. | .imad .. | .imulhi .. | .imulw .. => .sq
  | .iaddSat .. | .isubSat .. | .idiv .. | .irem .. | .imin .. | .imax .. | .iabs .. | .ineg .. => .sq
  | .not .. | .and .. | .or .. | .xor .. | .andn .. | .popc .. | .clz .. | .ctz .. | .brev .. => .sq
  | .shl .. | .shr .. | .sar .. | .shli .. | .shri .. | .sari .. | .bfx .. | .bfi .. | .bmix .. => .sq
  | .sel .. | .mov .. | .movi .. | .movh .. | .movs .. | .icmp .. | .icmpi .. => .sq
  | .add64 .. | .sub64 .. | .lea .. | .shl64 .. | .shr64 .. => .sq
  | .bra .. | .brx .. | .call .. | .ret .. | .exit .. | .yield .. | .nop .. => .sq
  | .ldk .. | .ctradd .. | .colpost .. | .brk .. | .tick .. => .sq
  | .mxacq .. | .mxrel .. | .mxld .. | .mxst .. | .mxclr .. | .mxmon .. => .q
  | .sqwait .. | .gath .. | .cpy .. | .vwr .. | .vrd .. => .q
  | .mma .. | .mmaSp .. | .mmaOl .. | .mmaSpOl .. => .q
  | _ => .s

/-- Does the instruction execute uniformly, its destination being a k register (R21)? `lfold` is exempt (R256). -/
def Instr.uniformDst (wb : Nat) (seq : Bool) (i : Instr) : Bool :=
  match i with
  | .lfold .. => false
  | _ => (i.opnds wb seq).any fun o => o.wr && o.locs.any fun l => match l with
    | .k _ => true
    | _ => false

/-- Operands that must be uniform wherever they are read (R22, R54, R55, R234, R238, R272, R273, R275, R277). -/
def Instr.uniformOpnds (wb : Nat) : Instr → List (List Loc)
  | .barArv _ a b | .barSync _ a b => [a.locs wb 1, b.locs wb 1]
  | .barWait _ a => [a.locs wb 1]
  | .cpyY _ d a b _ => [d.locs wb 1, a.locs wb 2, b.locs wb 1]
  | .atomsBcast _ _ _ _ a _ => [a.locs wb 1]
  | .dqpush _ _ _ a | .dqpop _ _ _ a | .dqsteal _ _ _ a => [a.locs wb 1]
  | .lease _ d a | .waitc _ _ _ d a | .colpost _ d a => [d.locs wb 1, a.locs wb 2]
  | .ctradd _ d a b | .ctrwait _ d a b => [d.locs wb 1, a.locs wb 1, b.locs wb 1]
  | .fencef _ d o _ => [d.locs wb 1, o.locs wb]
  | _ => []

/-- A register field's register i as a destination, at a window base; g registers are never written (R24). -/
def Reg.dst (wb : Nat) (r : Reg) (i : Nat) : PDst :=
  match r with
  | .v n => .v (wb + n.val + i)
  | .k n => .k (n.val + i)
  | .g _ => .p 0

end Sys2Proof

namespace Sys2Proof.Machine

/-- The streams that an instruction's register fields name (R23), each once. -/
def opndStreams (os : List Opnd) : List Nat :=
  sortAsc (os.flatMap fun o => o.locs.filterMap fun l => match l with
    | .g n => some n
    | _ => none)

/-! ## Reading -/

/-- Is a lane's guard true (R19)? -/
def Thread.guardAt (x : Thread) (g : Guard) (l : Nat) : Bool :=
  (if g.p.val = 0 then true else (x.p.getD g.p.val 0).getLsbD l) != g.neg
/-- The lanes of a mask whose guard is true. -/
def Thread.guarded (x : Thread) (g : Option Guard) (m : Mask) : Mask :=
  match g with
  | none => m
  | some g =>
    let p : Mask := if g.p.val = 0 then BitVec.allOnes 32 else x.p.getD g.p.val 0
    m &&& (if g.neg then ~~~p else p)
/-- A lane of a v register of the main file (R27: zero until written). -/
def Thread.vreg (x : Thread) (abs l : Nat) : Word := SMap.getD x.v (32 * abs + l) 0
/-- A k register. -/
def Thread.kreg (x : Thread) (n : Nat) : Word := x.k.getD n 0
/-- A predicate in a lane. -/
def Thread.preg (x : Thread) (p l : Nat) : Bool := if p = 0 then true else (x.p.getD p 0).getLsbD l
/-- The offset of a bound stream, mod 2^32 (R236). -/
def Stream.offset (g : Stream) : Word :=
  ((List.range (g.ndim + 1)).map fun j => BitVec.ofNat 32 (g.idx.getD j 0) * g.str.getD j 0).foldl (· + ·) 0
/-- A stream's offset; an unbound stream is never read (R24). -/
def Thread.goff (x : Thread) (n : Nat) : Word :=
  match x.streams.getD n none with
  | some g => g.offset
  | none => 0
/-- A register's value in a lane (R20, R23). -/
def Thread.get (x : Thread) (r : Reg) (l : Nat) : Word :=
  match r with
  | .v n => x.vreg (x.winBase + n.val) l
  | .k n => x.kreg n.val
  | .g n => x.goff n.val
/-- Register i of those a field names, in a lane. -/
def Thread.getAt (x : Thread) (r : Reg) (i l : Nat) : Word :=
  match r with
  | .v n => x.vreg (x.winBase + n.val + i) l
  | .k n => x.kreg (n.val + i)
  | .g n => x.goff n.val
/-- A pair's 64-bit value in a lane, low half first (R18). -/
def Thread.get64 (x : Thread) (r : Reg) (l : Nat) : DWord := x.getAt r 1 l ++ x.getAt r 0 l
/-- The pair of a 6-bit pair field in a lane (R199). -/
def Thread.getO (x : Thread) (o : OPair) (l : Nat) : DWord :=
  match o with
  | .v q => x.vreg (x.winBase + 2 * q.val + 1) l ++ x.vreg (x.winBase + 2 * q.val) l
  | .k q => x.kreg (2 * q.val + 1) ++ x.kreg (2 * q.val)
/-- A location's value in a lane. -/
def Thread.locAt (x : Thread) (c : Loc) (l : Nat) : Word :=
  match c with
  | .v a => x.vreg a l
  | .k n => x.kreg n
  | .g n => x.goff n
  | .p n => if x.preg n l then 1 else 0
/-- A 64-bit k pair. -/
def Thread.kpair (x : Thread) (n : Nat) : DWord := x.kreg (n + 1) ++ x.kreg n

/-- A stream after one element (R236). -/
def advanceFrom : Nat → Nat → Stream → Stream
  | 0, _, g => g
  | n + 1, j, g =>
    let i := g.idx.getD j 0 + 1
    if i < g.ext.getD j 0 then { g with idx := setAt g.idx j i }
    else advanceFrom n (j + 1) { g with idx := setAt g.idx j 0, ended := setAt g.ended j true }
/-- The stream advances by one element, carrying outward (R236). -/
def Stream.advance (g : Stream) : Stream := advanceFrom (g.ndim + 1) 0 g
/-- The named streams advance once each (R23). -/
def Thread.advanceAll (x : Thread) (ns : List Nat) : Thread :=
  { x with streams := ns.foldl (fun l n => updAt l n fun g => g.map Stream.advance) x.streams }

/-! ## Writing -/

/-- The destination as a location. -/
def PDst.loc : PDst → Loc
  | .v a => .v a
  | .k n => .k n
  | .p n => .p n
/-- Clear the poison of 64-bit words of a v register that lanes cover whole (R353). -/
def clearPoison (ps : List Nat) (abs : Nat) (m : Mask) : List Nat :=
  ps.filter fun w => !(w / 16 == abs && m.getLsbD (2 * (w % 16)) && m.getLsbD (2 * (w % 16) + 1))
/-- Write a register or predicate now: lanes of a v register or a predicate (values in lane order, a predicate's as one mask),
or a whole k register; with a second value, which stands for the other half of its pair written by the same result, the pair loses its
poison (R353). A write to p0 is discarded (R19). -/
def Thread.land (x : Thread) (d : PDst) (m : Mask) (vals : List Word) : Thread :=
  match d with
  | .v abs =>
    { x with v := (lanesOf m).foldl (fun v l => SMap.set 0 v (32 * abs + l) (vals.getD l 0)) x.v,
             poison := if x.poison.isEmpty then [] else clearPoison x.poison abs m }
  | .k n => if m = 0 then x
    else { x with k := setAt x.k n (vals.getD 0 0), poison := if vals.length = 2 then x.poison.filter (· ≠ 2 ^ 20 + n / 2) else x.poison }
  | .p n => if n = 0 then x else { x with p := updAt x.p n fun p => (p &&& ~~~m) ||| (vals.getD 0 0 &&& m) }
/-- Discard earlier results that a later write overtakes (R202): in its lanes, or whole for a k register. -/
def Thread.discard (x : Thread) (d : PDst) (m : Mask) : Thread :=
  { x with pend := x.pend.map fun p =>
      if p.dst = d then { p with lanes := match d with
        | .k _ => if m = 0 then p.lanes else 0
        | _ => p.lanes &&& ~~~m } else p }
/-- Write a class A, B or C result: it lands `lat` cycles after its issue (R201). -/
def Thread.later (x : Thread) (due : Nat) (split : Mask) (d : PDst) (m : Mask) (vals : List Word) : Thread :=
  if d = .p 0 then x
  else
    let y := x.discard d m
    { y with pend := y.pend ++ [{ due := due, dst := d, lanes := m, vals := vals, split := split }] }
/-- Write a class V result at once. -/
def Thread.now (x : Thread) (d : PDst) (m : Mask) (vals : List Word) : Thread := (x.discard d m).land d m vals
/-- The results due by a cycle are written, in issue order (R201, R202). -/
def Thread.commit (x : Thread) (cycle : Nat) : Thread :=
  let y := (x.pend.filter fun p => p.due ≤ cycle).foldl (fun (x : Thread) p => x.land p.dst p.lanes p.vals) x
  { y with pend := x.pend.filter fun p => !(p.due ≤ cycle) }

end Sys2Proof.Machine
end

