-- ==== Sys2Proof/Machine/Flags.lean ====
section
/-!
DEFINITION. The flag computations: this machine's flags are its predicates (R15). Integer comparisons (R204, R223), tests of
a predicate across lanes (R255), and the signature of a split (R233).
-/
namespace Sys2Proof.Machine

/-- An integer comparison; `sg` compares two's-complement values (R223). -/
def cmpHolds (cc : Cmp) (sg : Bool) (a b : Word) : Bool :=
  match cc with
  | .eq => a == b
  | .ne => a != b
  | .lt => if sg then a.toInt < b.toInt else a.toNat < b.toNat
  | .le => if sg then a.toInt ≤ b.toInt else a.toNat ≤ b.toNat
  | .gt => if sg then b.toInt < a.toInt else b.toNat < a.toNat
  | .ge => if sg then b.toInt ≤ a.toInt else b.toNat ≤ a.toNat

/-- A test of n true lanes among the participating lanes (R255). -/
def pcondHolds (c : PCond) (n lanes : Nat) : Bool :=
  match c with
  | .all => n == lanes
  | .any => 1 ≤ n
  | .one => n == 1
  | .odd => n % 2 == 1

/-- One bit into the CRC-16 with polynomial 0x1021, unreflected (R233). -/
def crcBit (c : BitVec 16) (b : Bool) : BitVec 16 :=
  let y : BitVec 16 := c <<< 1
  if c.getLsbD 15 != b then y ^^^ 0x1021 else y
/-- One byte, most significant bit first. -/
def crcByte (c : BitVec 16) (x : Byte) : BitVec 16 :=
  [7, 6, 5, 4, 3, 2, 1, 0].foldl (fun c i => crcBit c (x.getLsbD i)) c
/-- One counted word: its bytes in ascending address order (R233). -/
def crcWord (c : BitVec 16) (w : Word) : BitVec 16 := [0, 1, 2, 3].foldl (fun c i => crcByte c (byteAt w i)) c

end Sys2Proof.Machine
end

