-- ==== Sys2Proof/Machine/Ops.lean ====
section
/-!
DEFINITION. The shared operations of issue: what every instruction word does around its own effect (interlocks, the common
faults in the order of R216, the advance of streams, the next address, stall counts, signatures), the writing of results, and
TAKING AN EXCEPTION and returning from one (R45, R46, R350, R351).
-/
namespace Sys2Proof.Machine

/-! ## The issue of one instruction -/

/-- An issue: the thread and entry, the thread's registers and the split as they stand, the addresses of the instruction and of
the next in issue order, its word, its stall count, its bundle's yield hint, its participating and its active lanes. `op` is the number of its access, `part`
how far that has come, and `again` says that the instruction has issued before. -/
structure Ctx where
  t : Nat
  e : Nat
  x : Thread
  sp : Split
  pc : Nat
  npc : Nat
  word : Word
  stall : Nat
  yh : Bool
  lanes : Mask
  act : Mask
  op : Nat
  part : Part
  again : Bool
  deriving DecidableEq, Repr

/-- A fault of R351 being raised: its code, where %faultpc points if not at the instruction, ADDR, INFO, AUX0 and AUX1. -/
structure FInfo where
  code : Nat
  pc : Option Nat := none
  addr : Nat := 0
  info : Nat := 0
  aux0 : Nat := 0
  aux1 : Nat := 0
  deriving DecidableEq, Repr

/-- How an instruction ends: at the next instruction; with its own addresses set in its entry and in the entries it made, `falls`
where the entry goes on at the fall-through successor; with its entry freed; issued, with its access under way; held by an interlock; with a precise fault; or with a fault after part of
its effect (POISON, R260). -/
inductive Done where
  | fall (s : State)
  | jump (s : State) (made : List Nat) (falls : Bool)
  | ends (s : State)
  | later (s : State) (p : Part)
  | hold
  | fault (f : FInfo)
  | failed (s : State) (f : FInfo)
  deriving DecidableEq, Repr

/-- The number of no thread: what an access of a strand that has ended names. -/
def noThread : Nat := 2 ^ 20
/-- The strand or context of an access under way as it is now, with the operands of the issue; one that has ended is as it was. -/
def State.opThread (s : State) (m : MOp) : Nat × Thread :=
  match s.thread? m.iss.t with
  | some y => if y.uid = m.x.uid
      then (m.iss.t, { y with v := m.x.v, k := m.x.k, p := m.x.p, streams := m.x.streams, winBase := m.x.winBase }) else (noThread, m.x)
  | none => (noThread, m.x)
/-- The issue in the latch, for an instruction: a first issue, or an access under way that is carried on. -/
def State.ctx? (s : State) (i : Instr) : Option Ctx :=
  s.iss.bind fun u => match u.op with
    | none => (s.thread? u.t).map fun x =>
      let sp := x.split u.e
      { t := u.t, e := u.e, x := x, sp := sp, pc := u.pc, npc := u.npc, word := u.word, stall := u.stall, yh := u.yh,
        lanes := x.guarded i.guard? sp.mask, act := sp.mask, op := s.nextOp, part := Part.none, again := false }
    | some id => (s.op? id).map fun m =>
      let (t, x) := s.opThread m
      { t := t, e := u.e, x := x, sp := x.split u.e, pc := u.pc, npc := u.npc, word := u.word, stall := u.stall, yh := u.yh,
        lanes := m.lanes, act := m.act, op := id, part := m.part, again := true }

/-- The operands of the instruction at this issue. -/
def Ctx.opnds (c : Ctx) (i : Instr) : List Opnd := i.opnds c.x.winBase c.x.seq

/-! ## Interlocks and common faults -/

/-- Does an access under way order what follows it: an acquire, or a fence (R106)? -/
def orders : Instr → Bool
  | .ldAcq .. | .fence .. | .atom _ (some (.acq, _)) .. | .atom _ (some (.ar, _)) .. => true
  | _ => false
/-- Is an instruction a release, or an access that must find the earlier ones of its lanes performed: a monitor's registration, a
yielded copy, the posting of a command (R106, R112, R125)? -/
def followsAll : Instr → Bool
  | .stRel .. | .atom _ (some (.rel, _)) .. | .atom _ (some (.ar, _)) .. | .fence .rel .. | .fence .ar .. | .barArv .. | .barSync ..
  | .rgdone .. | .dqpush .. | .atomsBcast .. | .fencef .. | .ctradd .. | .colpost .. | .waitc .. | .cpyY .. | .gbind .. => true
  | .atomf _ ord .. => ord == some .rel || ord == some .ar
  | i => i.place == .q
/-- Does an instruction access scratchpad or remote memory, or wait for it, or for a barrier or placeholder: what an earlier acquire or
fence under way comes before (R106)? -/
def followsOrder : Instr → Bool
  | .lds .. | .sts .. | .atoms .. | .dqpop .. | .dqsteal .. | .ldf .. | .stf .. | .stfUrg .. | .atomf .. | .ctrwait .. | .barWait ..
  | .rgwait .. => true
  | _ => false
/-- Does the order of accesses hold an instruction back: behind the accesses under way of its lanes, a check behind a watched load, the
end of a lease behind the lease (R106, R124, R130)? -/
def State.orderHeld (s : State) (c : Ctx) (i : Instr) : Bool :=
  !s.ops.isEmpty && s.ops.any fun m => m.overlaps c.x.uid c.act && (followsAll i || (followsOrder i && orders m.instr)
    || (match i, m.instr with
        | .wchk .., .ldw .. | .unlease .., .lease .. => true
        | _, _ => false))
/-- Is a location a destination of an access under way that the instruction's lanes wait for (R201)? -/
def State.awaited (s : State) (c : Ctx) (l : Loc) : Bool :=
  s.ops.any fun m => m.x.uid == c.x.uid && m.dests.any fun d => d.loc == l && (match d with
    | .k _ => true
    | _ => m.act &&& c.act != 0)

/-- Is the instruction held by an interlock: a register or predicate that an access under way or a remote answer will write, or a k
register it reads that another split's pending result will write (R201, R202)? -/
def State.interlocked (s : State) (c : Ctx) (i : Instr) : Bool :=
  (!c.x.rem.isEmpty && c.x.rem.any fun r => (r.hold && r.all &&& c.act != 0) || (r.lanes &&& c.act != 0 &&
    (c.opnds i).any fun o => o.locs.any fun l => match l with
      | .v a => r.abs.contains a
      | _ => false))
  || (!c.x.pend.isEmpty && (c.opnds i).any fun o => o.rd && o.locs.any fun l => match l with
      | .k n => c.x.pend.any fun p => p.dst == .k n && p.lanes != 0 && p.split &&& c.act == 0
      | _ => false)
  || (!s.ops.isEmpty && (c.opnds i).any fun o => o.locs.any fun l => s.awaited c l)
  || s.orderHeld c i

/-- The special registers that `movs` reads (R30): whether the selector exists, and whether it is a strand's only. -/
def movsKnown (sel : Nat) : Bool := sel ≤ 0x14 || (0x18 ≤ sel && sel ≤ 0x1B)
/-- The selectors marked "Strand" (R30). -/
def movsStrand (sel : Nat) : Bool :=
  sel ≤ 0x03 || sel == 0x0D || sel == 0x0E || sel == 0x12 || sel == 0x13 || (0x18 ≤ sel && sel ≤ 0x1B)

/-- The group barriers of a thread's gang (R234). -/
def State.barriers (s : State) (x : Thread) : Nat :=
  match s.gang? x.gang with
  | some g => g.nbars
  | none => 0

/-- Lanes of a mask in which a list of locations differs from its value in the mask's lowest lane (R21, R45). -/
def Thread.differing (x : Thread) (ls : List Loc) (m : Mask) : Mask :=
  if ls.all fun c => match c with
    | .v _ => false
    | _ => true
  then 0
  else
    let l0 := lowLane m
    maskOf fun l => hasLane m l && ls.any fun c => x.locAt c l != x.locAt c l0

/-- Is an instruction illegal where and when it is issued (R29, R30, R213 to R215, R46, R234)? -/
def State.illegalAt (s : State) (c : Ctx) (i : Instr) : Bool :=
  !i.wf
  || (match i.place with
      | .s => c.x.seq
      | .q => !c.x.seq
      | .sq => false)
  || (c.x.seq && (c.opnds i).any fun o => o.locs.any fun l => match l with
      | .v _ | .g _ => true
      | _ => false)
  || (match i with
      | .tanh .. | .mmaSp .. | .mmaSpOl .. => s.mod.stepping != 0xB0
      | .movs _ _ sel => !movsKnown sel.toNat || (c.x.seq && movsStrand sel.toNat)
      | .eret _ => c.lanes != 0 && !c.sp.inH
      | .barArv _ a _ | .barWait _ a | .barSync _ a _ =>
        c.lanes != 0 && c.x.differing (a.locs c.x.winBase 1) c.lanes == 0
          && s.barriers c.x ≤ (c.x.get a (lowLane c.lanes)).toNat
      | _ => false)

/-- The checking scoreboard is on (R202). -/
def State.scoreboard (s : State) (launch : Nat) : Bool :=
  (match s.launch? launch with
   | some l => l.stallchk
   | none => false)
  || (match s.kernelOf launch with
   | some k => k.stallchk
   | none => false)

/-- The INFO of STALLSHORT for a register or predicate (R351). -/
def Loc.short : Loc → Nat
  | .v a => a
  | .p n => 0x100 + n
  | .k n => 0x200 + n
  | .g _ => 0

/-- The first register or predicate, in field order, that a pending result of the same split will write (R202, R351). -/
def Ctx.short? (c : Ctx) (i : Instr) : Option Nat :=
  if c.x.pend.isEmpty then none
  else (((c.opnds i).flatMap fun o => o.locs).find? fun l =>
    c.x.pend.any fun p => p.dst.loc == l && p.split &&& c.act != 0).map Loc.short

/-- The lowest absolute index at or beyond the allocation among the registers named (R17, R18, R351). -/
def Ctx.beyond? (c : Ctx) (i : Instr) : Option Nat :=
  (sortAsc ((c.opnds i).flatMap fun o => o.locs.filterMap fun l => match l with
    | .v a => if c.x.regs ≤ a then some a else none
    | _ => none)).head?

/-- The first unbound stream that a field reads, in field order (R24). -/
def Ctx.unbound? (c : Ctx) (i : Instr) : Option Nat :=
  ((c.opnds i).flatMap fun o => o.locs.filterMap fun l => match l with
    | .g n => if (c.x.streams.getD n none).isNone then some n else none
    | _ => none).head?

/-- The lanes that disagree in the first operand that must be uniform (R21, R22, R221). -/
def Ctx.nonuniform (c : Ctx) (i : Instr) : Mask :=
  if c.lanes = 0 then 0
  else
    let ops := if i.uniformDst c.x.winBase c.x.seq then ((c.opnds i).filter (·.rd)).map (·.locs) |>.filter fun l =>
        l.all fun c => match c with
          | .p _ => false
          | _ => true
      else i.uniformOpnds c.x.winBase
    let first := (ops.map fun l => c.x.differing l c.lanes).find? (· != 0)
    match first with
    | some m => m
    | none => match i with
      | .sel pg d _ _ =>
        if d.isK then maskOf fun l => hasLane c.act l && c.x.guardAt pg l != c.x.guardAt pg (lowLane c.act) else 0
      | .movs _ d sel =>
        if d.isK && sel == 0 then maskOf fun l => hasLane c.lanes l && l != lowLane c.lanes else 0
      | _ => 0

/-- Source lane of `xlane.g` (R254). -/
def gatherLane (b : Word) (_ : Nat) : Nat := b.toNat % 32
/-- Source lane of `xlane.rot` (R254). -/
def rotateLane (b : Word) (l : Nat) : Nat :=
  let w := match b.toNat / 256 % 8 with
    | 1 => 2
    | 2 => 4
    | 3 => 8
    | 4 => 16
    | _ => 32
  l / w * w + (l % w + b.toNat % 32) % w
/-- Source lane of `xlane.x` (R254). -/
def exchangeLane (b : Word) (l : Nat) : Nat := l ^^^ (b.toNat % 32)
/-- The operand that an instruction reads in lanes whatever their state, those lanes, and what it reads in its own (R253). -/
def Ctx.across (c : Ctx) (i : Instr) : Option (Reg × List Nat × List Reg) :=
  match i with
  | .xlaneG _ _ a b => some (a, (lanesOf c.lanes).map fun l => gatherLane (c.x.get b l) l, [b])
  | .xlaneRot _ _ a b => some (a, (lanesOf c.lanes).map fun l => rotateLane (c.x.get b l) l, [b])
  | .xlaneX _ _ a b => some (a, (lanesOf c.lanes).map fun l => exchangeLane (c.x.get b l) l, [b])
  | .dqmx _ _ a | .dqdx _ _ a => some (a, if c.lanes = 0 then [] else List.range 5, [])
  | _ => none

/-- Does a register or predicate hold poison in one of the lanes (R353)? A guard is read in every lane. -/
def Ctx.poisonIn (c : Ctx) (loc : Loc) (ls : List Nat) : Bool :=
  match loc with
  | .v a => ls.any fun n => c.x.poison.contains (16 * a + n / 2)
  | .k n => !ls.isEmpty && c.x.poison.contains (2 ^ 20 + n / 2)
  | .p n => c.x.poison.contains (2 ^ 21 + n / 2)
  | .g _ => false
/-- A register or predicate that holds poison is read, in a participating lane or across lanes (R353, R354). -/
def Ctx.poisoned (c : Ctx) (i : Instr) : Bool :=
  !c.x.poison.isEmpty
  && (match c.across i with
      | some (a, ls, own) =>
        (a.locs c.x.winBase 1).any (fun l => c.poisonIn l ls)
          || own.any fun r => (r.locs c.x.winBase 1).any fun l => c.poisonIn l (lanesOf c.lanes)
      | none => (c.opnds i).any fun o => o.rd && o.locs.any fun l => c.poisonIn l (lanesOf c.lanes))

/-- The instructions whose TARGET stands in the order of R216 before the faults that its list does not name, poison among them. -/
def transfers : Instr → Bool
  | .bra .. | .brx .. | .call .. | .ret .. | .gloop .. | .joinat .. | .rgwait .. | .cpyY .. => true
  | _ => false
/-- The poison of what a transfer reads, found after its TARGET (R216, R354; log 80). -/
def Ctx.afterTarget (c : Ctx) (i : Instr) (d : Done) : Done := if c.poisoned i then .fault { code := codePOISON } else d

/-- The common faults, in the order of R216: only the first is raised. A command whose guard is false checks nothing beyond ILLEGAL
(R278). -/
def State.commonFault (s : State) (c : Ctx) (i : Instr) : Option FInfo :=
  if s.illegalAt c i then some { code := codeILLEGAL, info := c.word.toNat }
  else if i.place == .q && c.lanes == 0 then none
  else match (if s.scoreboard c.x.launch then c.short? i else none) with
    | some n => some { code := codeSTALLSHORT, info := n }
    | none => match c.beyond? i with
      | some n => some { code := codeREGRANGE, info := n }
      | none => match c.unbound? i with
        | some n => some { code := codeSTREAM, info := n }
        | none =>
          if c.nonuniform i != 0 then some { code := codeNONUNIFORM, info := (c.nonuniform i).toNat }
          else if !transfers i && c.poisoned i then some { code := codePOISON }
          else none

/-! ## Taking an exception -/

/-- The five handler classes (R45). -/
def eligible (code : Nat) : Bool :=
  code == codeBRXRANGE || code == codeNONUNIFORM || code == codeALIGN || code == codeSTREAM || code == codeTRAPINSN

/-- The handler of a strand's kernel, if it names one (R45). -/
def State.trapOf (s : State) (x : Thread) : Option Nat := (s.kernelOf x.launch).bind fun k => k.trap

/-- Does some split of the strand hold the status "in handler" (R45)? -/
def Thread.handlerBusy (x : Thread) : Bool :=
  (x.splits.any fun p => (p.valid && p.inH) || p.queue.any fun d => d.inH) || x.recs.any fun j => j.inH != 0

/-- A split enters the handler: %fault, %faultpc and %faultinfo are written, its status becomes "in handler", its pc the
handler's label, and its signature starts again; the results its lanes have pending are written first (R45, R189, R233). -/
def Thread.enterHandler (x : Thread) (e code pc : Nat) (info : Word) (trap : Nat) : Thread :=
  { x with fault := BitVec.ofNat 8 code, faultpc := pc, faultinfo := info }.updSplit e fun p =>
    { p with inH := true, pc := trap, held := none, sig := 0xFFFF, stall := max p.stall (x.drainAt p.mask) }

/-- The entry whose held fault came first. -/
def Thread.firstHeld (x : Thread) : Option (Nat × Held) :=
  ((List.range 4).filterMap fun e => (x.split e).held.map fun h => (e, h)).foldl
    (fun b c => match b with
      | none => some c
      | some b => if c.2.order < b.2.order then some c else some b) none

/-- When the handler of a strand is free, the split held earliest takes it (R45, R46). -/
def State.handlerFree (s : State) (t : Nat) : State :=
  match s.thread? t with
  | none => s
  | some x =>
    if x.handlerBusy then s
    else match x.firstHeld, s.trapOf x with
      | some (e, h), some trap => s.setThread t (x.enterHandler e h.code h.pc h.info trap)
      | _, _ => s

/-- TAKE AN EXCEPTION. A fault of a handler class goes to the kernel's handler; where another fault is in it, the split is held
with its instruction not performed; in the handler, or without one, and for every other code, the fault record is made and the
work ends as R350 and R351 give. -/
def State.raise (s : State) (c : Ctx) (f : FInfo) : State :=
  let s := { s with iss := none }
  let pc := f.pc.getD c.pc
  let finish (s : State) : State :=
    if c.t = noThread then
      (if s.launchOpen c.x.launch then
         s.failDead c.x.uid c.x.launch { s.opRec f.code c.x c.pc with addr := f.addr, info := f.info, aux0 := f.aux0, aux1 := f.aux1 }
       else s)
    else if c.x.seq then s.contextFault c.x.gang c.pc f.code f.addr f.info f.aux0 f.aux1
    else s.failThread c.t { s.threadRec f.code c.t c.pc with addr := f.addr, info := f.info, aux0 := f.aux0, aux1 := f.aux1 }
  match s.trapOf c.x with
  | some trap =>
    if eligible f.code && !c.x.seq && !c.sp.inH && c.t != noThread then
      if c.x.handlerBusy then
        s.updSplit c.t c.e fun p =>
          { p with held := some { order := s.cycle, code := f.code, pc := pc, info := BitVec.ofNat 32 f.info } }
      else s.updThread c.t fun x => x.enterHandler c.e f.code pc (BitVec.ofNat 32 f.info) trap
    else finish s
  | none => finish s

/-- RETURN FROM AN EXCEPTION: the split's pc becomes %faultpc and its status running; the handler may then pass to the split
held earliest (R46, R233). -/
def State.returnHandler (s : State) (t e : Nat) : State :=
  (s.updThread t fun x => x.updSplit e fun p => { p with inH := false, pc := x.faultpc, sig := 0xFFFF }).handlerFree t

/-! ## What follows the effect -/

/-- Is Signet enabled for a launch: the launch record asks for it and the kernel's descriptor has the bit (R183, R233, R328)? -/
def State.signetOn (s : State) (launch : Nat) : Bool :=
  match s.launch? launch, s.kernelOf launch with
  | some l, some k => l.signet && k.signet
  | _, _ => false

/-- The cycle from which the split may issue again after a stall count (R196). -/
def stallUntil (cycle stall : Nat) : Nat := if stall = 0 then 0 else cycle + 1 + stall

/-- The signature after an issue: `sigchk` restarts it, the fall-through successor counts the word, any other restarts it
(R233). -/
def nextSig (on : Bool) (i : Instr) (c : Ctx) (sig : BitVec 16) (falls : Bool) : BitVec 16 :=
  match i with
  | .sigchk _ => 0xFFFF
  | _ => if on && falls then crcWord sig c.word else 0xFFFF

/-- Does the strand become yielding: its split leaves a bundle with YH set (R41, R194)? -/
def leavesBundle (c : Ctx) (pc : Nat) : Bool := c.yh && pc / 32 != c.pc / 32

/-- The issuing entry after an instruction that leaves it at an address, which is the fall-through successor's or not. -/
def Thread.closeAt (x : Thread) (on : Bool) (i : Instr) (c : Ctx) (cycle : Nat) (falls : Bool) : Thread :=
  let y := (x.advanceAll (opndStreams (c.opnds i))).updSplit c.e fun p =>
    { p with stall := max p.stall (stallUntil cycle c.stall), sig := nextSig on i c p.sig falls }
  { y with yielding := y.yielding || leavesBundle c (y.split c.e).pc }

/-- Does the split stay at an instruction whose access is under way, since its faults or the rest of its effect are not decided before? -/
def stays : Instr → Bool
  | .ld .. | .st .. | .ldB128Signed .. | .stB128 .. | .ldAcq .. | .stRel .. | .atomAddS32 .. | .atom .. | .ldw .. | .ldk .. | .lease ..
  | .fence .. => false
  | _ => true
/-- The registers and predicates that an instruction writes. -/
def Ctx.dests (c : Ctx) (i : Instr) : List PDst :=
  (c.opnds i).flatMap fun o => if o.wr then o.locs.filterMap fun l => (match l with
    | .v a => some (.v a)
    | .k n => some (.k n)
    | .p n => some (.p n)
    | .g _ => none) else []
/-- The split goes on at the next instruction, issued in `s0`. -/
def State.fallOn (s s0 : State) (i : Instr) (c : Ctx) : State :=
  s.updThread c.t fun x => (x.updSplit c.e fun p => { p with pc := c.npc }).closeAt (s0.signetOn c.x.launch) i c s0.cycle true
/-- The instruction has issued and its access is under way (R201): the split goes on, or stays. -/
def State.startOp (s : State) (i : Instr) (c : Ctx) (p : Part) : State :=
  let u : Issuer := { t := c.t, e := c.e, pc := c.pc, npc := c.npc, word := c.word, stall := c.stall, yh := c.yh, op := none }
  let s := s.addOp { id := 0, x := c.x, iss := u, instr := i, act := c.act, lanes := c.lanes, dests := c.dests i,
                     block := stays i, part := p }
  if stays i then s else s.fallOn s i c

/-- The state after an instruction that performed its effect. -/
def State.close (s : State) (i : Instr) (c : Ctx) : Done → State
  | .fall s' =>
    let s' := if c.again then { s' with iss := none }.endOp c.op else { s' with iss := none }
    if c.again && !stays i then s' else s'.fallOn s i c
  | .jump s' made falls =>
    let s' := if c.again then s'.endOp c.op else s'
    { s' with iss := none }.updThread c.t fun x =>
      made.foldl (fun x e => x.updSplit e fun p => { p with stall := max p.stall (stallUntil s.cycle c.stall) })
        (x.closeAt (s.signetOn c.x.launch) i c s.cycle falls)
  | .ends s' =>
    { s' with iss := none }.updThread c.t fun x =>
      { x.advanceAll (opndStreams (c.opnds i)) with yielding := x.yielding || c.yh }
  | .later s' p =>
    if c.again then { s' with iss := none }.updOp c.op fun m => { m with part := p } else { s' with iss := none }.startOp i c p
  | .hold => if c.again then { s with iss := none } else s
  | .fault f => (if c.again then s.endOp c.op else s).raise c f
  | .failed s' f => (if c.again then s'.endOp c.op else s').raise c f

/-- THE ISSUE OF AN INSTRUCTION WORD: an interlock holds it (it stays in the latch); the first common fault is raised; else its
own effect. An access under way is carried on by its own effect alone. -/
def issue (i : Instr) (s : State) (k : Ctx → State → Done) : Host.Outcome State Fault Refusal :=
  match s.ctx? i with
  | none => .fault .noIssuer
  | some c =>
    if c.again then .next (s.close i c (k c s))
    else if s.interlocked c i then .next s
    else match s.commonFault c i with
      | some f => .next (s.raise c f)
      | none => .next (s.close i c (k c s))

/-! ## Results -/

/-- Per-lane values as a list of 32 words, zero where a lane does not take part. -/
def laneVals (m : Mask) (f : Nat → Word) : List Word := lanes32.map fun l => if hasLane m l then f l else 0
/-- The values of a destination: a k register takes that of the lowest lane (R21). -/
def destVals (d : PDst) (m : Mask) (f : Nat → Word) : List Word :=
  match d with
  | .v _ => laneVals m f
  | .k _ => [f (lowLane m)]
  | .p _ => [maskOf fun l => hasLane m l && f l != 0]
/-- Write one destination with a latency: 0 at once (R201). -/
def State.write (s : State) (c : Ctx) (lat : Nat) (d : PDst) (m : Mask) (f : Nat → Word) : State :=
  s.updThread c.t fun x =>
    if lat = 0 then x.now d m (destVals d m f) else x.later (s.cycle + lat) c.act d m (destVals d m f)
/-- The values of the upper half of a pair, written after its lower half by the same result: two k registers share a word of poison
(R353). -/
def hiVals (d : PDst) (m : Mask) (f : Nat → Word) : List Word :=
  match d with
  | .k n => destVals (.k n) m f ++ [0]
  | d => destVals d m f
/-- Write the upper half of a pair, its lower half having been written by the same result. -/
def State.writeHi (s : State) (c : Ctx) (lat : Nat) (d : PDst) (m : Mask) (f : Nat → Word) : State :=
  s.updThread c.t fun x =>
    if lat = 0 then x.now d m (hiVals d m f) else x.later (s.cycle + lat) c.act d m (hiVals d m f)
/-- Write a register field in the participating lanes. -/
def State.put (s : State) (c : Ctx) (lat : Nat) (d : Reg) (f : Nat → Word) : State :=
  s.write c lat (d.dst c.x.winBase 0) c.lanes f
/-- Write a pair, low half first (R18, R224). -/
def State.put64 (s : State) (c : Ctx) (lat : Nat) (d : Reg) (f : Nat → DWord) : State :=
  (s.write c lat (d.dst c.x.winBase 0) c.lanes fun l => (f l).setWidth 32).writeHi c lat (d.dst c.x.winBase 1) c.lanes
    fun l => ((f l) >>> 32).setWidth 32
/-- Write a predicate in the participating lanes; p0 is never written (R19). -/
def State.putP (s : State) (c : Ctx) (lat : Nat) (p : Fin 8) (f : Nat → Bool) : State :=
  s.write c lat (.p p.val) c.lanes fun l => if f l then 1 else 0

end Sys2Proof.Machine
end

