-- ==== Sys2Proof/Machine/Fetch.lean ====
section
/-!
DEFINITION. The instruction path: which addresses are instruction words (R193 to R197, R226), and the fetch and decoding of the
word at a split's pc with its extension words, its stall count and its bundle's yield hint.
-/
namespace Sys2Proof.Machine

/-- The text section of a strand or of a context: its address and its bytes (R300, R305). -/
def State.textOf (s : State) (x : Thread) : Nat × Nat :=
  match s.kernelOf x.launch with
  | some k => if x.seq then (k.qtext, k.qsize) else (k.stext, k.ssize)
  | none => (0, 0)

/-- Consumed poison marks the page's entry (R341, R354). -/
def State.markPois (s : State) (space va : Nat) : State :=
  match s.page? space va with
  | some p => if p.pois then s else s.setPte { p with pois := true } true
  | none => s

/-- The first byte of a range whose home copy is poisoned, or 0. -/
def State.sectorAt (s : State) (space va w : Nat) : Nat :=
  ((List.range w).find? fun i => s.poisoned ((s.pa? space (va + i)).getD 0) 1).getD 0
/-- The physical address of that byte (R351). -/
def State.sectorPa (s : State) (space va w : Nat) : Nat := (s.pa? space (va + s.sectorAt space va w)).getD 0

/-- A word read through the instruction path, or none where its page does not allow a fetch. -/
def State.codeWord (s : State) (space va : Nat) : Option Word :=
  match s.denied space va .fetch, s.pa? space va with
  | none, some pa => some (BitVec.ofNat 32 (Memory.le s.mem pa 4))
  | _, _ => none

/-- Does XF of a control word mark a slot as an extension (R194)? -/
def xfMarks (cw : Word) (slot : Nat) : Bool := cw.getLsbD (20 + slot)

/-- Is an address that of an instruction word of the thread's text section (R193, R197, R225)? -/
def State.isCode (s : State) (x : Thread) (a : Nat) : Bool :=
  let (b, n) := s.textOf x
  a % 4 == 0 && b ≤ a && a + 4 ≤ b + n && a % 32 != 0
    && (match s.codeWord x.space (a / 32 * 32) with
        | some cw => !xfMarks cw (a % 32 / 4)
        | none => false)

/-- The slots marked in a row from a slot on, up to slot 7: the extension words of the instruction before them (R195). -/
def extSlots (cw : Word) : Nat → Nat → List Nat
  | 0, _ => []
  | n + 1, slot => if slot ≤ 7 && xfMarks cw slot then slot :: extSlots cw n (slot + 1) else []

/-- The address of the next instruction in issue order after one with `n` extension words (R193). -/
def nextPc (pc n : Nat) : Nat := if pc % 32 / 4 + n ≥ 7 then pc / 32 * 32 + 36 else pc + 4 * (n + 1)

/-- The stall count of a slot (R194). -/
def stallField (cw : Word) (slot : Nat) : Nat := (cw.extractLsb' (3 * (slot - 1)) 3).toNat

/-- The instruction that a control word, an instruction word and its extension words make: ILLEGAL where R215 says so. -/
def bundleInstr (cw w : Word) (exts : List Word) (ix : List Nat) : Instr :=
  if cw.extractLsb' 28 3 != 0 || xfMarks cw 1 || ix.any (fun i => stallField cw i != 0) then .illegal w
  else match decode w exts with
    | some i => i
    | none => .illegal w

/-- What a fetch gives: the issuer latch, and the instruction or the fault raised at it. -/
structure Fetched where
  iss : Issuer
  res : Sum FInfo Instr
  deriving DecidableEq, Repr

/-- Does the launch trap on the scope check's report (R117)? -/
def State.trapsMix (s : State) (launch : Nat) : Bool :=
  match s.launch? launch with
  | some l => l.scopetrap
  | none => false

/-- The SCOPEMIX report of an acquire: report only, the work continues (R117, R349). -/
def State.reportMix (s : State) (t pc va r a : Nat) : State :=
  s.record { s.threadRec codeSCOPEMIX t pc with flags := 4, addr := va, info := r, aux0 := a }

/-- The report of a wake-up's scope check, made before the split's next instruction (R117). -/
def State.reportWake (s : State) (t e : Nat) : State :=
  match (s.split t e).mix with
  | some (va, r, a, pc) => (s.reportMix t pc va r a).updSplit t e fun p => { p with mix := none }
  | none => s

/-- FETCH: the word at the pc of an entry, with its bundle's control word and its extension words (R193 to R195). The access is
checked as one of the launch, its text being exempt from residency (R344); a fetch consumes poison (R354). -/
def State.fetch (s : State) (t e : Nat) (x : Thread) : Fetched :=
  let pc := (x.split e).pc
  let base := pc / 32 * 32
  let slot := pc % 32 / 4
  let none' (f : FInfo) : Fetched :=
    { iss := { t := t, e := e, pc := pc, npc := nextPc pc 0, word := 0, stall := 0, yh := false, op := none }, res := .inl f }
  match (if s.trapsMix x.launch then (x.split e).mix else none) with
  | some (va, r, a, wpc) =>
    { iss := { t := t, e := e, pc := wpc, npc := pc, word := 0, stall := 0, yh := false, op := none },
      res := .inl { code := codeSCOPEMIX, addr := va, info := r, aux0 := a } }
  | none =>
  if s.leaseOut x.launch pc 4 then none' { code := codeLEASEOUT, addr := pc }
  else match s.denied x.space pc .fetch with
    | some n => none' { code := codePERM, addr := pc, info := n }
    | none =>
      match s.pa? x.space base, s.codeWord x.space base, s.codeWord x.space pc with
      | some pa, some cw, some w =>
        let ix := extSlots cw 7 (slot + 1)
        let exts := ix.filterMap fun i => s.codeWord x.space (base + 4 * i)
        let iss : Issuer := { t := t, e := e, pc := pc, npc := nextPc pc ix.length, word := w, stall := stallField cw slot,
                              yh := cw.getLsbD 31, op := none }
        if s.poisoned (pa + pc % 32) 4 || s.poisoned pa 4 || ix.any (fun i => s.poisoned (pa + 4 * i) 4) then
          { iss := iss, res := .inl { code := codePOISON, addr := pa + pc % 32 } }
        else { iss := iss, res := .inr (bundleInstr cw w exts ix) }
      | _, _, _ => none' { code := codePERM, addr := pc, info := 1 }

/-- A fault at the fetch, raised at the latched issue; poison that it has consumed marks the page's entry (R354). -/
def State.raiseFetch (s : State) (f : FInfo) : State :=
  match s.ctx? (.nop { neg := false, p := 0 }) with
  | some c => (if f.code = codePOISON then s.markPois c.x.space c.pc else s).raise c f
  | none => s

end Sys2Proof.Machine
end

