-- ==== Sys2Proof/Machine/Access.lean ====
section
/-!
DEFINITION. Accesses of strands and contexts to global memory (R104 to R106, R128, R259 to R263): addresses, checks, the lines an
instruction needs and how it waits for them (log 12), the release and acquire actions, and the reading and writing of lanes.
-/
namespace Sys2Proof.Machine

/-! ## Addresses and checks -/

/-- The effective address of a lane: a pair plus an offset, or a stream's base plus its offset (R259, R236). -/
def Ctx.ea (c : Ctx) (a : Reg) (off : BitVec 32) (l : Nat) : DWord :=
  match a with
  | .g n => match c.x.streams.getD n.val none with
    | some g => BitVec.ofNat 64 g.base + g.offset.signExtend 64 + off.signExtend 64
    | none => 0
  | _ => c.x.get64 a l + off.signExtend 64

/-- The offset of majors 0x50 to 0x57: the extension's, or OFF7 in units of the width (R205, R259). -/
def off7 (w : Width) (o : BitVec 7) (ext : Option (BitVec 32)) : BitVec 32 :=
  match ext with
  | some x => x
  | none => o.signExtend 32 * BitVec.ofNat 32 w.bytes
/-- The offset of the other majors: the extension's, or 0. -/
def offX (ext : Option (BitVec 32)) : BitVec 32 := ext.getD 0

/-- The checks of R260 on the participating lanes: alignment, upper bits, residency, permission. `al` is the alignment. -/
def State.gcheck (s : State) (c : Ctx) (ea : Nat → DWord) (w al : Nat) (acc : Acc) : Option FInfo :=
  let ls := lanesOf c.lanes
  let va (l : Nat) : Nat := (ea l).toNat
  let bad := maskOf fun l => hasLane c.lanes l && va l % al != 0
  if bad != 0 then some { code := codeALIGN, addr := va (lowLane bad), info := bad.toNat }
  else match ls.find? (fun l => 2 ^ 48 ≤ va l) with
    | some l => some { code := codePERM, addr := va l, info := 3 }
    | none => match ls.find? (fun l => s.leaseOut c.x.launch (va l) w) with
      | some l => some { code := codeLEASEOUT, addr := va l }
      | none => match ls.find? (fun l => (s.denied c.x.space (va l) acc).isSome) with
        | some l => some { code := codePERM, addr := va l, info := (s.denied c.x.space (va l) acc).getD 0 }
        | none => none

/-! ## The lines of an access -/

/-- A physical line that an access needs: whether its page is HW, in transition or migrating (R105, R138, R346), its virtual
line, and the bytes needed. -/
structure LReq where
  pl : Nat
  vl : Nat
  hw : Bool
  l2 : Bool
  mig : Nat
  mask : ByteMask
  deriving DecidableEq, Repr

/-- Add a request, joining those of one physical line; rising by physical line. -/
def addReq (q : LReq) : List LReq → List LReq
  | [] => [q]
  | r :: rest =>
    if r.pl = q.pl then { r with vl := min r.vl q.vl, mask := r.mask ||| q.mask } :: rest
    else if q.pl < r.pl then q :: r :: rest
    else r :: addReq q rest

/-- The lines of accesses of `w` bytes at addresses that the checks have passed. -/
def State.lineReqs (s : State) (space w : Nat) (vas : List Nat) : List LReq :=
  vas.foldl (fun rs va =>
    match s.page? space va with
    | some p =>
      let pa := p.base + va % p.size
      addReq { pl := lineOf pa, vl := va / 128, hw := p.hw, l2 := p.tr || p.mig != 0, mig := p.mig,
               mask := maskFrom (pa % 128) w } rs
    | none => rs) []

/-- The lines in ascending virtual line address: R121 names a line by its virtual address, and by it the lines of an atomic or a watched
load go (R120, R128; log 12). -/
def byVirtual (rs : List LReq) : List LReq :=
  rs.foldr (fun q l => (l.takeWhile fun r => r.vl < q.vl) ++ q :: l.dropWhile fun r => r.vl < q.vl) []

/-- What a request for a line comes to: it is there, or the access waits for it. -/
inductive Got where
  | ready (s : State)
  | wait (s : State)
  deriving DecidableEq, Repr

/-- A cache state on its way to another. -/
def Line.moving (l : Line) : Bool := !l.st.stable

/-- A fill that an acquire has overtaken has served its access: what the core has written stays (R106). -/
def Line.unstale (l : Line) : Line := if l.stale then { l with stale := false, filled := false, asker := none } else { l with asker := none }

/-- An access of a core has taken what it asked of a line: data under RET returns, a line kept at its home is free (R134, R140). -/
def State.served (s : State) (cid pl op : Nat) (wrote : Bool) : State :=
  let l := s.l1 cid pl
  let s := if l.asker == some op && l.st != .I then
      (let l := l.unstale
       s.setL1 cid pl (if l.sw && l.st == .S && l.held == 0 then Line.reset else l))
    else s
  (if wrote then s.returnRet cid pl else s).unreserve cid pl

/-- An L1 gives up its copy of a line whose page is in transition or migrates, so that it accesses the line at the home (R138,
R346): an owned line goes back, a dirty SW line is merged where the home can take its bytes. -/
def State.giveBack (s : State) (cid pl : Nat) : State :=
  let l := s.l1 cid pl
  if s.leased cid pl then s
  else if l.exclusive then s.evictLine cid (pl, l)
  else if l.untracked then
    (if l.dirty = 0 then s.setL1 cid pl Line.reset
     else if s.writable cid pl then (s.merge pl l).setL1 cid pl Line.reset
     else s.askHome cid pl 4)
  else if l.st == .S then
    let s := s.setL1 cid pl Line.reset
    if coreDie cid = lineDie pl then s.updHome pl fun h => { h with sharers := h.sharers.filter (· ≠ cid) }
    else s.updPeer pl fun p => { p with sharers := p.sharers.filter (· ≠ cid) }
  else s

/-- A line accessed at its home by a core (R138): kind 5 to read, 4 to write. While its page migrates, a write has its place at the home and
waits; once the old home forwards, what has such a place is performed, and what has none waits for the end; and all wait for the writes of
remote endpoints that are queued for the line (R346). -/
def State.getAtHome (s : State) (cid pl kind mig : Nat) : Got :=
  let s := if (s.l1 cid pl).st == .I then s else s.giveBack cid pl
  if (s.l1 cid pl).st != .I then .wait s
  else if s.lineQueued pl then .wait (s.unreserve cid pl)
  else if mig = 2 ∧ (s.home pl).reserved ≠ some cid then .wait s
  else if kind = 4 ∧ mig = 1 then .wait (if (s.home pl).reserved = some cid then s else s.askHome cid pl 4)
  else if (if kind = 4 then s.writable cid pl else s.homeReadable cid pl) then .ready (s.touch pl)
  else .wait (s.askHome cid pl kind)

/-- A line to read, for an access (R105, R134): from the L1, or filled at once on a SW page, or asked for; in a transition, at the
home. -/
def State.getShared (s : State) (cid op : Nat) (r : LReq) : Got :=
  let l := s.l1 cid r.pl
  if l.moving then .wait s
  else if r.l2 then s.getAtHome cid r.pl 5 r.mig
  else if l.stale && l.asker != some op then .wait s
  else if l.readable && r.mask &&& ~~~l.held == 0 then .ready s
  else match (if l.st == .I then s.l1Room cid else some s) with
    | none => .wait s
    | some s =>
      match (if r.hw then none else s.l2Copy cid r.pl) with
      | some d => .ready (s.swFill cid r.pl d)
      | none => .wait (s.l1Ask cid r.pl op false !r.hw)

/-- A line of a SW page that an acquire reads: what the core has written goes home first, and the line is filled anew (R106,
R262). -/
def State.getFresh (s : State) (cid op : Nat) (r : LReq) : Got :=
  let l := s.l1 cid r.pl
  if !l.untracked || r.l2 || l.asker == some op then s.getShared cid op r
  else if l.stale then .wait s
  else if l.dirty = 0 then (s.setL1 cid r.pl Line.reset).getShared cid op r
  else if s.writable cid r.pl then ((s.merge r.pl l).setL1 cid r.pl Line.reset).getShared cid op r
  else .wait (s.askHome cid r.pl 4)

/-- A line to hold exclusively (R128, R134). An atomic or lease that has not asked for the line waits behind a
forward on its way (R132), and behind the access for which a line to be returned came (R140). -/
def State.getExclusive (s : State) (cid op : Nat) (r : LReq) (fresh : Bool) : Got :=
  let l := s.l1 cid r.pl
  if l.moving then .wait s
  else if r.l2 then s.getAtHome cid r.pl 4 r.mig
  else if l.exclusive then
    if l.asker != some op && ((fresh && s.forwardPending cid r.pl && !s.leased cid r.pl) || (l.ret && l.asker.isSome)) then .wait s else .ready s
  else if l.stale then .wait s
  else match (if l.st == .I then s.l1Room cid else some s) with
    | none => .wait s
    | some s => .wait (s.l1Ask cid r.pl op true !r.hw)

/-- A line that another node has written goes home with its bytes before a node writes them again, so that each write has its place in
the undo record (R359; log 17). -/
def Got.written (g : Got) (cid who : Nat) (r : LReq) : Got :=
  match g with
  | .wait s => .wait s
  | .ready s =>
    let l := s.l1 cid r.pl
    if !l.otherDirty r.mask who then .ready s
    else if l.exclusive then (if s.mergeLate cid r.pl then .wait s else .ready (s.writeBackOwned cid r.pl))
    else if s.writable cid r.pl then .ready ((s.merge r.pl l).setL1 cid r.pl l.cleaned)
    else .wait (s.askHome cid r.pl 4)

/-- A line to store to: on a SW page the L1 takes the bytes with its mask, else exclusively (R105, R261). -/
def State.getStore (s : State) (cid op who : Nat) (r : LReq) : Got :=
  let l := s.l1 cid r.pl
  (if r.hw || r.l2 then s.getExclusive cid op r false
   else if l.moving then .wait s
   else if l.exclusive || l.untracked then .ready s
   else match s.l1Room cid with
    | some s => .ready (s.setL1 cid r.pl { Line.reset with st := .S, sw := true })
    | none => .wait s).written cid who r

/-- A line whose store is carried to L2 at once (R106): owned, or one whose home takes its bytes now. -/
def State.getCarried (s : State) (cid op who : Nat) (r : LReq) : Got :=
  match s.getStore cid op who r with
  | .ready s' =>
    if r.hw || r.l2 || (s'.l1 cid r.pl).exclusive || s'.writable cid r.pl then .ready s' else .wait (s'.askHome cid r.pl 4)
  | g => g

/-- Carry an access on over its lines, in their order: what a line serves is done for the lanes that address it; with `inOrder` no
line is passed over that is not there. Answers whether every lane is done. -/
def goLines (inOrder : Bool) (mine : LReq → Mask) (get : State → LReq → Got) (act : LReq → Mask → State → Part → State × Part) :
    List LReq → State → Part → State × Part × Bool
  | [], s, p => (s, p, true)
  | r :: rest, s, p =>
    let m := mine r &&& ~~~p.done
    if m = 0 then goLines inOrder mine get act rest s p
    else match get s r with
      | .ready s =>
        let (s, p) := act r m s p
        goLines inOrder mine get act rest s { p with done := p.done ||| m }
      | .wait s =>
        if inOrder then (s, p, false)
        else
          let (s, p, _) := goLines inOrder mine get act rest s p
          (s, p, false)

/-- The lanes of an access whose bytes lie in a line. -/
def State.lanesIn (s : State) (c : Ctx) (va : Nat → Nat) (r : LReq) : Mask :=
  maskOf fun l => hasLane c.lanes l && (match s.pa? c.x.space (va l) with
    | some pa => lineOf pa == r.pl
    | none => false)

/-- An access of the participating lanes of `w` bytes, carried on as far as its lines allow; where all is done, what follows. An
earlier access of the same lanes comes first (log 12). -/
def goAccess (c : Ctx) (w : Nat) (va : Nat → Nat) (inOrder : Bool) (get : State → LReq → Got)
    (act : LReq → Mask → State → Part → State × Part) (p : Part) (s : State) (k : State → Part → Done) : Done :=
  if s.behind c.op c.x.uid c.act then .later s p
  else
    let rs := s.lineReqs c.x.space w ((lanesOf c.lanes).map va)
    let (s, p, all) := goLines inOrder (s.lanesIn c va) get act (if inOrder then byVirtual rs else rs) s p
    if all then k s p else .later s p

/-! ## Reading and writing lanes -/

/-- The data and poison that the core reads of a line: its L1's, or the home's (R105, R138). -/
def State.lineView (s : State) (cid pl : Nat) : LineData × BitVec 4 :=
  let l := s.l1 cid pl
  if l.readable then (l.data, l.pois) else (s.homeData pl, s.homePois pl)

/-- The bytes at a virtual address, as a number, with the poison of their sectors. -/
def State.viewAt (s : State) (cid space va w : Nat) : Nat × Bool :=
  match s.pa? space va with
  | some pa =>
    let (d, p) := s.lineView cid (lineOf pa)
    let o := pa % 128
    ((d.toNat / 2 ^ (8 * o)) % 2 ^ (8 * w), (span (o / 32) ((o + w - 1) / 32)).any fun q => p.getLsbD q)
  | none => (0, false)

/-- Write bytes at a virtual address: into the L1's line, or at the home where the line is served there (R105, R138). -/
def State.storeAt (s : State) (cid space who va w x : Nat) : State :=
  match s.pa? space va with
  | some pa =>
    let l := s.l1 cid (lineOf pa)
    if l.readable then s.l1Write cid (lineOf pa) (pa % 128) (leBytes w x) who
    else s.pokeBy who pa (leBytes w x)
  | none => s
/-- The writes of an access to a line have been made: at the home they are one version event (R118). -/
def State.storesDone (s : State) (cid pl : Nat) : State := if (s.l1 cid pl).readable then s else s.homeWritten pl

/-- The physical address of the first poisoned byte that a core reads of a range, or of the range (R351). -/
def State.poisonPa (s : State) (cid space va w : Nat) : Nat :=
  let at' (i : Nat) : Nat := (s.pa? space (va + i)).getD 0
  match (List.range w).find? fun i => (s.lineView cid (lineOf (at' i))).2.getLsbD (at' i % 128 / 32) with
  | some i => at' i
  | none => at' 0
/-- An access has consumed poison at a virtual address: the entry is marked, and POISON raised (R260, R341, R351, R354). -/
def State.consumed (s : State) (c : Ctx) (va w : Nat) : Done :=
  .failed (s.markPois c.x.space va) { code := codePOISON, addr := s.poisonPa c.x.cid c.x.space va w }

/-- Extend a value read to register words (R261). -/
def extendWord (w : Width) (x i : Nat) : Word :=
  match w with
  | .s8 => BitVec.ofInt 32 (signExt 8 x)
  | .s16 => BitVec.ofInt 32 (signExt 16 x)
  | _ => BitVec.ofNat 32 (x / 2 ^ (32 * i))

/-- Write the registers of a load's destination, class V (R261). -/
def State.putWide (s : State) (c : Ctx) (w : Width) (d : Reg) (val : Nat → Nat) : State :=
  (List.range w.regs).foldl (fun s i =>
    if i % 2 = 1 then s.writeHi c 0 (d.dst c.x.winBase i) c.lanes fun l => extendWord w (val l) i
    else s.write c 0 (d.dst c.x.winBase i) c.lanes fun l => extendWord w (val l) i) s

/-- The data of a store in a lane, low register first (R261). -/
def Ctx.dataAt (c : Ctx) (w : Width) (d : Reg) (l : Nat) : Nat :=
  ((List.range w.regs).foldr (fun i n => (c.x.getAt d i l).toNat + 2 ^ 32 * n) 0) % 2 ^ (8 * w.bytes)

/-! ## Watches, releases, acquires -/

/-- A release waits for the watches of its lanes; a struck one raises WATCHUNCHK (R125). -/
def Ctx.watches (c : Ctx) (m : Mask) : Option Done :=
  if c.x.loupe.any (fun w => !w.struck && w.mask &&& m != 0) then some .hold
  else
    let hit := c.x.loupe.foldl (fun a w => if w.struck then a ||| (w.mask &&& m) else a) (0 : Mask)
    if hit != 0 then some (.fault { code := codeWATCHUNCHK, info := hit.toNat }) else none

/-- Has every earlier remote write and atomic of these lanes of a strand or context been acknowledged (R106, .dom)? -/
def State.remoteDone (s : State) (uid : Nat) (m : Mask) : Bool :=
  let mine (o : Owner) : Bool := match o with
    | .lanes _ w k _ _ => w == uid && k &&& m != 0
    | _ => false
  !(s.fab.src.any fun e => e.retry.any fun r => mine r.owner && r.pkt.hdr.opcode != 2)
  && !(s.fab.std.any fun a => mine a.owner && a.op != 2)

/-- The release half before an operation: the watches, then the release actions, once for the instruction (R106, R125). A context has
no L1. -/
def relBefore (c : Ctx) (rel : Option Scope) (m : Mask) (p : Part) (s : State) (k : State → Part → Done) : Done :=
  match rel with
  | none => k s p
  | some sc =>
    if p.rel then k s p
    else match c.watches m with
      | some r => r
      | none =>
        if !scopeWide sc then k s { p with rel := true }
        else if !c.x.seq && !(s.releaseBlocked c.x.cid).isEmpty then .later (s.releaseAsk c.x.cid) p
        else if sc == .dom && !s.remoteDone c.x.uid m then .later s p
        else k (if c.x.seq then s else s.releaseLines c.x.cid) { p with rel := true }
/-- A line that a release has written is carried to L2 at cluster scope or wider (R106). -/
def State.carry (s : State) (c : Ctx) (sc : Scope) (pl : Nat) : State := if scopeWide sc then s.writeBackLine c.x.cid pl else s
/-- The acquire actions at a scope before what follows, once for the instruction (R106). -/
def acqBefore (c : Ctx) (sc : Scope) (p : Part) (s : State) (k : State → Part → Done) : Done :=
  if p.acq || !scopeWide sc || c.x.seq then k s { p with acq := true }
  else if s.behind c.op c.x.uid c.act then .later s p
  else match s.acquireBlocked c.x.cid with
    | [] => k (s.acquire c.x.cid) { p with acq := true }
    | ls => .later (ls.foldl (fun s pl => s.askHome c.x.cid pl 4) s) p
/-- The acquire actions at a scope after an instruction's effect, before the later accesses of its lanes (R106). -/
def State.acquireAt (s : State) (c : Ctx) (sc : Scope) : State :=
  if !scopeWide sc || c.x.seq then s
  else if (s.acquireBlocked c.x.cid).isEmpty then s.acquire c.x.cid
  else s.addAcquire c.t c.e c.x c.act sc c.pc

/-- A release's record for the scope check, on a line it writes (R117). -/
def State.noteRel (s : State) (c : Ctx) (sc : Scope) (pl : Nat) : State :=
  let r := some (c.x.rel (scopeNo sc) s.cycle)
  if (s.l1 c.x.cid pl).readable then s.updL1 c.x.cid pl fun l => { l with rel := r } else s.updHome pl fun h => { h with rel := r }

/-- The record a line carries for the scope check (R117). -/
def State.relOf (s : State) (cid pl : Nat) : Option Rel :=
  let l := s.l1 cid pl
  if l.readable then l.rel else (s.home pl).rel

/-- The scope check of the lanes' acquiring reads of a line: each read that meets a release which it does not include, with its address
and that release's scope (R117). -/
def State.mixOf (s : State) (c : Ctx) (sc : Scope) (va : Nat → Nat) (pl : Nat) (m : Mask) : List (Nat × Nat) :=
  match s.scopeMix c.x sc (s.relOf c.x.cid pl) with
  | some r => (lanesOf m).map fun l => (va l, r)
  | none => []

/-- What follows acquiring reads under the scope check: a report of each, or with the trap the fault (R117). -/
def State.checkMix (s : State) (c : Ctx) (sc : Scope) (p : Part) (k : State → Done) : Done :=
  match p.mix with
  | [] => k s
  | (va, r) :: _ =>
    if s.trapsMix c.x.launch then .failed s { code := codeSCOPEMIX, addr := va, info := r, aux0 := scopeNo sc }
    else k (p.mix.foldl (fun s m => s.reportMix c.t c.pc m.1 m.2 (scopeNo sc)) s)

end Sys2Proof.Machine
end

