-- ==== Sys2Proof/Machine/FloatCore.lean ====
section
/-!
DEFINITION. Floating-point values: the formats of R57 to R63, exact arithmetic on dyadic numbers, the one rounding of a result
(R59, R64), flush-to-zero (R60), and the operand cases of R241, R242, R244 to R246.
-/
namespace Sys2Proof.Machine

/-! ## Formats and values -/

/-- A floating-point format: exponent and fraction bits, bias, whether it has infinities (E4M3 has none), canonical NaN (R57,
R58, R62, R63). -/
structure FFmt where
  eb : Nat
  mb : Nat
  bias : Nat
  inf : Bool
  nan : Nat
  deriving DecidableEq, Repr

/-- FP32. -/
def fp32 : FFmt := { eb := 8, mb := 23, bias := 127, inf := true, nan := 0x7FC00000 }
/-- FP16. -/
def fp16 : FFmt := { eb := 5, mb := 10, bias := 15, inf := true, nan := 0x7E00 }
/-- BF16. -/
def bf16 : FFmt := { eb := 8, mb := 7, bias := 127, inf := true, nan := 0x7FC0 }
/-- FP8 E4M3. -/
def e4m3 : FFmt := { eb := 4, mb := 3, bias := 7, inf := false, nan := 0x7F }
/-- FP8 E5M2. -/
def e5m2 : FFmt := { eb := 5, mb := 2, bias := 15, inf := true, nan := 0x7E }

/-- A value: NaN, an infinity, or (−1)^neg × m × 2^e. -/
inductive FVal where
  | nan
  | inf (neg : Bool)
  | fin (neg : Bool) (m : Nat) (e : Int)
  deriving DecidableEq, Repr

/-- The place of the sign bit. -/
def FFmt.signBit (f : FFmt) : Nat := 2 ^ (f.eb + f.mb)
/-- The sign of an encoding. -/
def FFmt.neg (f : FFmt) (x : Nat) : Bool := x / f.signBit % 2 == 1
/-- The magnitude bits of an encoding. -/
def FFmt.mag (f : FFmt) (x : Nat) : Nat := x % f.signBit
/-- The encoding of infinity, without its sign. -/
def FFmt.infMag (f : FFmt) : Nat := (2 ^ f.eb - 1) * 2 ^ f.mb
/-- The encoding of the largest finite value, without its sign: E4M3 ends below its NaN (R57, R62). -/
def FFmt.maxMag (f : FFmt) : Nat := if f.inf then f.infMag - 1 else f.signBit - 2
/-- Is an encoding a NaN? -/
def FFmt.isNan (f : FFmt) (x : Nat) : Bool := if f.inf then f.infMag < f.mag x else f.mag x == f.signBit - 1
/-- An encoding with a sign. -/
def FFmt.signed (f : FFmt) (neg : Bool) (mag : Nat) : Nat := if neg then f.signBit + mag else mag
/-- A subnormal encoding. -/
def FFmt.subnormal (f : FFmt) (x : Nat) : Bool := 0 < f.mag x && f.mag x < 2 ^ f.mb

/-- The value of an encoding (R57, R62, R63). -/
def FFmt.value (f : FFmt) (x : Nat) : FVal :=
  if f.isNan x then .nan
  else if f.inf && f.mag x == f.infMag then .inf (f.neg x)
  else
    let e := f.mag x / 2 ^ f.mb
    let m := f.mag x % 2 ^ f.mb
    if e = 0 then .fin (f.neg x) m (1 - (f.bias : Int) - f.mb)
    else .fin (f.neg x) (2 ^ f.mb + m) ((e : Int) - f.bias - f.mb)

/-! ## Rounding (R59) -/

/-- m / 2^n rounded to an integer by a mode, for a value of the sign. -/
def roundShift (mode : RMode) (neg : Bool) (m n : Nat) : Nat :=
  let q := m / 2 ^ n
  let r := m % 2 ^ n
  let up := match mode with
    | .rne => 2 ^ n < 2 * r || (2 ^ n == 2 * r && q % 2 == 1)
    | .rz => false
    | .rdn => neg && r != 0
    | .rup => !neg && r != 0
  if up then q + 1 else q

/-- The magnitude of a result that overflows, by mode (R64, R241). -/
def FFmt.overflow (f : FFmt) (mode : RMode) (sat neg : Bool) : Nat :=
  let inf := match mode with
    | .rne => true
    | .rz => false
    | .rdn => neg
    | .rup => !neg
  if sat || !inf then f.signed neg f.maxMag else if f.inf then f.signed neg f.infMag else f.nan

/-- A nonzero number (−1)^neg × m × 2^e rounded once to the format. Overflow is decided after rounding to the format's precision
with an unbounded exponent; a right shift beyond the number's own bits rounds as one by two more than they are. -/
def FFmt.roundFin (f : FFmt) (mode : RMode) (sat neg : Bool) (m : Nat) (e : Int) : Nat :=
  let top := e + Nat.log2 m
  if (2 ^ f.eb : Int) ≤ top + f.bias then f.overflow mode sat neg
  else
    let q := max (top - f.mb) (1 - (f.bias : Int) - f.mb)
    let n := if q ≤ e then m * 2 ^ (e - q).toNat else roundShift mode neg m (min (q - e).toNat (Nat.log2 m + 3))
    let code := (q + f.mb + f.bias - 1).toNat * 2 ^ f.mb + n
    if f.maxMag < code then f.overflow mode sat neg else f.signed neg code

/-- A value rounded to the format (R58, R59, R64). -/
def FFmt.round (f : FFmt) (mode : RMode) (sat : Bool) (v : FVal) : Nat :=
  match v with
  | .nan => f.nan
  | .inf neg => if sat then f.signed neg f.maxMag else if f.inf then f.signed neg f.infMag else f.nan
  | .fin neg m e => if m = 0 then f.signed neg 0 else f.roundFin mode sat neg m e

/-- Flush-to-zero of an encoding (R60). -/
def FFmt.flush (f : FFmt) (ftz : Bool) (x : Nat) : Nat := if ftz && f.subnormal x then f.signed (f.neg x) 0 else x

/-! ## Exact arithmetic (R240, R241) -/

/-- The value with the other sign. -/
def FVal.negate : FVal → FVal
  | .nan => .nan
  | .inf n => .inf (!n)
  | .fin n m e => .fin (!n) m e

/-- The integer of a number at a lower exponent. -/
def scaled (neg : Bool) (m : Nat) (e low : Int) : Int :=
  let x : Int := ((m * 2 ^ (e - low).toNat : Nat) : Int)
  if neg then -x else x

/-- The exact sum; a sum of zero is −0 only from two negative zeros or in rdn (R241). -/
def FVal.add (mode : RMode) : FVal → FVal → FVal
  | .nan, _ | _, .nan => .nan
  | .inf a, .inf b => if a == b then .inf a else .nan
  | .inf a, _ => .inf a
  | _, .inf b => .inf b
  | .fin a m e, .fin b n h =>
    if m = 0 ∧ n = 0 then .fin (if a == b then a else mode == .rdn) 0 0
    else if m = 0 then .fin b n h
    else if n = 0 then .fin a m e
    else
      let low := min e h
      let x := scaled a m e low + scaled b n h low
      if x = 0 then .fin (mode == .rdn) 0 0 else .fin (x < 0) x.natAbs low

/-- The exact product. -/
def FVal.mul : FVal → FVal → FVal
  | .nan, _ | _, .nan => .nan
  | .inf a, .inf b => .inf (a != b)
  | .inf a, .fin b n _ => if n = 0 then .nan else .inf (a != b)
  | .fin a m _, .inf b => if m = 0 then .nan else .inf (a != b)
  | .fin a m e, .fin b n h => .fin (a != b) (m * n) (e + h)

/-- The exact a × b + d. -/
def FVal.fma (mode : RMode) (a b d : FVal) : FVal := (a.mul b).add mode d

/-- A number with its last bit set where something was left out, so that one rounding of it is the rounding of the exact value. -/
def sticky (q r : Nat) : Nat := 2 * q + (if r = 0 then 0 else 1)

/-- The quotient to enough bits for one rounding. -/
def FVal.div : FVal → FVal → FVal
  | .nan, _ | _, .nan => .nan
  | .inf _, .inf _ => .nan
  | .inf a, .fin b _ _ => .inf (a != b)
  | .fin a _ _, .inf b => .fin (a != b) 0 0
  | .fin a m e, .fin b n h =>
    if n = 0 then (if m = 0 then .nan else .inf (a != b))
    else if m = 0 then .fin (a != b) 0 0
    else .fin (a != b) (sticky (m * 2 ^ 60 / n) (m * 2 ^ 60 % n)) (e - h - 61)

/-- The integer square root, found bit by bit. -/
def isqrtFrom (n : Nat) : Nat → Nat → Nat
  | 0, r => r
  | i + 1, r => isqrtFrom n i (if (r + 2 ^ i) * (r + 2 ^ i) ≤ n then r + 2 ^ i else r)
/-- The integer square root of a number below 2^128. -/
def isqrt (n : Nat) : Nat := isqrtFrom n 64 0

/-- The square root to enough bits for one rounding. -/
def FVal.sqrt : FVal → FVal
  | .nan => .nan
  | .inf n => if n then .nan else .inf false
  | .fin n m e =>
    if m = 0 then .fin n 0 0
    else if n then .nan
    else
      let (m, e) := if e % 2 = 0 then (m, e) else (2 * m, e - 1)
      let x := m * 2 ^ 60
      .fin false (sticky (isqrt x) (x - isqrt x * isqrt x)) (e / 2 - 31)

/-- The reciprocal square root to enough bits for one rounding (R247). -/
def FVal.rsqrt : FVal → FVal
  | .nan => .nan
  | .inf n => if n then .nan else .fin false 0 0
  | .fin n m e =>
    if m = 0 then .inf n
    else if n then .nan
    else
      let (m, e) := if e % 2 = 0 then (m, e) else (2 * m, e - 1)
      let y := isqrt (2 ^ 120 / m)
      .fin false (sticky y (2 ^ 120 - y * y * m)) (0 - e / 2 - 61)

/-- a × 2^n. -/
def FVal.scale (n : Int) : FVal → FVal
  | .fin s m e => .fin s m (e + n)
  | v => v

/-- An exact integer by a mode, keeping the sign of a zero (R245). -/
def FVal.toIntegral (mode : RMode) : FVal → FVal
  | .fin n m e => if 0 ≤ e then .fin n m e else .fin n (roundShift mode n m (0 - e).toNat) 0
  | v => v

/-- The integer nearest by a mode, clamped to a range (R66). -/
def FVal.toInt (mode : RMode) (lo hi : Int) : FVal → Int
  | .nan => 0
  | .inf n => if n then lo else hi
  | .fin n m e =>
    let x : Nat := if 0 ≤ e then m * 2 ^ (min e.toNat 200) else roundShift mode n m (0 - e).toNat
    let y : Int := if n then -(x : Int) else x
    if y < lo then lo else if hi < y then hi else y

/-- An integer as a value. -/
def FVal.ofInt (x : Int) : FVal := .fin (x < 0) x.natAbs 0

/-! ## Operations on encodings -/

/-- An operation on values with the control word: operands flushed, one rounding, the result flushed (R60, R241). -/
def FFmt.op (f : FFmt) (mode : RMode) (ftz : Bool) (g : FVal → FVal → FVal) (a b : Nat) : Nat :=
  f.flush ftz (f.round mode false (g (f.value (f.flush ftz a)) (f.value (f.flush ftz b))))

/-- a × b + d under the control word, rounded once (R59). -/
def FFmt.fma (f : FFmt) (mode : RMode) (ftz : Bool) (a b d : Nat) : Nat :=
  f.flush ftz (f.round mode false
    (FVal.fma mode (f.value (f.flush ftz a)) (f.value (f.flush ftz b)) (f.value (f.flush ftz d))))

/-- The place of an encoding in the order that puts −0 below +0 (R242). -/
def FFmt.rank (f : FFmt) (x : Nat) : Int := if f.neg x then -(f.mag x : Int) - 1 else f.mag x

/-- The lesser or the greater of two encodings, after any flush (R242). -/
def FFmt.pick (f : FFmt) (ftz greater : Bool) (a b : Nat) : Nat :=
  let a := f.flush ftz a
  let b := f.flush ftz b
  if f.isNan a && f.isNan b then f.nan
  else if f.isNan a then b
  else if f.isNan b then a
  else if greater then (if f.rank a < f.rank b then b else a) else (if f.rank b < f.rank a then b else a)

/-- A condition of `fcmp` on two FP32 encodings (R244). -/
def fcmpHolds (cc : FCmp) (ftz : Bool) (a b : Nat) : Bool :=
  let a := fp32.flush ftz a
  let b := fp32.flush ftz b
  let u := fp32.isNan a || fp32.isNan b
  let key (x : Nat) : Int := if fp32.neg x then -(fp32.mag x : Int) else fp32.mag x
  match cc with
  | .eq => !u && key a == key b
  | .ne => !u && key a != key b
  | .lt => !u && key a < key b
  | .le => !u && key a ≤ key b
  | .gt => !u && key b < key a
  | .ge => !u && key b ≤ key a
  | .ord => !u
  | .ueq => u || key a == key b
  | .une => u || key a != key b
  | .ult => u || key a < key b
  | .ule => u || key a ≤ key b
  | .ugt => u || key b < key a
  | .uge => u || key b ≤ key a
  | .uno => u

/-- The class bit of an FP32 encoding (R246). -/
def classBit (ftz : Bool) (x : Nat) : Nat :=
  let x := fp32.flush ftz x
  if fp32.isNan x then 8
  else
    let k := if fp32.mag x = 0 then 0 else if fp32.subnormal x then 1 else if fp32.mag x = fp32.infMag then 3 else 2
    if fp32.neg x then 3 - k else 4 + k

/-! ## Atomic operations (R268, R269) -/

/-- The new word of an atomic: `old`, the value operand v and, for cas, the compare value. The floating-point sum rounds to nearest
even and never flushes (R269). -/
def atomicWord (op : AOp) (old v cmp : Word) : Word :=
  match op with
  | .addS | .addN => old + v
  | .minS => if v.toInt < old.toInt then v else old
  | .minN => if v.toNat < old.toNat then v else old
  | .maxS => if old.toInt < v.toInt then v else old
  | .maxN => if old.toNat < v.toNat then v else old
  | .and => old &&& v
  | .or => old ||| v
  | .xor => old ^^^ v
  | .xchg => v
  | .cas => if old == cmp then v else old
  | .fadd => BitVec.ofNat 32 (fp32.op .rne false (FVal.add .rne) old.toNat v.toNat)

end Sys2Proof.Machine
end

