-- ==== Sys2Proof/Machine/Atomics.lean ====
section
/-!
DEFINITION. Global atomics and Clasp leases (R128, R130 to R132, R267 to R269, R272).
-/
namespace Sys2Proof.Machine

/-! ## Atomics -/

/-- The lanes of a line each perform one RMW, in ascending lane order (R128, R268): the old words; a lane whose word is poisoned writes
nothing (R260). -/
def rmwLanes (c : Ctx) (op : AOp) (va : Nat → Nat) (v cmp : Nat → Word) (rel acq : Option Scope) (r : LReq) (m : Mask) (s : State)
    (p : Part) : State × Part :=
  let p := { p with mix := p.mix ++ (match acq with
    | some sc => s.mixOf c sc va r.pl m
    | none => []) }
  let (s, p) := (lanesOf m).foldl (fun ((s : State), (p : Part)) l =>
    let (x, bad) := s.viewAt c.x.cid c.x.space (va l) 4
    if bad then (s, { p with bad := if p.bad.isNone then some (va l) else p.bad })
    else
      let old : Word := BitVec.ofNat 32 x
      (s.storeAt c.x.cid c.x.space (s.whoOf c.x.launch) (va l) 4 (atomicWord op old (v l) (cmp l)).toNat,
       { p with vals := SMap.put p.vals l x })) (s, p)
  let s := s.storesDone c.x.cid r.pl
  let s := match rel with
    | some sc => s.noteRel c sc r.pl
    | none => s
  (s.served c.x.cid r.pl c.op true, p)

/-- The scope of an ordering's release half. -/
def relScope (ord : Option (AOrd × Scope)) : Option Scope :=
  match ord with
  | some (.rel, sc) | some (.ar, sc) => some sc
  | _ => none
/-- The scope of an ordering's acquire half. -/
def acqScope (ord : Option (AOrd × Scope)) : Option Scope :=
  match ord with
  | some (.acq, sc) | some (.ar, sc) => some sc
  | _ => none
/-- A line of an atomic: held exclusively, or at its home where its page is in transition (R128, R138). -/
def State.getAtomic (s : State) (cid op who : Nat) (r : LReq) : Got := (s.getExclusive cid op r true).written cid who r

/-- A global atomic (R268): checks, the release half, the lines in ascending address, each with its lanes in ascending order once it is
held exclusively, the acquire half. -/
def atomAll (op : AOp) (ord : Option (AOrd × Scope)) (d a v : Reg) (c : Ctx) (s : State) : Done :=
  if c.lanes = 0 then .fall s
  else
    let ea := c.ea a 0
    match s.gcheck c ea 4 4 .store with
    | some f => .fault f
    | none =>
      let va (l : Nat) : Nat := (ea l).toNat
      relBefore c (relScope ord) c.lanes c.part s fun s p =>
        goAccess c 4 va true (fun s r => s.getAtomic c.x.cid c.op (s.whoOf c.x.launch) r)
          (rmwLanes c op va (c.x.get v) (c.x.get d) (relScope ord) (acqScope ord)) p s
          fun s p => match p.bad with
            | some va => s.consumed c va 4
            | none =>
              let fin (s : State) : Done := .fall (s.put c 0 d fun l => BitVec.ofNat 32 (SMap.getD p.vals l 0))
              match acqScope ord with
              | some sc => s.checkMix c sc p fun s => fin (s.acquireAt c sc)
              | none => fin s

/-- `atom.add.s32` without ordering (R267, R268). -/
def execAtomAddS32 (pg : Guard) (d a b : Reg) (s : State) : Host.Outcome State Fault Refusal :=
  issue (.atomAddS32 pg d a b) s (atomAll .addS none d a b)
/-- `atom` in every other form (R267, R268). -/
def execAtom (op : AOp) (ord : Option (AOrd × Scope)) (pg : Guard) (d a v : Reg) (s : State) : Host.Outcome State Fault Refusal :=
  issue (.atom op ord pg d a v) s (atomAll op ord d a v)

/-! ## Leases -/

/-- The lease that a strand holds (R130). -/
def State.leaseOf (s : State) (t uid : Nat) : Option Lease := s.leases.find? fun l => l.t == t && l.uid == uid
/-- Leased lines of a core (R131). -/
def State.leaseCount (s : State) (cid : Nat) : Nat := (s.leases.filter fun l => l.cid == cid).length
/-- A strand's lease ends, if it holds one (R130). -/
def State.endOwnLease (s : State) (c : Ctx) : State :=
  match s.leaseOf c.t c.x.uid with
  | some l => s.endLease l
  | none => s

/-- `lease` (R130, R131, R272): its n cycles run from the grant of ownership. A line of a page in transition or migrating is leased when
the page has left that state, of which R138 and R346 say nothing (log 87, DESIGN CHOICE). -/
def execLease (pg : Guard) (d a : Reg) (s : State) : Host.Outcome State Fault Refusal :=
  issue (.lease pg d a) s fun c s =>
    if c.lanes = 0 then .fall s
    else
      let l := lowLane c.lanes
      let ea := c.ea a 0
      let n := min (c.x.get d l).toNat 4096
      match s.gcheck c ea 1 1 .store with
      | some f => .fault f
      | none =>
        if s.behind c.op c.x.uid c.act then .later s c.part
        else
          let s := s.endOwnLease c
          if n = 0 then .fall s
          else match s.lineReqs c.x.space 1 [(ea l).toNat] with
            | [] => .fall s
            | r :: _ =>
              if r.l2 || s.leased c.x.cid r.pl || 16 ≤ s.leaseCount c.x.cid then .later s c.part
              else match s.getExclusive c.x.cid c.op r true with
                | .wait s => .later s c.part
                | .ready s =>
                  let q : Lease := { t := c.t, uid := c.x.uid, cid := c.x.cid, gang := c.x.gang, group := c.x.group, line := r.pl,
                                     until' := s.cycle + n }
                  .fall (State.served { s with leases := s.leases ++ [q] } c.x.cid r.pl c.op true)

/-- `unlease` (R130, R272). -/
def execUnlease (pg : Guard) (s : State) : Host.Outcome State Fault Refusal :=
  issue (.unlease pg) s fun c s => if c.lanes = 0 then .fall s else .fall (s.endOwnLease c)

end Sys2Proof.Machine
end

