-- ==== Sys2Proof/Machine/Memory.lean ====
section
/-!
DEFINITION. Global loads and stores, acquire and release forms, watched and uniform loads, checks and prefetch (R120, R124, R261
to R263, R265, R266).
-/
namespace Sys2Proof.Machine

/-- The lanes of a line read it: their values, the first that is poisoned, and for an acquire the releases that they meet (R104, R117,
R260). -/
def readLanes (c : Ctx) (w : Nat) (va : Nat → Nat) (acq : Option Scope) (r : LReq) (m : Mask) (s : State) (p : Part) : State × Part :=
  let p := (lanesOf m).foldl (fun (p : Part) l =>
    let (x, bad) := s.viewAt c.x.cid c.x.space (va l) w
    { p with vals := SMap.put p.vals l x, bad := if bad && p.bad.isNone then some (va l) else p.bad }) p
  (s.served c.x.cid r.pl c.op false,
   { p with mix := p.mix ++ (match acq with
      | some sc => s.mixOf c sc va r.pl m
      | none => []) })
/-- What a load has read goes to its registers, unless it consumed poison (R260, R261). -/
def loaded (c : Ctx) (w : Width) (d : Reg) (s : State) (p : Part) : Done :=
  match p.bad with
  | some va => s.consumed c va w.bytes
  | none => .fall (s.putWide c w d fun l => SMap.getD p.vals l 0)

/-- A plain load of every participating lane (R260, R261). -/
def loadAll (w : Width) (d a : Reg) (off : BitVec 32) (c : Ctx) (s : State) : Done :=
  if c.lanes = 0 then .fall s
  else
    let ea := c.ea a off
    match s.gcheck c ea w.bytes w.bytes .load with
    | some f => .fault f
    | none =>
      let va (l : Nat) : Nat := (ea l).toNat
      goAccess c w.bytes va false (fun s r => s.getShared c.x.cid c.op r) (readLanes c w.bytes va none) c.part s (loaded c w d)

/-- The lanes of a line store to it, in ascending lane order (R104); a release's line is then carried to L2 (R106). -/
def storeLanes (c : Ctx) (w : Width) (d : Reg) (va : Nat → Nat) (rel : Option Scope) (r : LReq) (m : Mask) (s : State) (p : Part) :
    State × Part :=
  let s := (lanesOf m).foldl (fun s l => s.storeAt c.x.cid c.x.space (s.whoOf c.x.launch) (va l) w.bytes (c.dataAt w d l)) s
  let s := s.storesDone c.x.cid r.pl
  let s := match rel with
    | some sc => (s.noteRel c sc r.pl).carry c sc r.pl
    | none => s
  (s.served c.x.cid r.pl c.op true, p)

/-- A plain store of every participating lane (R260, R261). -/
def storeAll (w : Width) (d a : Reg) (off : BitVec 32) (c : Ctx) (s : State) : Done :=
  if c.lanes = 0 then .fall s
  else
    let ea := c.ea a off
    match s.gcheck c ea w.bytes w.bytes .store with
    | some f => .fault f
    | none =>
      let va (l : Nat) : Nat := (ea l).toNat
      goAccess c w.bytes va false (fun s r => s.getStore c.x.cid c.op (s.whoOf c.x.launch) r) (storeLanes c w d va none) c.part s
        fun s _ => .fall s

/-- `ld.b8` to `ld.b64` (R261). -/
def execLd (w : Width) (pg : Guard) (d a : Reg) (o : BitVec 7) (ext : Option (BitVec 32)) (s : State) :
    Host.Outcome State Fault Refusal :=
  issue (.ld w pg d a o ext) s (loadAll w d a (off7 w o ext))
/-- `st.b8` to `st.b64` (R261). -/
def execSt (w : Width) (pg : Guard) (d a : Reg) (o : BitVec 7) (ext : Option (BitVec 32)) (s : State) :
    Host.Outcome State Fault Refusal :=
  issue (.st w pg d a o ext) s (storeAll w d a (off7 w o ext))
/-- `ld.b128`, `ld.s8`, `ld.s16` (R261). -/
def execLdB128Signed (w : Width) (pg : Guard) (d a : Reg) (ext : Option (BitVec 32)) (s : State) :
    Host.Outcome State Fault Refusal :=
  issue (.ldB128Signed w pg d a ext) s (loadAll w d a (offX ext))
/-- `st.b128` (R261). -/
def execStB128 (pg : Guard) (d a : Reg) (ext : Option (BitVec 32)) (s : State) : Host.Outcome State Fault Refusal :=
  issue (.stB128 pg d a ext) s (storeAll .b128 d a (offX ext))

/-- `ld.acq` (R262): the acquire actions once, then the reads; at cluster scope or wider a SW page's are served by L2. -/
def execLdAcq (w : Width) (sc : Scope) (pg : Guard) (d a : Reg) (ext : Option (BitVec 32)) (s : State) :
    Host.Outcome State Fault Refusal :=
  issue (.ldAcq w sc pg d a ext) s fun c s =>
    if c.lanes = 0 then .fall s
    else
      let ea := c.ea a (offX ext)
      match s.gcheck c ea w.bytes w.bytes .load with
      | some f => .fault f
      | none =>
        let va (l : Nat) : Nat := (ea l).toNat
        acqBefore c sc c.part s fun s p =>
          goAccess c w.bytes va false
            (fun s r => if scopeWide sc then s.getFresh c.x.cid c.op r else s.getShared c.x.cid c.op r)
            (readLanes c w.bytes va (some sc)) p s
            fun s p => if p.bad.isSome then loaded c w d s p else s.checkMix c sc p fun s => loaded c w d s p

/-- `st.rel` (R262): the watches, the release actions, the writes, which a SW page's lines carry to L2 at cluster scope or wider
(R106). -/
def execStRel (w : Width) (sc : Scope) (pg : Guard) (d a : Reg) (ext : Option (BitVec 32)) (s : State) :
    Host.Outcome State Fault Refusal :=
  issue (.stRel w sc pg d a ext) s fun c s =>
    if c.lanes = 0 then .fall s
    else
      let ea := c.ea a (offX ext)
      match s.gcheck c ea w.bytes w.bytes .store with
      | some f => .fault f
      | none =>
        let va (l : Nat) : Nat := (ea l).toNat
        relBefore c (some sc) c.lanes c.part s fun s p =>
          goAccess c w.bytes va false
            (fun s r => if scopeWide sc then s.getCarried c.x.cid c.op (s.whoOf c.x.launch) r
              else s.getStore c.x.cid c.op (s.whoOf c.x.launch) r)
            (storeLanes c w d va (some sc)) p s fun s _ => .fall s

/-! ## Watched loads (R120) -/

/-- The entries of the strand's Loupe table: none of a strand that has ended. -/
def State.loupe (s : State) (t : Nat) : List Loupe :=
  match s.thread? t with
  | some x => x.loupe
  | none => []
/-- Does an entry cover the line as the L1 holds it (R120)? -/
def Loupe.covers (w : Loupe) (r : LReq) (l : Line) : Bool := w.line == r.vl && w.stamp == l.stamp
/-- Is a line present for a watched load: filled, and not by a fill that this access asked for? A line that only stores have put in the
L1 has no fill version and no fill stamp, of which R120 says nothing: the model fills it for this load (log 86, DESIGN CHOICE). -/
def Line.present (l : Line) (op : Nat) : Bool := l.readable && l.filled && l.asker != some op
/-- Entries of a strand's table (R121). -/
def loupeEntries : Nat := 32
/-- A line that a watched load fills is marked as its own, so that its lanes are fresh (R120). -/
def Got.mark (g : Got) (cid op : Nat) (r : LReq) : Got :=
  match g with
  | .ready s => .ready (s.updL1 cid r.pl fun l => if l.st == .I then l else { l with asker := some op })
  | g => g

/-- A line of a watched load: a present line is taken as it is, or with no entry free given up and filled again (R120). -/
def State.getWatched (s : State) (c : Ctx) (r : LReq) : Got :=
  let cid := c.x.cid
  let l := s.l1 cid r.pl
  if r.l2 || l.moving || l.stale || !l.present c.op then
    (s.getShared cid c.op { r with mask := if r.l2 then r.mask else allBytes }).mark cid c.op r
  else if (s.loupe c.t).any (fun w => w.covers r l) || (s.loupe c.t).length < loupeEntries then .ready s
  else if s.leased cid r.pl then .wait s
  else if l.exclusive then .wait (s.evictLine cid (r.pl, l))
  else if l.untracked && l.dirty != 0 && !s.writable cid r.pl then .wait (s.askHome cid r.pl 4)
  else ((s.giveBack cid r.pl).getShared cid c.op { r with mask := allBytes }).mark cid c.op r

/-- The lanes of a line of a watched load: those of a present line join its entry or make one, with a confirm request on its way; those
of a line filled for them do not (R120, R121). A line that is served at its home makes none. -/
def State.watchLine (s : State) (c : Ctx) (r : LReq) (m : Mask) : State :=
  let l := s.l1 c.x.cid r.pl
  if !l.present c.op then s
  else
    match s.thread? c.t with
    | none => s
    | some x =>
      if x.loupe.any (fun w => w.covers r l) then
        s.setThread c.t { x with loupe := x.loupe.map fun w => if w.covers r l then { w with mask := w.mask ||| m } else w }
      else if x.loupe.length < loupeEntries then
        let e : Loupe := { line := r.vl, pline := r.pl, fver := l.ver, stamp := l.stamp, mask := m, struck := false, serial := s.uid,
                           since := s.cycle }
        let q : WMsg := { serial := s.uid, core := c.x.cid, pline := r.pl, fver := l.ver, stamp := l.stamp, verdict := none }
        { s.setThread c.t { x with loupe := x.loupe ++ [e] } with uid := s.uid + 1, watches := s.watches ++ [q] }
      else s

/-- `ldw` (R120, R265). -/
def execLdw (w : Width) (pg : Guard) (d a : Reg) (ext : Option (BitVec 32)) (s : State) : Host.Outcome State Fault Refusal :=
  issue (.ldw w pg d a ext) s fun c s =>
    if c.lanes = 0 then .fall s
    else
      let ea := c.ea a (offX ext)
      match s.gcheck c ea w.bytes w.bytes .load with
      | some f => .fault f
      | none =>
        let va (l : Nat) : Nat := (ea l).toNat
        goAccess c w.bytes va true (fun s r => s.getWatched c r)
          (fun r m s p => readLanes c w.bytes va none r m (s.watchLine c r m) p) c.part s (loaded c w d)

/-- The struck entries lose the lanes that a check has reported, and are freed with their last (R124). -/
def consumeStruck (ws : List Loupe) (m : Mask) : List Loupe :=
  (ws.map fun w => if w.struck then { w with mask := w.mask &&& ~~~m } else w).filter fun w => w.mask != 0

/-- `wchk` (R124): waits for the lanes' watches, reports the struck ones and consumes them. -/
def execWchk (pg : Guard) (pd : Fin 8) (s : State) : Host.Outcome State Fault Refusal :=
  issue (.wchk pg pd) s fun c s =>
    if c.x.loupe.any (fun w => !w.struck && w.mask &&& c.lanes != 0) then .hold
    else
      let s := s.putP c 0 pd fun l => c.x.loupe.any fun w => w.struck && hasLane w.mask l
      .fall (s.updThread c.t fun x => { x with loupe := consumeStruck x.loupe c.lanes })

/-! ## Uniform loads and prefetch -/

/-- Bytes read by a context at the home slices, which serve it in place of an L1 (R263, R277): the value and whether it is poisoned,
or a state in which it waits. -/
def State.seqRead (s : State) (c : Ctx) (va w : Nat) : Sum State (State × Nat × Bool) :=
  match s.pa? c.x.space va with
  | none => .inl s
  | some pa =>
    let agent := gangAgent c.x.gang
    if s.frozenRead c.x.space va then .inl (s.unreserve agent (lineOf pa))
    else match s.homeShare agent (lineOf pa) with
    | (s, true) => .inr (s.unreserve agent (lineOf pa), Memory.le s.mem pa w, s.poisoned pa w)
    | (s, false) => .inl s

/-- `ldk` (R263): one value into a k register or pair; a strand's as a plain load of its lowest participating lane, a context's
served by L2. -/
def execLdk (w : Width) (pg : Guard) (d a : Reg) (ext : Option (BitVec 32)) (s : State) : Host.Outcome State Fault Refusal :=
  issue (.ldk w pg d a ext) s fun c s =>
    if !c.x.seq then loadAll w d a (offX ext) { c with lanes := c.lanes &&& (1 <<< lowLane c.lanes) } s
    else if c.lanes = 0 then .fall s
    else
      let ea := c.ea a (offX ext)
      match s.gcheck c ea w.bytes w.bytes .load with
      | some f => .fault f
      | none =>
        match s.seqRead c (ea 0).toNat w.bytes with
        | .inl s => .later s c.part
        | .inr (s, x, p) =>
          if p then .failed (s.markPois c.x.space (ea 0).toNat)
            { code := codePOISON, addr := (s.pa? c.x.space (ea 0).toNat).getD 0 }
          else .fall (s.putWide c w d fun _ => x)

/-- `pf` (R266): the home slices fill the lines of the addresses that would not fault, which changes timing only. -/
def execPf (pg : Guard) (a : Reg) (ext : Option (BitVec 32)) (s : State) : Host.Outcome State Fault Refusal :=
  issue (.pf pg a ext) s fun c s =>
    let ea := c.ea a (offX ext)
    let ok := (lanesOf c.lanes).filter fun l => (s.gcheck { c with lanes := 1 <<< l } ea 1 1 .load).isNone
    .fall ((sortAsc (ok.filterMap fun l => (s.pa? c.x.space (ea l).toNat).map lineOf)).foldl (fun s line => s.touch line) s)

end Sys2Proof.Machine
end

