-- ==== Sys2Proof/Machine/Scratch.lean ====
section
/-!
DEFINITION. The scratchpad and the cluster window: addresses (R48, R49), loads and stores (R50 to R52, R264), atomics and bound
broadcasts (R55, R56, R270), deques (R53, R54, R271). Banks and passes change no result (log 15).
-/
namespace Sys2Proof.Machine

/-! ## Addresses -/

/-- The core of the package and the byte on it that a scratchpad address names for a group, where it is valid (R48). -/
def Gang.scratchAt (g : Gang) (grp addr : Nat) : Option (Nat × Nat) :=
  let on (x : Grp) (a : Nat) : Option (Nat × Nat) :=
    if a < g.size then some ((g.die * 8 + g.cluster) * 8 + x.core, x.scratch + a) else none
  if addr < 0xC0000 then g.groups[grp]?.bind fun x => on x addr
  else if 0x1000000 ≤ addr ∧ addr < 0x1800000 then (g.groupOn ((addr - 0x1000000) / 2 ^ 20)).bind fun x => on x (addr % 2 ^ 20)
  else none
/-- A strand's scratchpad address. -/
def State.scratchAt (s : State) (x : Thread) (addr : Nat) : Option (Nat × Nat) :=
  (s.gang? x.gang).bind fun g => g.scratchAt x.group addr
/-- Are all bytes of an access valid? Each valid range begins at a multiple of 2^20 and is shorter, so bytes that are valid at both ends of
one such piece are valid between them (R48). -/
def State.scratchOk (s : State) (x : Thread) (addr w : Nat) : Bool :=
  w == 0
  || (addr / 2 ^ 20 == (addr + w - 1) / 2 ^ 20 && (s.scratchAt x addr).isSome && (s.scratchAt x (addr + w - 1)).isSome)

/-- The checks of R50 on the participating lanes. -/
def State.scheck (s : State) (c : Ctx) (addr : Nat → Nat) (w al : Nat) : Option FInfo :=
  let bad := maskOf fun l => hasLane c.lanes l && addr l % al != 0
  if bad != 0 then some { code := codeALIGN, addr := addr (lowLane bad), info := bad.toNat }
  else ((lanesOf c.lanes).find? fun l => !s.scratchOk c.x (addr l) w).map fun l => { code := codeSCRATCHRANGE, addr := addr l }

/-! ## Bytes -/

/-- A number in a core's scratchpad, of bytes that lie together. -/
def State.scratchGet (s : State) (p : Nat × Nat) (n : Nat) : Nat :=
  leNat ((List.range n).map fun i => SMap.getD (s.core p.1).scratch (p.2 + i) 0)
/-- Write bytes into a core's scratchpad; whole 64-bit words lose their poison (R353). Every core finds them at once: where R54 lets a
deque operation that no release has published read a descriptor's earlier bytes, the model's reads the later ones (log 88, DESIGN
CHOICE). -/
def State.scratchPut (s : State) (p : Nat × Nat) (bs : List Byte) : State :=
  s.updCore p.1 fun k => { k with
    scratch := (List.range bs.length).foldl (fun m i => SMap.set 0 m (p.2 + i) (bs.getD i 0)) k.scratch
    scratchPois := k.scratchPois.filter fun w => !(p.2 ≤ 8 * w && 8 * w + 8 ≤ p.2 + bs.length) }
/-- Is one of the bytes in a poisoned 64-bit word? -/
def State.scratchBad (s : State) (p : Nat × Nat) (n : Nat) : Bool :=
  !(s.core p.1).scratchPois.isEmpty
  && (span (p.2 / 8) ((p.2 + n - 1) / 8)).any fun w => (s.core p.1).scratchPois.contains w
/-- The place of a lane's address; the checks have passed. -/
def State.scratchOf (s : State) (c : Ctx) (addr : Nat) : Nat × Nat := (s.scratchAt c.x addr).getD (c.x.cid, 0)

/-- Go on unless a lane reads a poisoned scratchpad word (R354). -/
def State.unpoisoned (s : State) (c : Ctx) (addr : Nat → Nat) (w : Nat) (k : Unit → Done) : Done :=
  if (lanesOf c.lanes).any fun l => s.scratchBad (s.scratchOf c (addr l)) w then .failed s { code := codePOISON } else k ()

/-! ## Loads, stores, atomics -/

/-- `lds` (R264). -/
def execLds (w : Width) (pg : Guard) (d a : Reg) (s : State) : Host.Outcome State Fault Refusal :=
  issue (.lds w pg d a) s fun c s =>
    let addr (l : Nat) : Nat := (c.x.get a l).toNat
    match s.scheck c addr w.bytes w.bytes with
    | some f => .fault f
    | none => s.unpoisoned c addr w.bytes fun _ =>
      .fall (s.putWide c w d fun l => s.scratchGet (s.scratchOf c (addr l)) w.bytes)

/-- `sts` (R264): same bytes are written in ascending lane order (R52). -/
def execSts (w : Width) (pg : Guard) (d a : Reg) (s : State) : Host.Outcome State Fault Refusal :=
  issue (.sts w pg d a) s fun c s =>
    let addr (l : Nat) : Nat := (c.x.get a l).toNat
    match s.scheck c addr w.bytes w.bytes with
    | some f => .fault f
    | none => .fall ((lanesOf c.lanes).foldl (fun s l =>
        s.scratchPut (s.scratchOf c (addr l)) (leBytes w.bytes (c.dataAt w d l))) s)

/-- One RMW of a scratchpad word: the state after it, and the old word. -/
def State.scratchRmw (s : State) (p : Nat × Nat) (op : AOp) (v cmp : Word) : State × Word :=
  let old : Word := BitVec.ofNat 32 (s.scratchGet p 4)
  (s.scratchPut p (leBytes 4 (atomicWord op old v cmp).toNat), old)

/-- `atoms` (R270): the lanes in ascending order, each one RMW. -/
def execAtoms (op : AOp) (pg : Guard) (d a v : Reg) (s : State) : Host.Outcome State Fault Refusal :=
  issue (.atoms op pg d a v) s fun c s =>
    let addr (l : Nat) : Nat := (c.x.get a l).toNat
    match s.scheck c addr 4 4 with
    | some f => .fault f
    | none => s.unpoisoned c addr 4 fun _ =>
      let (s, olds) := (lanesOf c.lanes).foldl (fun (s, olds) l =>
        let (s, old) := s.scratchRmw (s.scratchOf c (addr l)) op (c.x.get v l) (c.x.get d l)
        (s, SMap.put olds l old)) (s, ([] : SMap Word))
      .fall (s.put c 0 d fun l => SMap.getD olds l 0)

/-- The operation of a bound broadcast. -/
def bcastOp (max sg : Bool) : AOp := if max then (if sg then .maxS else .maxN) else (if sg then .minS else .minN)

/-- `atoms.min.bcast` and `atoms.max.bcast` (R55, R56): every group's copy takes each lane's value; a release at cluster scope. -/
def execAtomsBcast (max sg : Bool) (pg : Guard) (d a v : Reg) (s : State) : Host.Outcome State Fault Refusal :=
  issue (.atomsBcast max sg pg d a v) s fun c s =>
    if c.lanes = 0 then .fall s
    else
      let off := (c.x.get a (lowLane c.lanes)).toNat
      match s.scheck c (fun _ => off) 4 4 with
      | some f => .fault f
      | none =>
        if 0xC0000 ≤ off then .fault { code := codeSCRATCHRANGE, addr := off }
        else match s.gang? c.x.gang with
          | none => .fall s
          | some g =>
            relBefore c (some .cls) c.lanes c.part s fun s _ =>
              let places := g.groups.map fun x => ((g.die * 8 + g.cluster) * 8 + x.core, x.scratch + off)
              if places.any fun p => s.scratchBad p 4 then .failed s { code := codePOISON }
              else
                let (s, olds) := (lanesOf c.lanes).foldl (fun (s, olds) l =>
                  let old : Word := BitVec.ofNat 32 (s.scratchGet (s.scratchOf c off) 4)
                  (places.foldl (fun (s : State) p => (s.scratchRmw p (bcastOp max sg) (c.x.get v l) 0).1) s, SMap.put olds l old))
                  (s, ([] : SMap Word))
                .fall (s.put c 0 d fun l => SMap.getD olds l 0)

/-! ## Deques -/

/-- The operations. -/
inductive DqOp where
  | push | pop | steal
  deriving DecidableEq, Repr

/-- A descriptor's fields (R53). -/
structure Deque where
  head : Nat
  tail : Nat
  base : Nat
  mask : Nat
  rsv : Bool
  deriving DecidableEq, Repr
/-- The descriptor in its 16 bytes (R53). -/
def dequeOf (x : Nat) : Deque :=
  { head := x % 2 ^ 32, tail := x / 2 ^ 32 % 2 ^ 32, base := x / 2 ^ 64 % 2 ^ 20, mask := x / 2 ^ 96 % 2 ^ 16,
    rsv := x / 2 ^ 84 % 2 ^ 12 != 0 || x / 2 ^ 112 % 2 ^ 16 != 0 }
/-- Is a descriptor malformed (R53)? -/
def Deque.bad (q : Deque) (size : Nat) : Bool :=
  !((List.range 17).any fun j => q.mask + 1 == 2 ^ j) || q.rsv || q.base % 8 != 0 || size < q.base + 8 * (q.mask + 1)

/-- What one lane's operation gives: whether it took effect, and the entry read. -/
structure DqRes where
  ok : Bool
  val : DWord
  deriving DecidableEq, Repr
/-- Why a deque operation faults: a malformed descriptor, or poison that it reads. -/
inductive DqBad where
  | range
  | poison
  deriving DecidableEq, Repr

/-- One lane's operation at the bank, its statements in the order of R54, each reading the descriptor as the ones before have left it: the
entries may lie over it. `p` is the descriptor's place, `al` the start of the allocation it lies in and `size` its size. Poison
is found before a malformed descriptor, of which R53 and R354 give no order (log 89, DESIGN CHOICE). -/
def State.dqStep (s : State) (p : Nat × Nat) (al size : Nat) (op : DqOp) (v : DWord) : Sum DqBad (State × DqRes) :=
  let q (s : State) : Deque := dequeOf (s.scratchGet p 16)
  let entry (s : State) (i : Nat) : Nat × Nat := (p.1, al + (q s).base + 8 * (i % ((q s).mask + 1)))
  let tail := (p.1, p.2 + 4)
  let n := ((q s).tail + 2 ^ 32 - (q s).head) % 2 ^ 32
  let read (s : State) (i : Nat) : Option DqRes :=
    if s.scratchBad (entry s i) 8 then none else some { ok := true, val := BitVec.ofNat 64 (s.scratchGet (entry s i) 8) }
  let none' : DqRes := { ok := false, val := 0 }
  if s.scratchBad p 16 then .inl .poison
  else if (q s).bad size then .inl .range
  else match op with
  | .push =>
    if n = (q s).mask + 1 then .inr (s, none')
    else
      let s := s.scratchPut (entry s (q s).tail) (leBytes 8 v.toNat)
      .inr (s.scratchPut tail (leBytes 4 (((q s).tail + 1) % 2 ^ 32)), { none' with ok := true })
  | .pop =>
    if n = 0 then .inr (s, none')
    else
      let s := s.scratchPut tail (leBytes 4 (((q s).tail + 2 ^ 32 - 1) % 2 ^ 32))
      match read s (q s).tail with
      | some r => .inr (s, r)
      | none => .inl .poison
  | .steal =>
    if n = 0 then .inr (s, none')
    else match read s (q s).head with
      | some r => .inr (s.scratchPut p (leBytes 4 (((q s).head + 1) % 2 ^ 32)), r)
      | none => .inl .poison

/-- The lanes' operations in ascending order, with their results, up to the first that faults (R54). -/
def State.dqLanes (c : Ctx) (p : Nat × Nat) (al size : Nat) (op : DqOp) (d : Reg) :
    List Nat → State → SMap DqRes → Sum DqBad (State × SMap DqRes)
  | [], s, rs => .inr (s, rs)
  | l :: ls, s, rs =>
    match s.dqStep p al size op (c.x.get64 d l) with
    | .inl b => .inl b
    | .inr (s, r) => State.dqLanes c p al size op d ls s (SMap.put rs l r)

/-- A deque operation (R53, R54, R271): a push is a release at cluster scope; a pop or steal that returns an entry is an acquire
there. With a fault the deque is unchanged. -/
def dqAll (op : DqOp) (pd : Fin 8) (d a : Reg) (c : Ctx) (s : State) : Done :=
  if c.lanes = 0 then .fall s
  else
    let addr := (c.x.get a (lowLane c.lanes)).toNat
    match s.scheck c (fun _ => addr) 16 16, s.gang? c.x.gang with
    | some f, _ => .fault f
    | none, none => .fall s
    | none, some g =>
      let p := s.scratchOf c addr
      if s.scratchBad p 16 then .failed s { code := codePOISON }
      else if (dequeOf (s.scratchGet p 16)).bad g.size then .fault { code := codeSCRATCHRANGE, addr := addr }
      else relBefore c (if op == .push then some .cls else none) c.lanes c.part s fun s _ =>
        match State.dqLanes c p (p.2 - addr % 2 ^ 20) g.size op d (lanesOf c.lanes) s [] with
        | .inl .range => .failed s { code := codeSCRATCHRANGE, addr := addr }
        | .inl .poison => .failed s { code := codePOISON }
        | .inr (s, rs) =>
          let r (l : Nat) : DqRes := SMap.getD rs l { ok := false, val := 0 }
          let got := maskOf fun l => hasLane c.lanes l && (r l).ok
          let s := s.putP c 0 pd fun l => (r l).ok
          if op == .push || got == 0 then .fall s
          else
            let s := (s.write c 0 (d.dst c.x.winBase 0) got fun l => (r l).val.setWidth 32).writeHi c 0 (d.dst c.x.winBase 1) got
              fun l => ((r l).val >>> 32).setWidth 32
            .fall (s.acquireAt c .cls)

/-- `dqpush` (R271). -/
def execDqpush (pg : Guard) (pd : Fin 8) (d a : Reg) (s : State) : Host.Outcome State Fault Refusal :=
  issue (.dqpush pg pd d a) s (dqAll .push pd d a)
/-- `dqpop` (R271). -/
def execDqpop (pg : Guard) (pd : Fin 8) (d a : Reg) (s : State) : Host.Outcome State Fault Refusal :=
  issue (.dqpop pg pd d a) s (dqAll .pop pd d a)
/-- `dqsteal` (R271). -/
def execDqsteal (pg : Guard) (pd : Fin 8) (d a : Reg) (s : State) : Host.Outcome State Fault Refusal :=
  issue (.dqsteal pg pd d a) s (dqAll .steal pd d a)

end Sys2Proof.Machine
end

