-- ==== Sys2Proof/Machine/CoherEv.lean ====
section
/-!
DEFINITION. The arrival of each message of the coherence protocol (R133 to R137), of a monitor's registration (R139 to R141) and of
a watch's request and verdict (R122), the end of a lease (R130), and the landing of a `cpy.y` (R238).
-/
namespace Sys2Proof.Machine

/-! ## Messages in flight -/

/-- Take one message out of those in flight. -/
def takeMsg (m : Instr) : List Instr → Option (List Instr)
  | [] => none
  | x :: r => if x = m then some r else (takeMsg m r).map fun l => x :: l

/-- A message that is in flight arrives; one that is not does nothing. -/
def State.receive (s : State) (m : Instr) (k : State → State) : Host.Outcome State Fault Refusal :=
  match takeMsg m s.msgs with
  | some l => .next (k { s with msgs := l })
  | none => .next s

/-- Is a server a home, and not a peer L2? -/
def isHome (srv : Nat) : Bool := 130 ≤ srv
/-- The peer L2 of a line as a cache agent. -/
def linePeer (line : Nat) : Nat := peerAgent (1 - lineDie line)
/-- Marks joined to others: a later mark of a byte replaces the earlier one. -/
def joinWho (a b : SMap Nat) : SMap Nat := b.foldl (fun w x => SMap.set 0 w x.1 x.2) a

/-! ## Requests -/

/-- A request reaches its server and waits there in arrival order (R136). -/
def State.request (s : State) (src srv line kind : Nat) : State :=
  if isHome srv then
    (s.updHome line fun h => { h with arr := (s.cycle + 1, src) }).homeRequest src line kind
  else (s.updPeer line fun p => { p with waiting := p.waiting ++ [(src, kind)] }).peerRun line

/-- GetS arrives at its server (R133). -/
def execGetS (src srv line : Nat) (s : State) : Host.Outcome State Fault Refusal :=
  s.receive (.getS src srv line) fun s => s.request src srv line 0
/-- GetM arrives at its server (R133). -/
def execGetM (src srv line : Nat) (s : State) : Host.Outcome State Fault Refusal :=
  s.receive (.getM src srv line) fun s => s.request src srv line 1
/-- Upg arrives at its server (R133). -/
def execUpg (src srv line : Nat) (s : State) : Host.Outcome State Fault Refusal :=
  s.receive (.upg src srv line) fun s => s.request src srv line 2

/-! ## Write-backs (R135) -/

/-- Does the home take a write-back: of the peer that the directory shows as owner, or of the local owner where no forward has
taken its ownership already? One whose bytes a SnpData has brought before is discarded (R137). -/
def Home.takes (h : Home) (peer src : Nat) (clean : Bool) : Bool :=
  if src = peer then !h.late && (h.st == .HX || (h.st == .HO && !clean)) else h.owner == some src && !h.acks.contains src

/-- PutM reaches the home (R135). -/
def State.putAtHome (s : State) (src srv line : Nat) (d : LineData) (m : ByteMask) (ret : Bool) : State :=
  let peer := linePeer line
  if !(s.home line).takes peer src false then (s.updHome line fun h => if src = peer then { h with late := false } else h).send (.wbstale src srv line)
  else
    let sl := if src = peer then s.peer line else s.l1 src line
    let s := if m = 0 then s.advance line else s.mergeRaw line { sl with data := d, dirty := m }
    let s := s.updHome line fun h =>
      if src = peer then { h with st := if ret then .HS else .HI }
      else { h with owner := none, sharers := if ret && !sl.sw then insertAsc src h.sharers else h.sharers }
    ((s.send (.wback src srv line)).settle [line]).homeRun line

/-- PutM of an L1 reaches its die's peer L2, which takes it as the home takes one of its local L1s (R133). -/
def State.putAtPeer (s : State) (src srv line : Nat) (d : LineData) (m : ByteMask) (ret : Bool) : State :=
  let p := s.peer line
  if p.owner != some src || p.acks.contains src then s.send (.wbstale src srv line)
  else
    let sl := s.l1 src line
    let p := { p with
      data := mergeData p.data d m, dirty := p.dirty ||| m, who := joinWho p.who sl.who, pois := sl.pois, owner := none
      st := if p.st == .E && m != 0 then .M else p.st
      sharers := if ret && !sl.sw then insertAsc src p.sharers else p.sharers
      rel := Rel.later sl.rel p.rel }
    ((((s.peerRecord line { sl with dirty := m }).setPeer line p).send (.wback src srv line)).peerReturn line).peerRun line

/-- PutM arrives at its server (R135). -/
def execPutM (src srv line : Nat) (data : LineData) (mask : ByteMask) (ret : Bool) (s : State) : Host.Outcome State Fault Refusal :=
  s.receive (.putM src srv line data mask ret) fun s =>
    if isHome srv then s.putAtHome src srv line data mask ret else s.putAtPeer src srv line data mask ret

/-- PutC arrives at its server (R135). -/
def execPutC (src srv line : Nat) (s : State) : Host.Outcome State Fault Refusal :=
  s.receive (.putC src srv line) fun s =>
    if isHome srv then
      if !(s.home line).takes (linePeer line) src true then
        (s.updHome line fun h => if src = linePeer line then { h with late := false } else h).send (.wbstale src srv line)
      else
        let s := s.updHome line fun h => if src = linePeer line then { h with st := .HI } else { h with owner := none }
        (s.send (.wback src srv line)).homeRun line
    else
      let p := s.peer line
      if p.owner != some src || p.acks.contains src then s.send (.wbstale src srv line)
      else (((s.setPeer line { p with owner := none }).send (.wback src srv line)).peerReturn line).peerRun line

/-- The writer hears of its write-back: under RET it keeps a shared copy, else its buffer is free (R134). R134 has no row for a holder
in MS_A that hears WbStale: its bytes have gone home with a SnpData, and the model lets it keep its shared copy as after WbAck
(log 85, DESIGN CHOICE). -/
def State.putAnswered (s : State) (dst line : Nat) : State :=
  let f (l : Line) : Line :=
    match l.st with
    | .MS_A => { l with st := .S, dirty := 0, who := [], ret := false }
    | .MI_A | .EI_A | .I_A => { Line.reset with waiting := l.waiting }
    | _ => l
  if dst < 128 then (s.updL1 dst line f).wakeCore dst none else (s.updPeer line f).peerRun line

/-- WbAck arrives (R134). -/
def execWback (dst srv line : Nat) (s : State) : Host.Outcome State Fault Refusal :=
  s.receive (.wback dst srv line) fun s => s.putAnswered dst line
/-- WbStale arrives (R134, R137). -/
def execWbstale (dst srv line : Nat) (s : State) : Host.Outcome State Fault Refusal :=
  s.receive (.wbstale dst srv line) fun s => s.putAnswered dst line

/-! ## Invalidations and forwards (R134) -/

/-- Inv at an L1: a shared copy goes, and an Upg on its way waits for data (R134, R137). -/
def State.invL1 (s : State) (dst srv line : Nat) : State :=
  let l := s.l1 dst line
  let s := match l.st with
    | .S => if l.sw then s else s.setL1 dst line Line.reset
    | .SM_A => s.setL1 dst line { Line.reset with st := .IM_D, sw := l.sw }
    | _ => s
  s.send (.invAck dst srv line)

/-- The peer asks its L1s before it answers the home: kinds 5 FwdS, 6 FwdM, 7 Inv (R134). -/
def State.peerForward (s : State) (line kind : Nat) : State :=
  let p := s.peer line
  let me := linePeer line
  let own : List (Nat × Instr) := match p.owner with
    | some o => [(o, if kind = 5 then .fwdS o me line else .fwdM o me line)]
    | none => []
  let asks := own ++ (if kind = 5 then [] else p.sharers.map fun c => (c, .inv c me line))
  if asks.isEmpty then s.peerAnswer line kind
  else asks.foldl (fun s a => s.send a.2) (s.setPeer line { p with cur := some (0, kind), acks := asks.map (·.1) })

/-- What an L1 makes known to its server with its data: the marks of its dirty bytes, their poison, the release they hold (R117,
R353, R359). -/
def State.handOver (s : State) (srv line : Nat) (l : Line) : State :=
  if l.dirty = 0 ∧ l.pois = 0 ∧ l.rel.isNone then s
  else if isHome srv then
    let s := (byteIxs l.dirty).foldl (fun s i =>
      if l.whoAt i = 0 ∧ s.writers.isEmpty then s else s.recordUndo (l.whoAt i) (line * 128 + i)) s
    let s := s.setHomePois line l.pois
    if l.rel.isSome then s.updHome line fun h => { h with rel := Rel.later l.rel h.rel } else s
  else (s.peerRecord line l).updPeer line fun p =>
    { p with dirty := p.dirty ||| l.dirty, who := joinWho p.who l.who, pois := l.pois, rel := Rel.later l.rel p.rel }

/-- An L1's state after a forward (R134). -/
def Line.forwarded (l : Line) (excl : Bool) : Line :=
  match l.st with
  | .E | .M => if excl then Line.reset else { l with st := .S, dirty := 0, who := [], ret := false }
  | .MI_A | .EI_A => { l with st := .I_A, ret := false }
  | .MS_A => if excl then { l with st := .I_A, ret := false } else { l with ret := false }
  | _ => l

/-- FwdS or FwdM at an L1: it answers with its data, and a shared copy stays after FwdS (R134). A return that was to be made is
discharged (R137). -/
def State.fwdL1 (s : State) (dst srv line : Nat) (excl : Bool) : State :=
  let l := s.l1 dst line
  let dirty := l.st == .M || l.st == .MI_A || l.st == .MS_A
  (((s.handOver srv line l).setL1 dst line (l.forwarded excl)).send (.snpData dst srv line l.data dirty)).wakeCore dst none

/-- Inv arrives at a holder (R134). -/
def execInv (dst srv line : Nat) (s : State) : Host.Outcome State Fault Refusal :=
  s.receive (.inv dst srv line) fun s => if dst < 128 then s.invL1 dst srv line else s.peerForward line 7
/-- FwdS arrives at a holder (R134). -/
def execFwdS (dst srv line : Nat) (s : State) : Host.Outcome State Fault Refusal :=
  s.receive (.fwdS dst srv line) fun s => if dst < 128 then s.fwdL1 dst srv line false else s.peerForward line 5
/-- FwdM arrives at a holder (R134). -/
def execFwdM (dst srv line : Nat) (s : State) : Host.Outcome State Fault Refusal :=
  s.receive (.fwdM dst srv line) fun s => if dst < 128 then s.fwdL1 dst srv line true else s.peerForward line 6

/-! ## Answers (R135) -/

/-- Ack arrives: the sender holds no copy (R135). -/
def execInvAck (src srv line : Nat) (s : State) : Host.Outcome State Fault Refusal :=
  s.receive (.invAck src srv line) fun s =>
    if isHome srv then
      (s.updHome line fun h =>
        if src = linePeer line then { h with st := if h.st == .HS_I then .HI else h.st }
        else { h with sharers := h.sharers.filter (· ≠ src) }).homeAnswered src line
    else (s.updPeer line fun p => { p with sharers := p.sharers.filter (· ≠ src) }).peerAnswered src line

/-- SnpData at the home: dirty data becomes the home copy, and the directory follows (R135). -/
def State.snpAtHome (s : State) (src line : Nat) (d : LineData) (dirty : Bool) : State :=
  let keep := src < 128 && !(s.l1 src line).sw
  let late := src == linePeer line && s.msgs.any fun m => match m with
    | .putM a _ l _ _ _ | .putC a _ l => a == src && l == line
    | _ => false
  let s := if late then s.updHome line fun h => { h with late := true } else s
  let s := if dirty then
      let p := s.homePois line
      ((s.poke (line * 128) (LineData.bytes d 0 128)).setHomePois line p).wrote line
    else s
  let s := s.updHome line fun h =>
    if src = linePeer line then
      { h with st := match h.st with
          | .HX_S => if dirty then .HO else .HS
          | .HX_I => .HI
          | x => x }
    else
      let shared := match h.cur with
        | some r => keep && (r.kind == 0 || r.kind == 5)
        | none => false
      { h with owner := if h.owner = some src then none else h.owner
               sharers := if shared then insertAsc src h.sharers else h.sharers }
  (if dirty then s.settle [line] else s).homeAnswered src line

/-- SnpData of an L1 at its die's peer L2 (R133). -/
def State.snpAtPeer (s : State) (src line : Nat) (d : LineData) (dirty : Bool) : State :=
  let keep := !(s.l1 src line).sw
  (s.updPeer line fun p =>
    let shared := match p.cur with
      | some (_, k) => keep && (k == 0 || k == 5)
      | none => false
    { p with data := if dirty then d else p.data, st := if dirty && p.st == .E then .M else p.st
             owner := if p.owner = some src then none else p.owner
             sharers := if shared then insertAsc src p.sharers else p.sharers }).peerAnswered src line

/-- SnpData arrives (R135). -/
def execSnpData (src srv line : Nat) (dat : LineData) (dirty : Bool) (s : State) : Host.Outcome State Fault Refusal :=
  s.receive (.snpData src srv line dat dirty) fun s =>
    if isHome srv then s.snpAtHome src line dat dirty else s.snpAtPeer src line dat dirty

/-! ## Grants (R134) -/

/-- The state that Data brings a waiting line to; a grant with RET is taken as M, and so is one of a line with dirty bytes
(R134, R140). -/
def granted (st : CSt) (g : GrantKind) (ret dirty : Bool) : Option CSt :=
  match st, g with
  | .IS_D, .S => some .S
  | .IS_D, .E => some (if ret || dirty then .M else .E)
  | .IS_D, .M => some .M
  | .IM_D, _ => some .M
  | _, _ => none

/-- An L1 has its line: the access that asked for it is carried on first, and then the others of the core (R132, R140). Where it is
no more, data under RET returns. -/
def State.lineHere (s : State) (cid line : Nat) : State :=
  let l := s.l1 cid line
  match l.asker.bind s.op? with
  | some m => s.wakeCore cid (some m.id)
  | none => ((s.setL1 cid line (if l.sw && l.st == .S && l.unstale.held == 0 then Line.reset else l.unstale)).returnRet cid line).wakeCore cid none

/-- Data arrives at a requester (R134, R119). -/
def execData (dst srv line : Nat) (dat : LineData) (ver : BitVec 16) (g : GrantKind) (ret : Bool) (s : State) :
    Host.Outcome State Fault Refusal :=
  s.receive (.data dst srv line dat ver g ret) fun s =>
    if dst < 128 then
      let l := s.l1 dst line
      let (p, rel) := if isHome srv then (s.homePois line, (s.home line).rel) else ((s.peer line).pois, (s.peer line).rel)
      match granted l.st g ret (l.dirty != 0) with
      | some st => (s.setL1 dst line (l.fill st dat ver p s.cycle ret rel)).lineHere dst line
      | none => s
    else
      let p := s.peer line
      match granted p.st g ret false with
      | some st =>
        ((s.setPeer line { p with st := st, filled := true, data := dat, dirty := 0, who := [], ver := ver, stamp := s.cycle,
                                  ret := ret, pois := s.homePois line, rel := (s.home line).rel }).peerRun line).peerReturn line
      | none => s

/-- Grant arrives at an upgrader, whose data is current (R134). -/
def execGrant (dst srv line : Nat) (ver : BitVec 16) (ret : Bool) (s : State) : Host.Outcome State Fault Refusal :=
  s.receive (.grant dst srv line ver ret) fun s =>
    if dst < 128 then
      let l := s.l1 dst line
      if l.st == .SM_A then (s.setL1 dst line { l with st := .M, ver := ver, ret := ret }).lineHere dst line else s
    else
      let p := s.peer line
      if p.st == .SM_A || p.st == .OM_A then
        ((s.setPeer line { p with st := .M, ver := ver, ret := ret }).peerRun line).peerReturn line
      else s

/-! ## Which messages may arrive next -/

/-- Where a message comes from and goes to, and its line. -/
def msgWay : Instr → Option (Nat × Nat × Nat)
  | .getS a b l | .getM a b l | .upg a b l | .putM a b l _ _ _ | .putC a b l | .invAck a b l | .snpData a b l _ _ => some (a, b, l)
  | .inv d v l | .fwdS d v l | .fwdM d v l | .data d v l _ _ _ _ | .grant d v l _ _ | .wback d v l | .wbstale d v l => some (v, d, l)
  | _ => none

/-- Is a message one of a server to a cache? -/
def fromServer : Instr → Bool
  | .inv .. | .fwdS .. | .fwdM .. | .data .. | .grant .. | .wback .. | .wbstale .. => true
  | _ => false

/-- May a message be taken by its receiver now: requests of one cycle in the order of R136, outside requests unless the line is leased
(R132; an atomic is performed in one step once its line is there), and data at a home that has had no version event of the line in
this cycle (R118)? -/
def State.msgReady (s : State) : Instr → Bool
  | .getS src srv line | .getM src srv line | .upg src srv line =>
    !isHome srv || !((s.home line).arr.1 == s.cycle + 1 && src < (s.home line).arr.2)
  | .inv d _ line | .fwdS d _ line | .fwdM d _ line =>
    if d < 128 then !s.leased d line else (s.peer line).cur.isNone
  | .putM _ srv line .. | .snpData _ srv line _ true => !isHome srv || !s.advanced line
  | _ => true

/-- The messages that may arrive next: what a server sends to one cache for one line arrives in the order sent (R133). -/
def State.msgsDue (s : State) : List Instr → List Instr → List Instr
  | _, [] => []
  | before, m :: rest =>
    let first := !fromServer m || !(before.any fun x => fromServer x && msgWay x == msgWay m)
    if first && s.msgReady m then m :: s.msgsDue (m :: before) rest else s.msgsDue (m :: before) rest

/-! ## Monitors (R139 to R141) -/

/-- Registrations that a home slice holds, of 512: 64 slices on a die, by line number (R141). -/
def State.registrations (s : State) (line : Nat) : Nat :=
  (s.monitors.filter fun m => m.registered && lineDie (lineOf m.pa) == lineDie line && lineOf m.pa % 64 == line % 64).length

/-- Must a registration wait for its page's migration (R346)? -/
def State.monFrozen (s : State) (m : Monitor) : Bool :=
  match s.thread? m.t with
  | some x => s.frozenRead x.space m.va
  | none => false
/-- MONITOR_REGISTRATION: the home obtains the data from an exclusive holder, evaluates the condition, and wakes the split or
registers it; a full slice refuses (R139, R141). -/
def execMonitorRegistration (id : Nat) (s : State) : Host.Outcome State Fault Refusal :=
  .next (match s.monitors.find? fun m => m.id == id && !m.registered && m.retry == 0 with
    | none => s
    | some m =>
      let line := lineOf m.pa
      if 512 ≤ s.registrations line then
        { s with monitors := s.monitors.map fun x => if x.id = id then { x with retry := s.cycle + 256 } else x }
      else if s.monFrozen m then s
      else match s.homeShare (monAgent id) line with
        | (s, false) => s
        | (s, true) =>
          let s := if condHolds m.cond (s.homeWord m.pa) m.val then s.wakeMonitor m
            else { s with monitors := (s.monitors.filter fun x => x.id ≠ id) ++ [{ m with registered := true }] }
          s.unreserve (monAgent id) line)

/-- A refused registration is sent again (R141). -/
def execMonitorRetry (id : Nat) (s : State) : Host.Outcome State Fault Refusal :=
  .next { s with monitors := s.monitors.map fun m => if m.id = id && m.retry ≤ s.cycle then { m with retry := 0 } else m }

/-! ## Watches (R122) -/

/-- Does a cache other than the requesting L1 hold the line with exclusive ownership (R122): another L1 of the home's die, or the
peer L2, which is a cache of its own whatever L1 it serves (R133)? -/
def State.heldElsewhere (s : State) (core line : Nat) : Bool :=
  let h := s.home line
  (match h.owner with
   | some o => o != core
   | none => false)
  || h.st == .HX || h.st == .HX_S || h.st == .HX_I

/-- The home's decision on a confirm request: true strikes (R122). -/
def State.strikes (s : State) (q : WMsg) : Bool :=
  let h := s.home q.pline
  !h.present || h.stamp > q.stamp || s.cycle ≥ q.stamp + 32768 || h.ver != q.fver || s.heldElsewhere q.core q.pline

/-- CONFIRM: the request reaches the home, which decides and answers (R122; log 11). -/
def execConfirm (serial : Nat) (s : State) : Host.Outcome State Fault Refusal :=
  .next { s with watches := s.watches.map fun q =>
    if q.serial = serial && q.verdict.isNone then { q with verdict := some (s.strikes q) } else q }

/-- Every pending entry with this serial is struck, or freed (R122). -/
def State.setWatch (s : State) (serial : Nat) (strike : Bool) : State :=
  { s with threads := s.threads.map fun c =>
      if c.2.loupe.any fun w => w.serial == serial && !w.struck then
        (c.1, { c.2 with loupe :=
          if strike then c.2.loupe.map fun w => if w.serial = serial then { w with struck := true } else w
          else c.2.loupe.filter fun w => !(w.serial == serial && !w.struck) })
      else c }

/-- WATCH_VERDICT: the verdict reaches the L1; one for an entry that is no longer pending is discarded (R122, R126). -/
def execWatchVerdict (serial : Nat) (strike : Bool) (s : State) : Host.Outcome State Fault Refusal :=
  .next (if s.watches.any fun q => q.serial == serial && q.verdict == some strike then
      { s with watches := s.watches.filter fun q => q.serial ≠ serial }.setWatch serial strike
    else s)

/-- Is an entry with this serial pending 8,000 cycles after its `ldw` (R122)? -/
def State.watchLate (s : State) (serial : Nat) : Bool :=
  s.threads.any fun c => c.2.loupe.any fun w => w.serial == serial && !w.struck && w.since + 8000 ≤ s.cycle

/-- WATCH_TIMEOUT: the L1 strikes the entry itself (R122). -/
def execWatchTimeout (serial : Nat) (s : State) : Host.Outcome State Fault Refusal :=
  .next (if s.watchLate serial then s.setWatch serial true else s)

/-! ## Leases and yielded copies -/

/-- LEASE_EXPIRY: the n cycles of a strand's lease are over (R130). -/
def execLeaseExpiry (t : Nat) (s : State) : Host.Outcome State Fault Refusal :=
  .next ((s.leases.filter fun l => l.t == t && decide (l.until' ≤ s.cycle)).foldl (fun s l => s.endLease l) s)

/-- The next piece of a yielded copy: the bytes left of its line. -/
def copyPiece (src len : Nat) : Nat := min len (128 - src % 128)

/-- The request for the line of a yielded copy's next piece. -/
def State.copyReq (s : State) (x : Thread) (src len : Nat) : Option LReq :=
  (s.lineReqs x.space (copyPiece src len) [src]).head?

/-- The number under which a split's yielded copy asks for lines: no access has it. -/
def copyOp : Nat := 0

/-- Would COPY_LANDED change anything: the line is there, or has not been asked for? -/
def State.copyMoves (s : State) (x : Thread) (src len : Nat) : Bool :=
  match s.copyReq x src len with
  | none => true
  | some r =>
    let l := s.l1 x.cid r.pl
    if l.moving then false
    else if l.stale then false
    else if r.l2 && l.st != .I then true
    else if r.l2 && s.lineQueued r.pl then (s.home r.pl).reserved == some x.cid
    else if r.mig == 2 then (s.home r.pl).reserved == some x.cid && s.homeReadable x.cid r.pl
    else if r.l2 then s.homeReadable x.cid r.pl || !s.homeAskedFor x.cid r.pl 5
    else l.st != .I || (s.l1Room x.cid).isSome

/-- COPY_LANDED: one piece of a `cpy.y` is read through the core's L1 and written; with the last the split resumes at its label
(R238). A piece whose page has come to deny the load raises PERM, since its access is checked again where the entry was changed
before it was performed (R342, R348); poison that it reads raises POISON (R354). -/
def execCopyLanded (t e : Nat) (s : State) : Host.Outcome State Fault Refusal :=
  .next (match s.thread? t with
    | none => s
    | some x =>
      match (x.split e).wait with
      | some (.copy dst src len lab pc leaves) =>
        let n := copyPiece src len
        match s.denied x.space src .load, s.copyReq x src len with
        | some k, _ => s.failThread t { s.threadRec codePERM t pc with addr := src, info := k }
        | none, none => s
        | none, some r =>
          match s.getShared x.cid copyOp r with
          | .wait s => s
          | .ready s =>
            let (v, bad) := s.viewAt x.cid x.space src n
            if bad then
              (s.markPois x.space src).failThread t { s.threadRec codePOISON t pc with addr := s.poisonPa x.cid x.space src n }
            else
              let s := s.scratchPut ((s.scratchAt x dst).getD (x.cid, 0)) (leBytes n v)
              if n = len then s.resumeAt t e lab leaves
              else s.updSplit t e fun p => { p with wait := some (.copy (dst + n) (src + n) (len - n) lab pc leaves) }
      | _ => s)

end Sys2Proof.Machine
end

