-- ==== Sys2Proof/Machine/Fabric.lean ====
section
/-!
DEFINITION. The transport of the domain fabric (R142 to R156, R164 to R166): headers, routes, source ends with their retry
buffers, changes of route and failures, and the destination's view of its flows. What a packet does at its destination is in
Deliver.lean.
-/
namespace Sys2Proof.Machine

/-! ## Headers (R143 to R145, R166) -/

/-- Number of a class: urgent 0, express 1, bulk 2. -/
def clsNo : TClass → Nat
  | .urgent => 0
  | .express => 1
  | .bulk => 2
/-- The class of a number. -/
def clsOf : Nat → Option TClass
  | 0 => some .urgent
  | 1 => some .express
  | 2 => some .bulk
  | _ => none

/-- The bytes that an operation names, from byte 16, as a mask; every other byte must be zero (R166). -/
def opNamed : Nat → BitVec 16
  | 1 | 2 => 0x0003
  | 3 => 0x0103
  | 4 => 0x0FF7
  | 5 => 0x01FF
  | 6 => 0x0D00
  | 9 => 0x00F7
  | 10 | 11 => 0x0100
  | _ => 0
end Sys2Proof.Machine

namespace Sys2Proof
open Sys2Proof.Machine

/-- AOP with TYPE and ORDER, OPA, OPB, OLD, STATUS and the rest of R166. -/
def Header.status (h : Header) : Nat := h.field 8 1
def Header.nblk (h : Header) : Nat := h.field 8 1
def Header.eseq (h : Header) : Nat := h.field 10 2
/-- Is LEN within the limit of the operation and class, and consistent with NBYTES and NBLK (R145, R166)? -/
def Header.lenOk (h : Header) : Bool :=
  match h.opcode with
  | 1 => if h.cls = 0 then h.len == 1 && 1 ≤ h.nbytes && h.nbytes ≤ 64
         else 1 ≤ h.nbytes && h.nbytes ≤ 4096 && h.len == (h.nbytes + 63) / 64
  | 2 => h.len == 0 && 1 ≤ h.nbytes && h.nbytes ≤ 128 && h.va % 128 + h.nbytes ≤ 128
  | 3 => 1 ≤ h.nbytes && h.nbytes ≤ 128 && h.len == (h.nbytes + 63) / 64 && h.status ≤ 2
  | 4 => h.len == 0 && h.field 0 1 ≤ 8 && h.field 1 1 ≤ 3 && h.field 2 1 ≤ 3
  | 5 => h.len == 0 && h.status ≤ 2
  | 6 => h.len == 0 && h.status ≤ 1
  | 9 => h.len == 0 && h.field 0 2 ≤ 4095 && h.field 2 1 ≤ 63
  | 10 => h.len == 1 && 1 ≤ h.nblk && h.nblk ≤ 32
  | 11 => 1 ≤ h.nblk && h.nblk ≤ 21 && h.len == (192 * h.nblk + 63) / 64
  | _ => h.len == 0
/-- Does the class of the flit kind match the operation (R145)? -/
def Header.clsOk (h : Header) : Bool :=
  match h.opcode with
  | 0 => h.cls ≤ 2
  | 1 => h.cls == 0 || h.cls == 2
  | 2 | 3 => h.cls == 1
  | 11 => h.cls == 2
  | _ => h.cls == 0
/-- Do the fields fit their places (R144)? Those of a header that a flit carries do. -/
def Header.fits (h : Header) : Bool :=
  h.cls < 4 && h.vc < 2 && h.seq < 2 ^ 16 && h.inc < 16 && h.path < 4 && h.opcode < 256 && h.dst < 1024 && h.src < 1024 && h.len < 128
    && h.space < 2 ^ 16 && h.va < 2 ^ 48
/-- The 4-bit kind of a header flit (R143). -/
def Header.kind (h : Header) : BitVec 4 := BitVec.ofNat 4 (4 * h.cls + 2 * h.vc + 1)
/-- The 64 bytes of a header flit whose reserved fields are zero (R144, R166). -/
def Header.bits (h : Header) : BitVec 512 :=
  BitVec.ofNat 512 (h.va + h.space * 2 ^ 48 + h.len * 2 ^ 69 + h.src * 2 ^ 76 + h.dst * 2 ^ 86 + h.opcode * 2 ^ 96 + h.path * 2 ^ 104
    + (if h.new then 2 ^ 107 else 0) + h.inc * 2 ^ 108 + h.seq * 2 ^ 112 + h.opf.toNat * 2 ^ 128)
/-- The header that a flit carries (R143, R144, R166). -/
def Flit.header (f : Flit) : Header :=
  let at' (i n : Nat) : Nat := (f.bytes.extractLsb' i n).toNat
  { cls := f.kind.toNat / 4, vc := f.kind.toNat / 2 % 2, seq := at' 112 16, inc := at' 108 4, new := at' 107 1 == 1, path := at' 104 2,
    opcode := at' 96 8, dst := at' 86 10, src := at' 76 10, len := at' 69 7, space := at' 48 16, va := at' 0 48,
    rsvd := at' 106 1 != 0 || at' 64 5 != 0 || at' 256 256 != 0, opf := f.bytes.extractLsb' 128 128, ref := f.ref, chunk := f.chunk }
/-- The flit of a well-formed header. -/
def Header.flit (h : Header) : Flit := { kind := h.kind, bytes := h.bits, ref := h.ref, chunk := h.chunk }
/-- A malformed header (R145). -/
def Header.malformed (h : Header) : Bool :=
  11 < h.opcode || !h.fits || h.rsvd || h.vc > 1 || !h.clsOk || !h.lenOk
  || (List.range 16).any fun i => !(opNamed h.opcode).getLsbD i && h.field i 1 != 0

end Sys2Proof

namespace Sys2Proof.Machine

/-- Is the operation sequenced (R145)? -/
def sequenced (op : Nat) : Bool := op == 1 || op == 2 || op == 4 || op == 9 || op == 10 || op == 11
/-- Does an ACK free packets of the operation: those with no response of their own (R153)? -/
def ackFrees (op : Nat) : Bool := op == 1 || op == 9 || op == 10 || op == 11

/-- A payload filled with zeros to whole flits (R166). -/
def pad64 (bs : List Byte) : List Byte := bs ++ List.replicate ((64 - bs.length % 64) % 64) 0
/-- Operation fields from a number, byte 16 lowest. -/
def opfOf (x : Nat) : BitVec 128 := BitVec.ofNat 128 x

/-! ## Routes (R151) -/

/-- A valid route slot: native transport, starting virtual channel, egress station. -/
structure Slot where
  nat : Bool
  vc : Nat
  stn : Nat
  deriving DecidableEq, Repr
/-- Slot i of a route entry, where it is valid. -/
def slotOf (e : DWord) (i : Nat) : Option Slot :=
  let w := (e.extractLsb' (16 * i) 16)
  if w.getLsbD 15 && w.extractLsb' 7 8 == 0 && (w.extractLsb' 0 5).toNat ≤ 17 then
    some { nat := w.getLsbD 6, vc := (w.extractLsb' 5 1).toNat, stn := (w.extractLsb' 0 5).toNat }
  else none
/-- The route entry of an endpoint for a destination; an entry never written has no valid slot. -/
def State.route (s : State) (src dst : Nat) : DWord := SMap.getD s.fab.routes (1024 * src + dst) 0
/-- A station. -/
def State.station (s : State) (n : Nat) : Station := s.fab.stations.getD n Station.reset
/-- Change a station. -/
def State.updStation (s : State) (n : Nat) (f : Station → Station) : State :=
  s.updFab fun b => { b with stations := updAt b.stations n f }
/-- The first slot from one on that is valid and whose station is up (R152, R154). -/
def State.slotFrom (s : State) (e : DWord) (i : Nat) : Option Nat :=
  (List.range 4).find? fun j => i ≤ j && (match slotOf e j with
    | some x => (s.station x.stn).up
    | none => false)
/-- Do two endpoints both lie in this package (R165)? -/
def State.inside (s : State) (dst : Nat) : Bool := s.fab.eps.contains dst

/-- A packet starts on its way: inside the hub, or at the egress station of its slot; on a slot that is invalid or whose station
is down it is lost. -/
def State.emit (s : State) (e : DWord) (p : Packet) : State :=
  if s.inside p.hdr.dst then s.updFab fun b => { b with loop := b.loop ++ [{ p with hdr := { p.hdr with vc := 0 } }] }
  else match slotOf e p.hdr.path with
    | some x =>
      if (s.station x.stn).up then s.updStation x.stn fun t =>
        { t with waiting := t.waiting ++ [{ pkt := { p with hdr := { p.hdr with vc := x.vc } }, sent := 0, since := s.cycle }] }
      else s
    | none => s

/-! ## Ends -/

/-- A source end. -/
def State.srcEnd? (s : State) (src dst : Nat) (c : TClass) : Option SrcEnd :=
  s.fab.src.find? fun e => e.src == src && e.dst == dst && e.cls == c
/-- Replace a source end. -/
def State.setSrc (s : State) (x : SrcEnd) : State :=
  s.updFab fun b => { b with src := b.src.map fun e => if e.src = x.src ∧ e.dst = x.dst ∧ e.cls = x.cls then x else e }
/-- A destination end of this package: its own endpoint first. -/
def State.dstEnd? (s : State) (me src : Nat) (c : TClass) : Option DstEnd :=
  s.fab.dst.find? fun e => e.dst == me && e.src == src && e.cls == c
/-- Replace a destination end. -/
def State.setDst (s : State) (x : DstEnd) : State :=
  s.updFab fun b => { b with dst := b.dst.map fun e => if e.src = x.src ∧ e.dst = x.dst ∧ e.cls = x.cls then x else e }
/-- Key of the incarnation tables (R152). -/
def incKey (me other : Nat) (c : TClass) : Nat := (1024 * me + other) * 3 + clsNo c
/-- Entries of the flow context table in use (R152). -/
def State.flowEnds (s : State) : Nat := s.fab.src.length + s.fab.dst.length
/-- A source end is freed: its incarnation advances (R152). -/
def State.freeSrc (s : State) (e : SrcEnd) : State :=
  let k := incKey e.src e.dst e.cls
  s.updFab fun b => { b with
    src := b.src.filter fun x => !(x.src == e.src && x.dst == e.dst && x.cls == e.cls)
    srcInc := SMap.set 0 b.srcInc k ((SMap.getD b.srcInc k 0 + 1) % 16) }

/-- The acknowledgement timeout in cycles (R154). -/
def State.timeout (s : State) : Nat := s.fab.timeoutUs * usCycles

/-! ## Failures of work -/

/-- The fault record of a strand or context by its number, whether or not it still runs (R349). -/
def State.placeRec (s : State) (code t launch pc : Nat) : FaultRec :=
  let r := match s.launch? launch with
    | some l => { s.nodeRec code l.job l.node with launch := launch, space := l.space }
    | none => s.blankRec code
  if t < ctxBase then
    { r with die := t / 4096, cluster := t / 512 % 8, core := t / 64 % 8, quad := t / 16 % 4, slot := t % 64, pc := pc }
  else
    let n := t - ctxBase
    { r with die := n / 128, cluster := n / 16 % 8, slot := 0x80 + n % 16, pc := pc }
/-- Does the thread that issued still run? -/
def State.alive (s : State) (t uid : Nat) : Bool :=
  match s.thread? t with
  | some x => x.uid == uid
  | none => false
/-- The work that issued a remote access ends with a fault (R155, R164): its group, or, where the strand has ended, its node, unless
the node is ending already (log 54). -/
def State.failOwner (s : State) (t uid launch : Nat) (r : FaultRec) : State :=
  if s.alive t uid then s.failThread t r
  else if s.launchOpen launch then s.failDead uid launch r
  else s

/-- The fault record of a collective entry (R176, R351). -/
def State.entryRec (s : State) (code key qp pos : Nat) : FaultRec :=
  let (j, n) := keyNode key
  { s.nodeRec code j n with aux0 := qp, aux1 := pos % 65536 }
/-- A queue pair. -/
def State.qpair? (s : State) (n : Nat) : Option QPair := SMap.find? s.fab.qps n
/-- Replace a queue pair. -/
def State.setQp (s : State) (n : Nat) (q : QPair) : State := s.updFab fun b => { b with qps := SMap.put b.qps n q }
/-- An entry of a queue pair. -/
def QPair.entry? (q : QPair) (pos : Nat) : Option QEntry := q.queue.find? fun e => e.pos == pos
/-- Change an entry. -/
def State.updEntry (s : State) (n pos : Nat) (f : QEntry → QEntry) : State :=
  match s.qpair? n with
  | some q => s.setQp n { q with queue := q.queue.map fun e => if e.pos = pos then f e else e }
  | none => s
/-- A flow of this package's endpoint `me` at the homes, as the agent of what its packets access, in the order of their arrival: `k` is 0
for those delivered, 1 for reads performed again, 2 for those of a page that has moved (R129, R136, R153, R346). -/
def flowAgent (me src cls k : Nat) : Nat := 2 ^ 21 + 4 * ((me * 1024 + src) * 3 + cls) + k
/-- The standard transport's requests at the homes, one after another (R142). -/
def stdAgent : Nat := 202
/-- A collective entry at the homes, as the agent that reads its source (R129, R172). -/
def entryAgent (qp pos : Nat) : Nat := 2 ^ 30 + qp * 65536 + pos % 65536
/-- A fired entry fails (R176): unfired entries of its queue are cancelled, the queue refuses posting, and its node fails. -/
def State.entryFail (s : State) (qp pos : Nat) (r : FaultRec) : State :=
  match s.qpair? qp with
  | none => s
  | some q =>
    match q.entry? pos with
    | none => s
    | some e =>
      let s := s.setQp qp { q with refused := true, queue := q.queue.filter fun x => x.fired && x.pos != pos }
      let s := s.dropAgent (entryAgent qp pos)
      let (j, n) := keyNode e.node
      match s.node? j n with
      | none => s.record r
      | some x =>
        if r.code = codePOISON then s.rollback j n r
        else match x.kind with
          | .launch id => (s.record r).endLaunch id .failed r.code
          | _ => (s.record r).endNode j n false (some .failed) r.code

/-- Every owner of unacknowledged packets ends with FABRIC: each group once, each entry (R155, R176). -/
def State.failPackets (s : State) (dst : Nat) (c : TClass) (rs : List Retry) : State :=
  let recs := rs.filterMap fun r => match r.owner with
    | .lanes t u _ pc l => some (t, u, l, { s.placeRec codeFABRIC t l pc with info := dst, aux0 := clsNo c })
    | _ => none
  let group (t : Nat) : Nat × Nat := match s.thread? t with
    | some x => (x.gang, x.group + 1)
    | none => (t, 0)
  let first := recs.foldl (fun (a : List (Nat × Nat × Nat × FaultRec)) r =>
    if a.any fun b => group b.1 == group r.1 then a else a ++ [r]) []
  let open' := first.filter fun r => s.alive r.1 r.2.1 || s.launchOpen r.2.2.1
  let s := open'.foldl (fun s r => if s.alive r.1 r.2.1 then s.failThread r.1 r.2.2.2 else s.failDead r.2.1 r.2.2.1 r.2.2.2) s
  rs.foldl (fun s r => match r.owner with
    | .entry q p => match (s.qpair? q).bind fun x => x.entry? p with
      | some e => s.entryFail q p { s.entryRec codeFABRIC e.node q p with info := dst }
      | none => s
    | _ => s) s

/-! ## Changes of route (R154, R155) -/

/-- A source end fails: it is freed without CLOSE, the destination is refused until its entry is rewritten, and its owners end. -/
def State.flowFail (s : State) (e : SrcEnd) : State :=
  let s := (s.freeSrc e).updFab fun b => { b with failed := insertAsc (1024 * e.src + e.dst) b.failed }
  s.failPackets e.dst e.cls e.retry

/-- Send every packet of a retry buffer again, in sequence order, on the end's slot; the timer restarts. -/
def State.replay (s : State) (e : SrcEnd) : State :=
  let rs := e.retry.map fun r => { r with due := s.cycle + s.timeout, pkt := { r.pkt with hdr := { r.pkt.hdr with path := e.path } } }
  rs.foldl (fun s r => s.emit e.entry r.pkt) (s.setSrc { e with retry := rs })

/-- Can the standard transport carry a packet again: a read, a write of a strand, or an atomic that it has (R142, R176)? -/
def Retry.std (r : Retry) : Bool :=
  match r.owner with
  | .lanes .. => r.pkt.hdr.opcode == 1 || r.pkt.hdr.opcode == 2
      || (r.pkt.hdr.opcode == 4 && r.acc != 0 && Config.stdAtomic (4 * r.pkt.hdr.field 0 1 + r.pkt.hdr.field 1 1))
  | _ => false
/-- A flow goes on by a slot without the native transport: its end is freed, what it has not had acknowledged is sent again on the
standard transport, and what that lacks fails with FABRIC (R142, R151, R154; log 50). -/
def State.leaveNative (s : State) (e : SrcEnd) (stn : Nat) : State :=
  let s := s.freeSrc e
  let s := (e.retry.filter Retry.std).foldl (fun s r => s.updFab fun b => { b with
    nextAcc := b.nextAcc + 1
    std := b.std ++ [{ tag := b.nextAcc, owner := r.owner, acc := r.acc, parts := r.parts, station := stn, dst := e.dst,
                       space := r.pkt.hdr.space, va := r.pkt.hdr.va, op := r.pkt.hdr.opcode, gen := r.gen,
                       len := if r.pkt.hdr.opcode = 4 then 4 else r.pkt.hdr.nbytes }] }) s
  s.failPackets e.dst e.cls (e.retry.filter fun r => !r.std)

/-- A source end changes route: the next valid slot after PATH whose station is up, or it fails (R154, R155). A station counts the routes
that leave it (R370). The traffic inside the package has no route, and is sent again as it is (R165). -/
def State.changeRoute (s : State) (e : SrcEnd) : State :=
  if s.inside e.dst then s.replay e
  else
    let s := match slotOf e.entry e.path with
      | some x => s.updStation x.stn fun t => { t with replay := sat32 (t.replay + 1) }
      | none => s
    let entry := s.route e.src e.dst
    match s.slotFrom entry (e.path + 1) with
    | some j => match slotOf entry j with
      | some x => if x.nat then s.replay { e with entry := entry, path := j } else s.leaveNative { e with entry := entry } x.stn
      | none => s
    | none => s.flowFail { e with entry := entry }

/-! ## Sending -/

/-- A packet to send: its class, operation, destination address and fields, payload, and what its answer completes. -/
structure Out where
  cls : TClass
  op : Nat
  space : Nat
  va : Nat
  chunk : Bool
  opf : BitVec 128
  payload : List Byte
  owner : Owner
  acc : Nat
  parts : List (Nat × Nat)
  gen : Option (Nat × Nat × Nat)
  deriving DecidableEq, Repr

/-- How new packets of a flow can go: natively; on a standard path by a station; not at all (FABRIC); or not yet. -/
inductive Way where
  | native
  | std (stn : Nat)
  | refused
  | wait
  deriving DecidableEq, Repr

/-- Is a slot of an entry valid and its station up? -/
def State.slotUp (s : State) (e : DWord) (i : Nat) : Bool := (slotOf e i).any fun x => (s.station x.stn).up
/-- The way of `n` new packets, `at` of them atomics, of a flow (R142, R150 to R152, R155). After the failure of a flow the destination is
refused in every class until its entry is rewritten. An end that must first change its route and cannot is refused, and fails when the
packet is sent. -/
def State.way (s : State) (src dst : Nat) (c : TClass) (n atoms : Nat) : Way :=
  let room (e : SrcEnd) : Bool :=
    e.closing.isNone && e.retry.length + n ≤ 512 && (e.retry.filter fun r => r.pkt.hdr.opcode == 4).length + atoms ≤ 64
  let fresh : Way := if s.flowEnds ≥ 4096 then .wait else .native
  if s.inside dst then (match s.srcEnd? src dst c with
    | some e => if room e then .native else .wait
    | none => fresh)
  else if s.fab.failed.contains (1024 * src + dst) then .refused
  else
    let entry := s.route src dst
    let via (j : Option Nat) (nat : Way) : Way := match j.bind fun j => slotOf entry j with
      | some x => if x.nat then nat else .std x.stn
      | none => .refused
    match s.srcEnd? src dst c with
    | some e => via (if s.slotUp entry e.path then some e.path else s.slotFrom entry (e.path + 1)) (if room e then .native else .wait)
    | none => via (s.slotFrom entry 0) fresh

/-- An access refused at issue: where a flow to the destination still lives but has no slot left, it fails with it (R151, R155). -/
def State.refuseWay (s : State) (src dst : Nat) (c : TClass) : State :=
  if s.fab.failed.contains (1024 * src + dst) then s
  else match s.srcEnd? src dst c with
    | some e => if s.inside dst then s else s.changeRoute e
    | none => s
/-- Before an access goes by a standard path, a flow whose slot is gone changes its route (R151). -/
def State.reroute (s : State) (src dst : Nat) (c : TClass) : State :=
  match s.srcEnd? src dst c with
  | some e => if s.inside dst || s.slotUp (s.route src dst) e.path then s else s.changeRoute e
  | none => s

/-- The source end for a new packet: an open one, its route entry read again and its route changed where it must be, or a new one
(R151, R152). -/
def State.openSrc (s : State) (src dst : Nat) (c : TClass) : State × SrcEnd :=
  let entry := s.route src dst
  match s.srcEnd? src dst c with
  | some e =>
    if s.inside dst || s.slotUp entry e.path then
      let e := { e with entry := entry }
      (s.setSrc e, e)
    else
      let s := s.changeRoute e
      (s, (s.srcEnd? src dst c).getD e)
  | none =>
    let e : SrcEnd := { src := src, dst := dst, cls := c, inc := SMap.getD s.fab.srcInc (incKey src dst c) 0, next := 0, retry := [],
                        path := if s.inside dst then 0 else (s.slotFrom entry 0).getD 0, entry := entry, idle := s.cycle,
                        closing := none }
    (s.updFab fun b => { b with src := b.src ++ [e] }, e)

/-- Send a new sequenced packet on its flow (R150). -/
def State.sendOut (s : State) (src dst : Nat) (o : Out) : State :=
  let fresh := (s.srcEnd? src dst o.cls).isNone
  let (s, e) := s.openSrc src dst o.cls
  let h : Header := { cls := clsNo o.cls, vc := 0, seq := e.next, inc := e.inc, new := fresh, path := e.path, opcode := o.op,
                      dst := dst, src := src, len := (o.payload.length + 63) / 64, space := o.space, va := o.va, rsvd := false,
                      opf := o.opf, ref := clsNo o.cls, chunk := o.chunk }
  let p : Packet := { hdr := h, payload := pad64 o.payload }
  let r : Retry := { seq := e.next, pkt := p, owner := o.owner, acc := o.acc, parts := o.parts, gen := o.gen,
                     due := s.cycle + s.timeout, pois := [] }
  (s.setSrc { e with next := (e.next + 1) % 65536, retry := e.retry ++ [r] }).emit e.entry p

/-- Send an access on a standard path (R142): it is outstanding until its answer. -/
def State.sendStd (s : State) (stn dst : Nat) (o : Out) : State :=
  s.updFab fun b => { b with
    nextAcc := b.nextAcc + 1
    std := b.std ++ [{ tag := b.nextAcc, owner := o.owner, acc := o.acc, parts := o.parts, station := stn, dst := dst,
                       space := o.space, va := o.va, op := o.op, gen := o.gen,
                       len := if o.op = 1 ∨ o.op = 2 then (o.opf.extractLsb' 0 16).toNat else 4 }] }

/-! ## Answers at the source (R153, R164) -/

/-- A remote answer lands in registers of its lanes: the values of `parts`, from the answer's bytes; when the last lane's is there
an ordered atomic's acquire actions follow (R142, R275). -/
def State.landRemote (s : State) (t uid acc : Nat) (parts : List (Nat × Nat)) (bytes : List Byte) : State :=
  match s.thread? t with
  | none => s
  | some x =>
    if x.uid ≠ uid then s
    else match x.rem.find? fun r => r.acc == acc with
      | none => s
      | some r =>
        let m := maskOf fun l => parts.any fun p => p.1 == l
        let val (l : Nat) : Nat := match parts.find? fun p => p.1 == l with
          | some p => leNat ((bytes.drop p.2).take r.width.bytes)
          | none => 0
        let word (i l : Nat) : Word := match r.width with
          | .s8 => BitVec.ofInt 32 (signExt 8 (val l))
          | .s16 => BitVec.ofInt 32 (signExt 16 (val l))
          | _ => BitVec.ofNat 32 (val l / 2 ^ (32 * i))
        let x := (List.range r.abs.length).foldl (fun (x : Thread) i =>
          x.now (.v (r.abs.getD i 0)) m (lanes32.map fun l => if hasLane m l then word i l else 0)) x
        let left := r.lanes &&& ~~~m
        let rest : List RemDst := if left = 0 then x.rem.filter (fun q => q.acc != acc)
          else x.rem.map fun q => if q.acc = acc then { q with lanes := left } else q
        let x := { x with rem := rest }
        let s := s.setThread t x
        if left = 0 && r.hold then s.addAcquire t 0 x r.all .dom 0 else s

/-- A refused or poisoned access ends its work (R164, R176): STATUS 1 is PERM with INFO 4, whose AUX0 is the endpoint (R351; log 92),
STATUS 2 is POISON. -/
def State.failStatus (s : State) (status dst va : Nat) (owner : Owner) : State :=
  let fill (r : FaultRec) : FaultRec := if status = 2 then r else { r with addr := va, info := 4, aux0 := dst }
  let code := if status = 2 then codePOISON else codePERM
  match owner with
  | .lanes t u _ pc l => s.failOwner t u l (fill (s.placeRec code t l pc))
  | .entry q p => match (s.qpair? q).bind fun x => x.entry? p with
    | some e => s.entryFail q p (fill (s.entryRec code e.node q p))
    | none => s
  | .none => s

/-- A packet of an entry has been acknowledged; with its COLTRIG the entry leaves its queue (R173). -/
def State.entryAcked (s : State) (qp pos : Nat) : State :=
  match (s.qpair? qp), (s.qpair? qp).bind fun q => q.entry? pos with
  | some q, some e =>
    if e.trig && e.outstanding ≤ 1 then s.setQp qp { q with queue := q.queue.filter fun x => x.pos != pos }
    else s.updEntry qp pos fun e => { e with outstanding := e.outstanding - 1 }
  | _, _ => s

/-- Packets leave a retry buffer; an emptied one is idle from now (R152). -/
def State.freeRetry (s : State) (e : SrcEnd) (gone : Retry → Bool) : State :=
  let rest := e.retry.filter fun r => !gone r
  let s := s.setSrc { e with retry := rest, idle := if rest.isEmpty && !e.retry.isEmpty then s.cycle else e.idle }
  (e.retry.filter gone).foldl (fun s r => match r.owner with
    | .entry q p => s.entryAcked q p
    | _ => s) s

/-- An ACK at the source: it frees every packet up to its SEQ that has no response of its own; with STATUS 1 the packet at ESEQ was
refused (R153, R164). -/
def State.takeAck (s : State) (h : Header) : State :=
  match (clsOf h.ref).bind fun c => s.srcEnd? h.dst h.src c with
  | none => s
  | some e =>
    if e.inc ≠ h.inc then s
    else
      let bad := if h.status = 1 then e.retry.find? fun r => r.seq == h.eseq else none
      let s := match bad with
        | some r => (match r.owner with
          | .entry .. => s.failStatus 1 e.dst r.pkt.hdr.va r.owner
          | _ => s)
        | none => s
      let e := (s.srcEnd? h.dst h.src e.cls).getD e
      let s := s.freeRetry e fun r => ackFrees r.pkt.hdr.opcode && (h.seq + 65536 - r.seq) % 65536 < 32768
      match bad with
      | some r => (match r.owner with
        | .entry .. => s
        | _ => s.failStatus 1 e.dst r.pkt.hdr.va r.owner)
      | none => s

/-- A response at the source: the first for its sequence number is consumed (R153). -/
def State.takeResp (s : State) (c : TClass) (op : Nat) (p : Packet) : State :=
  match s.srcEnd? p.hdr.dst p.hdr.src c with
  | none => s
  | some e =>
    if e.inc ≠ p.hdr.inc then s
    else match e.retry.find? fun r => r.seq == p.hdr.seq && r.pkt.hdr.opcode == op with
      | none => s
      | some r =>
        let s := s.freeRetry e fun q => q.seq == r.seq
        if p.hdr.status ≠ 0 then s.failStatus p.hdr.status e.dst r.pkt.hdr.va r.owner
        else match r.owner with
          | .lanes t u _ _ _ =>
            if r.acc = 0 then s
            else s.landRemote t u r.acc r.parts (if op = 2 then p.payload else leBytes 4 (p.hdr.field 0 4))
          | _ => s

/-- CLOSEACK frees a closing end (R152). -/
def State.takeCloseAck (s : State) (h : Header) : State :=
  match (clsOf h.ref).bind fun c => s.srcEnd? h.dst h.src c with
  | some e => if e.inc = h.inc && e.closing.isSome then s.freeSrc e else s
  | none => s

/-! ## Control packets -/

/-- CLOSE on a flow's slot (R152). -/
def State.sendClose (s : State) (e : SrcEnd) : State :=
  let h : Header := { cls := 0, vc := 0, seq := (e.next + 65535) % 65536, inc := e.inc, new := false, path := e.path, opcode := 7,
                      dst := e.dst, src := e.src, len := 0, space := 0, va := 0, rsvd := false, opf := 0, ref := clsNo e.cls, chunk := false }
  (s.setSrc { e with closing := some s.cycle }).emit e.entry { hdr := h, payload := [] }

/-- A response or acknowledgement to a packet, on the responder's slot that its PATH names (R165). -/
def State.answer (s : State) (q : Header) (cls op seq : Nat) (opf : BitVec 128) (payload : List Byte) : State :=
  let h : Header := { cls := cls, vc := 0, seq := seq, inc := q.inc, new := false, path := q.path, opcode := op, dst := q.src,
                      src := q.dst, len := (payload.length + 63) / 64, space := 0, va := 0, rsvd := false, opf := opf,
                      ref := if sequenced q.opcode then q.cls else q.ref, chunk := false }
  s.emit (s.route q.dst q.src) { hdr := h, payload := pad64 payload }

end Sys2Proof.Machine
end

