-- ==== Sys2Proof/Machine/Deliver.lean ====
section
/-!
DEFINITION. What arrives at a hub: receiving ports (R148, R149), incarnations (R152), the destination's acceptance and delivery of
sequenced packets with what each performs (R153, R164, R166, R346), and the events of packets, CLOSE and CLOSEACK.
-/
namespace Sys2Proof.Machine

/-! ## Counters and chunk buffers (R169, R173, R177, R178) -/

/-- A counter's value. -/
def QPair.ctr (q : QPair) (c : Nat) : Nat := (SMap.getD q.ctrs c 0).toNat
/-- An increment of a counter saturates, and is written through to the counter block's home (R169, R173). -/
def State.addCounter (s : State) (n c a : Nat) : State :=
  match s.qpair? n with
  | some q =>
    let v := sat32 (q.ctr c + a)
    (s.setQp n { q with ctrs := SMap.set 0 q.ctrs c (BitVec.ofNat 32 v) }).residentWrite (q.block + 4 * c) (leBytes 4 v)
  | none => s
/-- The place in the hub's chunk buffer of `n` bytes at an offset of a space's allocation, where they lie inside (R169). -/
def State.chunkAt (s : State) (space off n : Nat) : Option Nat :=
  match (s.space space).chunk with
  | some (b, size) => if off + n ≤ size then some (b + off) else none
  | none => none
/-- A number in the chunk buffer. -/
def State.chunkGet (s : State) (a n : Nat) : Nat := leNat ((List.range n).map fun i => SMap.getD s.fab.chunk (a + i) 0)
/-- Change bytes of the chunk buffer; what is poisoned stays so (R353). -/
def State.chunkSet (s : State) (a : Nat) (bs : List Byte) : State :=
  s.updFab fun b => { b with chunk := (List.range bs.length).foldl (fun m i => SMap.set 0 m (a + i) (bs.getD i 0)) b.chunk }
/-- Write bytes into the chunk buffer: 64-bit words written whole lose their poison (R353). -/
def State.chunkPut (s : State) (a : Nat) (bs : List Byte) : State :=
  (s.chunkSet a bs).updFab fun b => { b with
    chunkPois := b.chunkPois.filter fun w => !(decide (a ≤ 8 * w) && decide (8 * w + 8 ≤ a + bs.length)) }
/-- Two block codes combine: the flags by OR, EB by maximum (R177). -/
def combineCode (a b : Nat) : Nat :=
  let fl : BitVec 16 := (BitVec.ofNat 16 a ||| BitVec.ofNat 16 b) &&& 0xE000
  fl.toNat + max (a % 512) (b % 512)
/-- Apply block codes to the chunk buffer, from the bytes of an EXPRED or of a local entry (R177). -/
def State.combineCodes (s : State) (a : Nat) (codes : List Nat) : State :=
  (List.range codes.length).foldl (fun s i =>
    s.chunkSet (a + 2 * i) (leBytes 2 (combineCode (s.chunkGet (a + 2 * i) 2) (codes.getD i 0)))) s
/-- Add integers to the 64-bit ones of the chunk buffer, modulo 2^64 (R178). -/
def State.addInts (s : State) (a : Nat) (xs : List Int) : State :=
  (List.range xs.length).foldl (fun s i =>
    s.chunkSet (a + 8 * i) (leBytes 8 (wrap 64 ((s.chunkGet (a + 8 * i) 8 : Nat) + xs.getD i 0)))) s

/-! ## Performing a packet -/

/-- Is a remote access of n bytes refused (R164, R339, R344)? -/
def State.refusedAt (s : State) (space va n : Nat) (a : Acc) : Bool :=
  space == 0 || n == 0 || 2 ^ 48 < va + n
  || [va, va + n - 1].any fun v => match s.page? space v with
      | some p => !p.lease || !p.allows a
      | none => true
/-- The pieces of a range by line: physical address, offset in the range, bytes. -/
def State.pieces (s : State) (space va n : Nat) : List (Nat × Nat × Nat) :=
  (span (va / 128) ((va + n - 1) / 128)).filterMap fun l =>
    let a := max va (l * 128)
    let b := min (va + n) (l * 128 + 128)
    (s.pa? space a).map fun pa => (pa, a - va, b - a)
/-- The bytes at pieces of the home copy, and whether one is poisoned. -/
def State.readPieces (s : State) (ps : List (Nat × Nat × Nat)) : List Byte × Bool :=
  (ps.flatMap fun p => Memory.bytes s.mem p.1 p.2.2, ps.any fun p => s.poisoned p.1 p.2.2)
/-- Write bytes at pieces of the home copy, as one access of an agent for each line (R129). -/
def State.writePieces (s : State) (who : Nat) (ps : List (Nat × Nat × Nat)) (bs : List Byte) : State :=
  ps.foldl (fun s p => s.agentWrite who p.1 ((bs.drop p.2.1).take p.2.2)) s

/-- Must the packet wait for a migration: a write or atomic to a frozen page, any access to a line with one queued, or any at all once
the page has its new home (R346)? -/
def State.frozenAt (s : State) (p : Packet) : Bool :=
  let h := p.hdr
  ([h.va, h.va + packetBytes p - 1].any fun v => match s.page? h.space v with
    | some g => g.mig != 0 && (h.opcode != 2 || g.mig == 2)
    | none => false)
  || s.fab.frozen.any fun q => !h.chunk && q.hdr.space == h.space && q.hdr.va / 128 ≤ (h.va + packetBytes p - 1) / 128
      && h.va / 128 ≤ (q.hdr.va + packetBytes q - 1) / 128

/-- The operation of an ATOM (R166). -/
def atomOp (aop ty : Nat) : AOp :=
  match aop with
  | 0 => if ty = 0 then .addS else .addN
  | 1 => if ty = 0 then .minS else .minN
  | 2 => if ty = 0 then .maxS else .maxN
  | 3 => .and
  | 4 => .or
  | 5 => .xor
  | 6 => .xchg
  | 7 => .cas
  | _ => .fadd

/-- What performing a packet comes to: it waits for lines; it is queued for a frozen page; or it is done, with its STATUS, an
atomic's old word, a read's bytes. -/
inductive Perf where
  | wait (s : State)
  | queued (s : State)
  | done (s : State) (status old : Nat) (data : List Byte)
  deriving DecidableEq, Repr

/-- Perform an access of memory at its home, as an agent there (R129, R164). -/
def State.performMem (s : State) (agent : Nat) (p : Packet) : Perf :=
  let h := p.hdr
  let n := packetBytes p
  if s.refusedAt h.space h.va n (if h.opcode = 2 then .load else .store) then
    .done s 1 0 (List.replicate (if h.opcode = 2 then n else 0) 0)
  else
    let ps := s.pieces h.space h.va n
    let lines := ps.map fun x => (lineOf x.1, h.opcode != 2)
    match s.homeAccess agent lines with
    | (s, false) => .wait s
    | (s, true) =>
      match h.opcode with
      | 1 => .done ((s.writePieces 0 ps (p.payload.take n)).homeDone agent lines) 0 0 []
      | 2 =>
        let (bs, bad) := s.readPieces ps
        let s := s.homeDone agent lines
        if bad then .done (s.markPois h.space h.va) 2 0 (List.replicate n 0) else .done s 0 0 bs
      | _ =>
        let (bs, bad) := s.readPieces ps
        if bad then .done ((s.homeDone agent lines).markPois h.space h.va) 2 0 []
        else
          let old := leNat bs
          let new := atomicWord (atomOp (h.field 0 1) (h.field 1 1)) (BitVec.ofNat 32 old) (BitVec.ofNat 32 (h.field 4 4))
            (BitVec.ofNat 32 (h.field 8 4))
          .done ((s.writePieces 0 ps (leBytes 4 new.toNat)).homeDone agent lines) 0 old []

/-- Perform a sequenced packet (R153, R164, R173, R177, R178). -/
def State.perform (s : State) (p : Packet) : Perf :=
  let h := p.hdr
  match h.opcode with
  | 9 => .done (s.addCounter (h.field 0 2) (h.field 2 1) (h.field 4 4)) 0 0 []
  | 10 =>
    match s.chunkAt h.space h.va (2 * h.nblk) with
    | some a => .done (s.combineCodes a ((List.range h.nblk).map fun i => leNat ((p.payload.drop (2 * i)).take 2))) 0 0 []
    | none => .done s 1 0 []
  | 11 =>
    match s.chunkAt h.space h.va (256 * h.nblk) with
    | some a => .done (s.addInts a ((List.range (32 * h.nblk)).map fun i => signExt 48 (leNat ((p.payload.drop (6 * i)).take 6)))) 0 0 []
    | none => .done s 1 0 []
  | _ =>
    if h.chunk then
      match s.chunkAt h.space h.va h.nbytes with
      | some a => .done (s.chunkPut a (p.payload.take h.nbytes)) 0 0 []
      | none => .done s 1 0 []
    else if !s.refusedAt h.space h.va (packetBytes p) (if h.opcode = 2 then .load else .store) && s.frozenAt p then
      .queued (s.updFab fun b => { b with frozen := b.frozen ++ [p] })
    else s.performMem (flowAgent h.dst h.src h.cls 0) p

/-! ## Delivery (R153) -/

/-- The answer of an atomic. -/
def State.answerAtom (s : State) (q : Header) (old status : Nat) : State :=
  s.answer q 0 5 q.seq (opfOf (old + status * 2 ^ 64)) []
/-- The answer of a read. -/
def State.answerRead (s : State) (q : Header) (status : Nat) (data : List Byte) : State :=
  s.answer q 1 3 q.seq (opfOf (q.nbytes + status * 2 ^ 64)) data
/-- A cumulative acknowledgement. -/
def State.answerAck (s : State) (q : Header) (cum : Nat) : State := s.answer q 0 6 cum 0 []
/-- The report of a refused write (R164). -/
def State.answerRefusal (s : State) (q : Header) (cum seq : Nat) : State :=
  s.answer q 0 6 cum (opfOf (2 ^ 64 + seq * 2 ^ 80)) []

/-- A destination end after the delivery of one more packet: `res` is an atomic's result, `bad` says that a write was refused. -/
def DstEnd.delivered (e : DstEnd) (p : Packet) (res : Option (Word × Nat)) (bad : Bool) : DstEnd :=
  let cum := p.hdr.seq
  { e with
    cum := cum
    accepted := e.accepted.filter fun q => q.hdr.seq != cum
    results := match res with
      | some r => ((cum, r.1, r.2) :: e.results).take 64
      | none => e.results
    refused := (if bad then cum :: e.refused else e.refused).filter fun q => (cum + 65536 - q) % 65536 < 512 }

/-- Deliver in sequence order what has been accepted, and answer: refusals as they are met; `resps` collects the answers of
atomics and reads; the ACK of the rest comes last, on the slot of the latest packet delivered. -/
def State.deliverFor : Nat → State → Nat → Nat → TClass → List (Header × Nat × Nat × List Byte) → Option Header → Bool → State
  | 0, s, _, _, _, _, _, _ => s
  | n + 1, s, me, src, c, resps, last, plain =>
    let close (s : State) (cum : Nat) : State :=
      let s := resps.foldl (fun s r => if r.1.opcode = 4 then s.answerAtom r.1 r.2.1 r.2.2.1 else s.answerRead r.1 r.2.2.1 r.2.2.2) s
      match last with
      | some h => if plain then s.answerAck h cum else s
      | none => s
    match s.dstEnd? me src c with
    | none => s
    | some e =>
      match e.accepted.find? fun p => p.hdr.seq == (e.cum + 1) % 65536 with
      | none => close s e.cum
      | some p =>
        let h := p.hdr
        match s.perform p with
        | .wait s => close s e.cum
        | .queued s =>
          State.deliverFor n (s.setDst (e.delivered p none false)) me src c resps (some h) (plain || ackFrees h.opcode)
        | .done s st old data =>
          if h.opcode = 4 then
            State.deliverFor n (s.setDst (e.delivered p (some (BitVec.ofNat 32 old, st)) false)) me src c
              (resps ++ [(h, old, st, [])]) (some h) plain
          else if h.opcode = 2 then
            State.deliverFor n (s.setDst (e.delivered p none false)) me src c (resps ++ [(h, 0, st, data)]) (some h) plain
          else
            let s := s.setDst (e.delivered p none (st != 0))
            State.deliverFor n (if st ≠ 0 then s.answerRefusal h h.seq h.seq else s) me src c resps (some h) true

/-- Perform again the reads that duplicates ask for (R153). -/
def State.readAgain (s : State) (me src : Nat) (c : TClass) : State :=
  match s.dstEnd? me src c with
  | none => s
  | some e => match e.again with
    | [] => s
    | p :: rest =>
      if !s.refusedAt p.hdr.space p.hdr.va (packetBytes p) .load && s.frozenAt p then s
      else match s.performMem (flowAgent me src (clsNo c) 1) p with
      | .done s st _ data => (s.setDst { e with again := rest }).answerRead p.hdr st data
      | .wait s => s
      | .queued s => s

/-- Go on with what a destination end has accepted. -/
def State.deliver (s : State) (me src : Nat) (c : TClass) : State :=
  match s.dstEnd? me src c with
  | some e => (s.deliverFor (e.accepted.length + 1) me src c [] none false).readAgain me src c
  | none => s

/-- A destination end takes a sequenced packet (R153). -/
def State.takeSequenced (s : State) (e : DstEnd) (p : Packet) : State :=
  let h := p.hdr
  let d := (h.seq + 65536 - e.cum + 65535) % 65536
  if 512 ≤ d then
    if h.opcode = 4 then
      match e.results.find? fun r => r.1 == h.seq with
      | some r => s.answerAtom h r.2.1.toNat r.2.2
      | none =>
        if s.fab.frozen.any fun q => q.hdr.src == h.src && q.hdr.dst == h.dst && q.hdr.cls == h.cls && q.hdr.inc == h.inc && q.hdr.seq == h.seq
        then s else s.answerAck h e.cum
    else if h.opcode = 2 then (s.setDst { e with again := e.again ++ [p] }).readAgain e.dst e.src e.cls
    else if e.refused.contains h.seq then s.answerRefusal h e.cum h.seq
    else s.answerAck h e.cum
  else if e.accepted.any fun q => q.hdr.seq == h.seq then s
  else (s.setDst { e with accepted := e.accepted ++ [p] }).deliver e.dst e.src e.cls

/-- Lines that the packets of a flow waited for at the homes are given up. -/
def State.dropFlow (s : State) (me src : Nat) (c : TClass) : State :=
  (s.dropAgent (flowAgent me src (clsNo c) 0)).dropAgent (flowAgent me src (clsNo c) 1)

/-- A sequenced packet meets the incarnation rules of R152. -/
def State.takePacket (s : State) (p : Packet) : State :=
  let h := p.hdr
  match clsOf h.cls with
  | none => s
  | some c =>
    if !s.inside h.dst then s
    else
      let de? := s.dstEnd? h.dst h.src c
      let same : Bool := match de? with
        | some e => e.inc == h.inc
        | none => false
      if same then
        match de? with
        | some e => s.takeSequenced e p
        | none => s
      else
        let k := incKey h.dst h.src c
        let cur := (SMap.getD s.fab.dstInc k 0 + 15) % 16
        let ahead := (h.inc + 16 - cur) % 16
        if !h.new || h.seq ≠ 0 || ahead = 0 || 8 < ahead then s
        else if de?.isNone && s.flowEnds ≥ 4096 then s
        else
          let s := match de? with
            | some e => s.dropFlow e.dst e.src e.cls
            | none => s
          let e : DstEnd := { src := h.src, dst := h.dst, cls := c, inc := h.inc, cum := 65535, accepted := [], again := [],
                              results := [], refused := [] }
          let s := s.updFab fun b => { b with
            dst := (b.dst.filter fun x => !(x.src == h.src && x.dst == h.dst && x.cls == c)) ++ [e]
            dstInc := SMap.set 0 b.dstInc k ((h.inc + 1) % 16) }
          s.takeSequenced e p

/-- CLOSE at the destination (R152): a matching end is freed, and every CLOSE is answered. -/
def State.takeClose (s : State) (h : Header) : State :=
  if !s.inside h.dst then s
  else
    let s := s.updFab fun b => { b with
      dst := b.dst.filter fun e => !(e.src == h.src && e.dst == h.dst && some e.cls == clsOf h.ref && e.inc == h.inc) }
    s.answer h 0 8 h.seq 0 []

/-- A packet that a port has accepted goes to its end (R148, R153). -/
def State.accept (s : State) (p : Packet) : State :=
  match p.hdr.opcode with
  | 3 => s.takeResp .express 2 p
  | 5 => s.takeResp .urgent 4 p
  | 6 => s.takeAck p.hdr
  | 7 => s.takeClose p.hdr
  | 8 => s.takeCloseAck p.hdr
  | 0 => s
  | _ => s.takePacket p

/-! ## Queued packets of a migrated page (R346) -/

/-- Is a page that a queued packet accesses frozen still, so that the old home does not forward it yet? -/
def State.stillFrozen (s : State) (p : Packet) : Bool :=
  [p.hdr.va, p.hdr.va + packetBytes p - 1].any fun v => match s.page? p.hdr.space v with
    | some g => g.mig == 1
    | none => false
/-- Perform, in order, the packets forwarded for pages that have their new homes; an atomic's result is cached and answered. -/
def State.thawFor : Nat → State → List Packet → List Packet → State
  | 0, s, kept, rest => s.updFab fun b => { b with frozen := kept ++ rest }
  | _, s, kept, [] => s.updFab fun b => { b with frozen := kept }
  | n + 1, s, kept, p :: rest =>
    let h := p.hdr
    if s.stillFrozen p then State.thawFor n s (kept ++ [p]) rest
    else match s.performMem (flowAgent h.dst h.src h.cls 2) p with
    | .done s st old data =>
      let s := match (clsOf h.cls).bind fun c => s.dstEnd? h.dst h.src c with
        | some e =>
          if e.inc ≠ h.inc then s
          else if h.opcode = 4 then
            (s.setDst { e with results := ((h.seq, BitVec.ofNat 32 old, st) :: e.results).take 64 }).answerAtom h old st
          else if h.opcode = 2 then s.answerRead h st data
          else if st ≠ 0 then (s.setDst { e with refused := h.seq :: e.refused }).answerRefusal h e.cum h.seq
          else s
        | none => s
      State.thawFor n s kept rest
    | .wait s => s.updFab fun b => { b with frozen := kept ++ p :: rest }
    | .queued s => s
/-- The new home performs what was queued while its page was migrated. -/
def State.thaw (s : State) : State := s.thawFor s.fab.frozen.length [] s.fab.frozen

/-! ## Receiving ports (R148, R149) -/

/-- Count a malformed header or flit of a port (R145, R370). -/
def State.countMalformed (s : State) (port n : Nat) : State :=
  s.updStation port fun t => { t with malformed := sat32 (t.malformed + n) }
/-- The packet of an open context of a class and VC. -/
def Station.ctx? (t : Station) (cls vc : Nat) : Option RxCtx := t.rx.find? fun r => r.cls == cls && r.vc == vc
/-- A malformed header flit is counted, and the open packet of its class and VC is cut short (R145, R149). -/
def State.badHeader (s : State) (port : Nat) (h : Header) : State :=
  (s.updStation port fun t => { t with rx := t.rx.filter fun r => !(r.cls == h.cls && r.vc == h.vc) }).countMalformed port 1
/-- Discard the open packet of a class and VC. -/
def Station.shut (t : Station) (cls vc : Nat) : Station := { t with rx := t.rx.filter fun r => !(r.cls == cls && r.vc == vc) }
/-- A well-formed header at a port, with the payload flits that follow it at once: the open packet of its class and VC is
discarded; it is accepted when its last flit is there (R148, R149). -/
def State.header (s : State) (port : Nat) (p : Packet) : State :=
  let h := p.hdr
  let got := p.payload.length / 64
  let s := s.updStation port fun t => t.shut h.cls h.vc
  if got < h.len then
    s.updStation port fun t => { t with rx := t.rx ++ [{ cls := h.cls, vc := h.vc, pkt := p, got := got, since := s.cycle }] }
  else (s.countMalformed port (got - h.len)).accept { p with payload := p.payload.take (64 * h.len) }
/-- A payload flit at a port (R148). -/
def State.payloadFlit (s : State) (port cls vc : Nat) (bs : List Byte) : State :=
  match (s.station port).ctx? cls vc with
  | none => s.countMalformed port 1
  | some r =>
    let p := { r.pkt with payload := r.pkt.payload ++ (bs ++ List.replicate (64 - bs.length) 0).take 64 }
    if r.got + 1 < p.hdr.len then
      s.updStation port fun t => { t with rx := t.rx.map fun x => if x.cls = cls ∧ x.vc = vc then { x with pkt := p, got := r.got + 1 } else x }
    else (s.updStation port fun t => t.shut cls vc).accept p

/-- Port number of the traffic between the package's own endpoints (R165), and the mark of an event that goes on with accepted
packets. -/
def loopPort : Nat := 18
def againPort : Nat := 19

/-- Remove the first of equal packets. -/
def removeFirst (p : Packet) : List Packet → List Packet
  | [] => []
  | q :: r => if q = p then r else q :: removeFirst p r

/-- A packet event of an operation: at a station's port, inside the hub, or going on with accepted packets. -/
def State.arrive (s : State) (op port : Nat) (p : Packet) : State :=
  if port = loopPort then
    if s.fab.loop.contains p then (s.updFab fun b => { b with loop := removeFirst p b.loop }).accept p else s
  else if port = againPort then
    if s.fab.frozen.contains p then s.thaw
    else match clsOf p.hdr.cls with
    | some c => s.deliver p.hdr.dst p.hdr.src c
    | none => s
  else if !(s.station port).up then s
  else if p.hdr.malformed || p.hdr.opcode ≠ op then s.badHeader port p.hdr
  else s.header port p

/-! ## Events -/

/-- ABORT (R149). -/
def execAbort (port cls vc : Nat) (s : State) : Host.Outcome State Fault Refusal :=
  .next (if (s.station port).up then s.updStation port fun t => t.shut cls vc else s)
/-- WR (R153, R164). -/
def execWr (port : Nat) (p : Packet) (s : State) : Host.Outcome State Fault Refusal := .next (s.arrive 1 port p)
/-- RDREQ (R153, R164). -/
def execRdreq (port : Nat) (p : Packet) (s : State) : Host.Outcome State Fault Refusal := .next (s.arrive 2 port p)
/-- RDRSP (R153). -/
def execRdrsp (port : Nat) (p : Packet) (s : State) : Host.Outcome State Fault Refusal := .next (s.arrive 3 port p)
/-- ATOM (R153, R164, R269). -/
def execAtomPacket (port : Nat) (p : Packet) (s : State) : Host.Outcome State Fault Refusal := .next (s.arrive 4 port p)
/-- ATOMRSP (R153). -/
def execAtomrsp (port : Nat) (p : Packet) (s : State) : Host.Outcome State Fault Refusal := .next (s.arrive 5 port p)
/-- ACK (R153, R164). -/
def execAck (port : Nat) (p : Packet) (s : State) : Host.Outcome State Fault Refusal := .next (s.arrive 6 port p)
/-- CLOSE (R152). -/
def execClose (port : Nat) (p : Packet) (s : State) : Host.Outcome State Fault Refusal := .next (s.arrive 7 port p)
/-- CLOSEACK (R152). -/
def execCloseack (port : Nat) (p : Packet) (s : State) : Host.Outcome State Fault Refusal := .next (s.arrive 8 port p)
/-- COLTRIG (R173). -/
def execColtrig (port : Nat) (p : Packet) (s : State) : Host.Outcome State Fault Refusal := .next (s.arrive 9 port p)
/-- EXPRED (R177). -/
def execExpred (port : Nat) (p : Packet) (s : State) : Host.Outcome State Fault Refusal := .next (s.arrive 10 port p)
/-- REDDATA (R178). -/
def execReddata (port : Nat) (p : Packet) (s : State) : Host.Outcome State Fault Refusal := .next (s.arrive 11 port p)
/-- A flit, which may be malformed (R143, R145, R148): a header, a payload flit, which continues the open packet, or an empty
position. -/
def execMalformedHeaderOrFlit (port : Nat) (f : Flit) (s : State) : Host.Outcome State Fault Refusal :=
  .next (if !(s.station port).up || f.kind = 12 then s
    else if 12 < f.kind.toNat then s.countMalformed port 1
    else if f.kind.toNat % 2 = 1 then
      (if f.header.malformed then s.badHeader port f.header
       else if f.header.opcode = 0 then s.updStation port fun t => t.shut f.header.cls f.header.vc
       else s.header port { hdr := f.header, payload := [] })
    else s.payloadFlit port (f.kind.toNat / 4) (f.kind.toNat / 2 % 2) (leBytes 64 f.bytes.toNat))

end Sys2Proof.Machine
end

