-- ==== Sys2Proof/Machine/Collective.lean ====
section
/-!
DEFINITION. Collective work entries: their layout and checks (R170, R171), the reduction format (R177 to R179), firing, what a
fired entry reads and sends (R172), and its completions (R173).
-/
namespace Sys2Proof.Machine

/-! ## Entries (R170) -/

/-- A field of an entry. -/
def bitsOf (x lo n : Nat) : Nat := x / 2 ^ lo % 2 ^ n
/-- The entry held in 32 bytes. -/
def workEntry (x : Nat) : WorkEntry :=
  { dst := bitsOf x 208 48, src := bitsOf x 160 48, len := bitsOf x 128 32, thresh := bitsOf x 96 32, aexp := bitsOf x 70 26,
    actr := bitsOf x 58 6, lctr := bitsOf x 52 6, rctr := bitsOf x 46 6, linc := bitsOf x 45 1 == 1, rinc := bitsOf x 44 1 == 1,
    fmt := bitsOf x 12 2, ph := bitsOf x 10 2, zero := bitsOf x 9 1 == 1, dk := bitsOf x 8 1, sk := bitsOf x 7 1, op := bitsOf x 0 4 }
/-- Is a reserved field nonzero? -/
def workReserved (x : Nat) : Bool := bitsOf x 64 6 != 0 || bitsOf x 14 30 != 0 || bitsOf x 4 3 != 0

/-- The element format. -/
def WorkEntry.ffmt (w : WorkEntry) : FFmt := if w.fmt = 0 then fp32 else bf16
/-- Bytes of an element. -/
def WorkEntry.ebytes (w : WorkEntry) : Nat := if w.fmt = 0 then 4 else 2
/-- Is the combination one of R170, and its LEN and AEXP within their values? -/
def WorkEntry.allowed (w : WorkEntry) : Bool :=
  1 ≤ w.len && w.len ≤ 2 ^ 24 && w.aexp % 2 == 0 && w.fmt ≤ 1 && w.ph ≤ 2
  && (match w.op, w.ph with
      | 0, _ => true
      | 1, 0 | 1, 1 => w.dk == 1 && !w.zero
      | 1, 2 => w.sk == 1 && w.dk == 0 && !w.zero
      | _, _ => false)
/-- Bytes of the source, where it is memory or chunk buffer. -/
def WorkEntry.srcBytes (w : WorkEntry) : Nat :=
  if w.op = 0 then (if w.zero then 0 else w.len)
  else if w.sk = 0 then w.len * 32 * w.ebytes
  else if w.ph = 0 then 2 * w.len else 256 * w.len
/-- Bytes of the destination. -/
def WorkEntry.dstBytes (w : WorkEntry) : Nat :=
  if w.op = 0 then w.len
  else match w.ph with
    | 0 => 2 * w.len
    | 1 => 256 * w.len
    | _ => w.len * 32 * w.ebytes
/-- Does the entry read agreed codes at AEXP? -/
def WorkEntry.codes (w : WorkEntry) : Bool := w.op == 1 && (w.ph == 2 || (w.ph == 1 && w.sk == 0))
/-- The checks of `colpost` on an entry (R171): every chunk range, the peer's too, against the space's own allocation (log 47). -/
def State.entryOk (s : State) (space x : Nat) : Bool :=
  let w := workEntry x
  !workReserved x && w.allowed
  && (w.sk == 0 || w.srcBytes == 0 || (s.chunkAt space w.src w.srcBytes).isSome)
  && (!w.codes || (s.chunkAt space w.aexp (2 * w.len)).isSome)
  && (if w.dk = 0 then w.dst + w.dstBytes ≤ 2 ^ 48 else (s.chunkAt space w.dst w.dstBytes).isSome)

/-- Entries that a work queue holds (R169). -/
def queueSize : Nat := 256

/-- Append an entry (R171). -/
def State.postEntry (s : State) (qp x node src peer pqp : Nat) (gen : Option (Nat × Nat × Nat)) : State :=
  match s.qpair? qp with
  | some q => s.setQp qp { q with
      nextPos := q.nextPos + 1
      queue := q.queue ++ [{ pos := q.nextPos, w := workEntry x, node := node, src := src, peer := peer, pqp := pqp, gen := gen,
                             fired := false, sent := 0, localDone := false, outstanding := 0, trig := false }] }
  | none => s

/-! ## The reduction format -/

/-- The block code of values (R177). -/
def blockCode (vs : List FVal) : Nat :=
  let nan := vs.any fun v => v == .nan
  let pinf := vs.any fun v => v == .inf false
  let ninf := vs.any fun v => v == .inf true
  let eb := vs.foldl (fun (b : Nat) v => match v with
    | .fin _ m e => if m = 0 then b else max b ((Nat.log2 m : Int) + e + 150).toNat
    | _ => b) 0
  (if nan then 2 ^ 15 else 0) + (if pinf then 2 ^ 14 else 0) + (if ninf then 2 ^ 13 else 0) + eb
/-- The integer of an element under an agreed EB (R178). -/
def alignInt (eb : Nat) (v : FVal) : Int :=
  match v with
  | .fin neg m e =>
    if eb = 0 ∨ m = 0 then 0
    else
      let top : Bool := if 0 ≤ e + 149 - eb then true
        else decide (2 ^ ((eb : Int) - 149 - e).toNat ≤ m)
      let sh : Int := e + 172 - eb
      let q : Nat := if top then 2 ^ 23 - 1 else if 0 ≤ sh then m * 2 ^ sh.toNat else m / 2 ^ (-sh).toNat
      if neg then -(q : Int) else q
  | _ => 0
/-- The element that ROOT writes for a sum under an agreed code (R179). -/
def rootElem (f : FFmt) (code : Nat) (sum : Int) : Nat :=
  let nan := code.testBit 15
  let pinf := code.testBit 14
  let ninf := code.testBit 13
  let eb := code % 512
  if nan || (pinf && ninf) then f.nan
  else if pinf || ninf then f.round .rne false (.inf ninf)
  else if eb = 0 ∨ sum = 0 then 0
  else f.round .rne false (.fin (sum < 0) sum.natAbs ((eb : Int) - 172))

/-! ## What a fired entry sends (R172) -/

/-- Units of an entry: bytes of a WRITE, blocks of a WRED; and how many of them one packet carries. -/
def WorkEntry.perPacket (w : WorkEntry) : Nat :=
  if w.op = 0 then 4096
  else match w.ph with
    | 0 => 32
    | 1 => 21
    | _ => if w.fmt = 0 then 32 else 64
/-- Bytes of source for `n` units from unit `i`: offset and length. -/
def WorkEntry.srcPart (w : WorkEntry) (i n : Nat) : Nat × Nat :=
  let u := if w.op = 0 then 1 else if w.sk = 0 then 32 * w.ebytes else if w.ph = 0 then 2 else 256
  (w.src + i * u, n * u)
/-- Numbers of `k` bytes each. -/
def groupsOf (k : Nat) (bs : List Byte) : List Nat := (List.range (bs.length / k)).map fun i => leNat ((bs.drop (k * i)).take k)
/-- The packet that carries `n` units from unit `i`, made of the source's bytes and the agreed codes. -/
def WorkEntry.out (w : WorkEntry) (space i n : Nat) (src : List Byte) (codes : List Nat) (owner : Owner)
    (gen : Option (Nat × Nat × Nat)) : Out :=
  let base : Out := { cls := .bulk, op := 1, space := space, va := 0, chunk := w.dk == 1, opf := 0, payload := [], owner := owner,
                      acc := 0, parts := [], gen := gen }
  let value (x : Nat) : FVal := w.ffmt.value x
  let blocks : List (List FVal) := (List.range n).map fun b => ((groupsOf w.ebytes src).drop (32 * b)).take 32 |>.map value
  if w.op = 0 then
    { base with va := w.dst + i, opf := opfOf n, payload := if w.zero then List.replicate n 0 else src }
  else match w.ph with
    | 0 =>
      let cs := if w.sk = 0 then blocks.map blockCode else groupsOf 2 src
      { base with cls := .urgent, op := 10, chunk := false, va := w.dst + 2 * i, opf := opfOf (n * 2 ^ 64),
                  payload := cs.flatMap fun c => leBytes 2 c }
    | 1 =>
      let qs : List Nat := if w.sk = 0 then
          (List.range n).flatMap fun b => (blocks.getD b []).map fun v => wrap 48 (alignInt (codes.getD b 0 % 512) v)
        else groupsOf 8 src
      { base with op := 11, chunk := false, va := w.dst + 256 * i, opf := opfOf (n * 2 ^ 64),
                  payload := qs.flatMap fun q => leBytes 6 q }
    | _ =>
      let sums := groupsOf 8 src
      let es := (List.range (32 * n)).map fun j => rootElem w.ffmt (codes.getD (j / 32) 0) (signExt 64 (sums.getD j 0))
      { base with va := w.dst + 32 * w.ebytes * i, opf := opfOf (32 * w.ebytes * n),
                  payload := es.flatMap fun e => leBytes w.ebytes e }

/-- The source of a part of an entry: its bytes and whether they are poisoned; a fault of its page; or a wait. -/
inductive SrcRead where
  | got (s : State) (bs : List Byte) (bad : Bool)
  | fault (va info : Nat)
  | wait (s : State)
  deriving DecidableEq, Repr
/-- Read a part of an entry's source, at L2, as an agent there (R172). -/
def State.readSource (s : State) (agent space : Nat) (w : WorkEntry) (i n : Nat) : SrcRead :=
  let (a, len) := w.srcPart i n
  if w.op = 0 && w.zero then .got s [] false
  else if w.sk = 1 then
    match s.chunkAt space a len with
    | some b => .got s ((List.range len).map fun j => SMap.getD s.fab.chunk (b + j) 0)
        (s.fab.chunkPois.any fun w => decide (b < 8 * w + 8) && decide (8 * w < b + len))
    | none => .got s (List.replicate len 0) false
  else match [a, a + len - 1].find? fun v => (s.denied space v .load).isSome with
    | some v => .fault v ((s.denied space v .load).getD 0)
    | none =>
      let ps := s.pieces space a len
      let lines := ps.map fun x => (lineOf x.1, false)
      if ps.any fun x => s.frozenRead space (a + x.2.1) then .wait s
      else match s.homeAccess agent lines with
      | (s, false) => .wait s
      | (s, true) =>
        let (bs, bad) := s.readPieces ps
        .got (s.homeDone agent lines) bs bad

/-- The class an entry sends in. -/
def WorkEntry.cls (w : WorkEntry) : TClass := if w.op = 1 && w.ph == 0 then .urgent else .bulk

/-- Send the next packet of a fired entry. -/
def State.entrySend (s : State) (qp : Nat) (q : QPair) (e : QEntry) : State :=
  let w := e.w
  match s.way e.src e.peer w.cls 1 0 with
  | .wait => s
  | .std _ => s.entryFail qp e.pos { s.entryRec codeFABRIC e.node qp e.pos with info := e.peer }
  | .refused =>
    let s := s.entryFail qp e.pos { s.entryRec codeFABRIC e.node qp e.pos with info := e.peer }
    s.refuseWay e.src e.peer w.cls
  | .native =>
    let n := min w.perPacket (w.len - e.sent)
    match s.readSource (entryAgent qp e.pos) q.space w e.sent n with
    | .wait s => s
    | .fault va i => s.entryFail qp e.pos { s.entryRec codePERM e.node qp e.pos with addr := va, info := i }
    | .got s bs bad =>
      if bad && w.sk == 1 then s.entryFail qp e.pos (s.entryRec codePOISON e.node qp e.pos)
      else if bad then
        let (a, len) := w.srcPart e.sent n
        let pa := s.sectorPa q.space a len
        (s.markPois q.space (a + s.sectorAt q.space a len)).entryFail qp e.pos { s.entryRec codePOISON e.node qp e.pos with addr := pa }
      else
        let codes := if w.codes then
            match s.chunkAt q.space w.aexp (2 * w.len) with
            | some a => (List.range n).map fun j => s.chunkGet (a + 2 * (e.sent + j)) 2
            | none => []
          else []
        (s.updEntry qp e.pos fun x => { x with sent := x.sent + n, outstanding := x.outstanding + 1 }).sendOut e.src e.peer
          (w.out q.space e.sent n bs codes (.entry qp e.pos) e.gen)

/-- Is the counter of an entry satisfied (R172)? -/
def QPair.armed (q : QPair) (e : QEntry) : Bool := e.w.thresh == 0 || e.w.thresh ≤ q.ctr e.w.actr

/-- ENTRY_FIRE (R172): an entry whose counter is satisfied fires, in posting order; a fired one goes on sending. -/
def execEntryFire (qp pos : Nat) (s : State) : Host.Outcome State Fault Refusal :=
  .next (match s.qpair? qp, (s.qpair? qp).bind fun q => q.entry? pos with
    | some q, some e =>
      if e.fired then (if e.sent < e.w.len then s.entrySend qp q e else s)
      else if (q.queue.find? fun x => !x.fired && q.armed x).map (·.pos) = some pos then
        (s.updEntry qp pos fun x => { x with fired := true }).entrySend qp q { e with fired := true }
      else s
    | _, _ => s)

/-- LOCAL_COMPLETION (R173). -/
def execLocalCompletion (qp pos : Nat) (s : State) : Host.Outcome State Fault Refusal :=
  .next (match (s.qpair? qp).bind fun q => q.entry? pos with
    | some e =>
      if e.fired && e.sent == e.w.len && !e.localDone then
        let s := s.updEntry qp pos fun x => { x with localDone := true }
        if e.w.linc then s.addCounter qp e.w.lctr 1 else s
      else s
    | none => s)

/-- REMOTE_COMPLETION (R173): every packet of the entry is acknowledged; a COLTRIG increments the peer's counter. -/
def execRemoteCompletion (qp pos : Nat) (s : State) : Host.Outcome State Fault Refusal :=
  .next (match s.qpair? qp, (s.qpair? qp).bind fun q => q.entry? pos with
    | some q, some e =>
      if e.localDone && e.outstanding == 0 && !e.trig then
        if !e.w.rinc then s.setQp qp { q with queue := q.queue.filter fun x => x.pos != pos }
        else match s.way e.src e.peer .urgent 1 0 with
          | .wait => s
          | .native =>
            (s.updEntry qp pos fun x => { x with trig := true, outstanding := 1 }).sendOut e.src e.peer
              { cls := .urgent, op := 9, space := q.space, va := 0, chunk := false, payload := [], owner := .entry qp pos, acc := 0,
                parts := [], gen := e.gen, opf := opfOf (e.pqp + e.w.rctr * 2 ^ 16 + 2 ^ 32) }
          | _ =>
            let s := s.entryFail qp pos { s.entryRec codeFABRIC e.node qp pos with info := e.peer }
            s.refuseWay e.src e.peer .urgent
      else s
    | _, _ => s)

end Sys2Proof.Machine
end

