-- ==== Sys2Proof/Machine/FabricEv.lean ====
section
/-!
DEFINITION. Events of stations and flows: the flit a sending port chooses (R146, R147), links going down and coming back (R154,
R352, R370), the timers of source ends (R152, R154), the lifetime of packets (R152), and the standard transport (R142).
-/
namespace Sys2Proof.Machine

/-! ## A flit position (R146, R147) -/

/-- Key of the round-robin order of new packets (R146). -/
def TxPkt.key (x : TxPkt) : Nat := x.pkt.hdr.src * 2048 + x.pkt.hdr.dst * 2 + x.pkt.hdr.vc
/-- The waiting packet of a class that starts next: the first of the least key after the class's last, wrapping. -/
def Station.nextOf (t : Station) (c : Nat) : Option TxPkt :=
  let ws := t.waiting.filter fun x => x.pkt.hdr.cls == c
  let keys := sortAsc (ws.map TxPkt.key)
  let k? := match keys.find? fun k => t.lastKey.getD c 0 < k with
    | some k => some k
    | none => keys.head?
  k?.bind fun k => ws.find? fun x => x.key == k
/-- The open packet of a class. -/
def Station.openOf (t : Station) (c : Nat) : Option TxPkt := t.open'.find? fun x => x.pkt.hdr.cls == c
/-- Remove the first waiting packet equal to one. -/
def dropTx (x : TxPkt) : List TxPkt → List TxPkt
  | [] => []
  | y :: r => if y = x then r else y :: dropTx x r
/-- Open the next packet of a class, under a new arbitration register where one waits (R323). -/
def Station.start (t : Station) (c : Nat) (x : TxPkt) : Station :=
  { t with
    waiting := dropTx x t.waiting
    open' := t.open' ++ [x]
    lastKey := setAt t.lastKey c x.key
    urun := match t.arb with
      | some a => a.1
      | none => t.urun
    erun := match t.arb with
      | some a => a.2
      | none => t.erun
    arb := none }
/-- Send one flit of the open packet of a class, and count the runs (R147). -/
def Station.flit (t : Station) (c : Nat) : Station :=
  let open1 := t.open'.map fun x => if x.pkt.hdr.cls = c then { x with sent := x.sent + 1 } else x
  let rest := open1.filter fun x => !(x.pkt.hdr.cls == c && x.pkt.hdr.len + 1 ≤ x.sent)
  let below (n : Nat) : Bool := t.open'.any fun x => n < x.pkt.hdr.cls
  { t with
    open' := rest
    urgentRun := if c = 0 && below 0 then t.urgentRun + 1 else 0
    expressRun := if c ≤ 1 && below 1 then t.expressRun + 1 else 0 }
/-- The class that step 2 of R146 would send a flit of. -/
def Station.pick (t : Station) : Option Nat :=
  [0, 1, 2].find? fun c => (t.openOf c).isSome || (t.nextOf c).isSome
/-- The class of the oldest suspended packet: the lowest open one. -/
def Station.oldest (t : Station) : Option Nat := [2, 1, 0].find? fun c => (t.openOf c).isSome
/-- One flit position of a sending port (R146, R147). -/
def Station.position (t : Station) : Station :=
  match t.pick with
  | none => t
  | some c =>
    let due : Bool := max 1 t.urun ≤ t.urgentRun || max 1 t.erun ≤ t.expressRun
    let forced := t.oldest.filter fun o => due && c < o
    match forced with
    | some o => t.flit o
    | none =>
      match t.openOf c, t.nextOf c with
      | some _, _ => t.flit c
      | none, some x => (t.start c x).flit c
      | none, none => t
/-- FLIT_POSITION (R146). -/
def execFlitPosition (station : Nat) (s : State) : Host.Outcome State Fault Refusal :=
  .next (if (s.station station).up then s.updStation station Station.position else s)

/-! ## Links (R154, R352, R370) -/

/-- Cycles of 60 s. -/
def minuteCycles : Nat := 60000000 * usCycles
/-- The class of the FABRIC record of a standard access. R142 gives that transport no classes: the model takes the one in which a native
path would carry the operation, of a write the bulk class, of an atomic the urgent one (log 91, DESIGN CHOICE). -/
def StdAcc.cls (a : StdAcc) : Nat := if a.op = 2 then 1 else if a.op = 1 then 2 else 0
/-- Fail the standard accesses that a predicate picks (R142). -/
def State.failStd (s : State) (p : StdAcc → Bool) : State :=
  let gone := s.fab.std.filter p
  let s := s.updFab fun b => { b with std := b.std.filter fun a => !p a }
  gone.foldl (fun s a => match a.owner with
    | .lanes t u _ pc l => s.failOwner t u l
        { s.placeRec codeFABRIC t l pc with info := a.dst, aux0 := a.cls }
    | _ => s) s
/-- The station's link goes down: what it holds is lost, and its flows change route. -/
def State.stationDown (s : State) (n : Nat) : State :=
  let t := s.station n
  if !t.up then s
  else
    let downs := s.cycle :: t.downs.filter fun d => s.cycle < d + minuteCycles
    let s := s.updStation n fun t => { t with
      up := false, linkdown := sat32 (t.linkdown + 1), rx := [], open' := [], waiting := [], urgentRun := 0, expressRun := 0,
      downs := downs, heldDown := t.heldDown || 4 ≤ downs.length }
    let mine := s.fab.src.filter fun e => !s.inside e.dst && (match slotOf e.entry e.path with
      | some x => x.stn == n
      | none => false)
    let s := mine.foldl (fun s e => match s.srcEnd? e.src e.dst e.cls with
      | some e => s.changeRoute e
      | none => s) s
    s.failStd fun a => a.station == n
/-- LINK_DOWN (R149, R154, R370). -/
def execLinkDown (station : Nat) (s : State) : Host.Outcome State Fault Refusal := .next (s.stationDown station)
/-- LINK_RETRAINING (R352): links 0 and 1 are the UCIe links and 2 the span, which retransmit and change timing only; 3 + n is
station n, which comes up unless it is held down (R370). -/
def execLinkRetraining (link : Nat) (s : State) : Host.Outcome State Fault Refusal :=
  .next (if link < 3 then s
    else s.updStation (link - 3) fun t =>
      if t.up || t.heldDown then t else { t with up := true, retrain := sat32 (t.retrain + 1) })

/-! ## Timers of source ends (R152, R154) -/

/-- Has the oldest unacknowledged packet of an end waited out the timeout (R154)? -/
def State.timedOut (s : State) (e : SrcEnd) : Bool := e.retry.head?.any fun r => r.due ≤ s.cycle
/-- ACKNOWLEDGEMENT_TIMEOUT_EXPIRY (R154). -/
def execAcknowledgementTimeoutExpiry (src dst : Nat) (cls : TClass) (s : State) : Host.Outcome State Fault Refusal :=
  .next (match s.srcEnd? src dst cls with
    | some e => if s.timedOut e then s.changeRoute e else s
    | none => s)
/-- Cycles of 100 µs and 20 µs (R152), and of a packet's 5 µs (R152). -/
def idleCycles : Nat := 100 * usCycles
def resendCycles : Nat := 20 * usCycles
def lifeCycles : Nat := 5 * usCycles
/-- Has an end been idle long enough to close? -/
def State.idleDue (s : State) (e : SrcEnd) : Bool := e.closing.isNone && e.retry.isEmpty && e.idle + idleCycles ≤ s.cycle
/-- Must CLOSE be sent again? -/
def State.resendDue (s : State) (e : SrcEnd) : Bool :=
  match e.closing with
  | some t => t + resendCycles ≤ s.cycle
  | none => false
/-- FLOW_IDLE_CLOSE (R152). -/
def execFlowIdleClose (src dst : Nat) (cls : TClass) (s : State) : Host.Outcome State Fault Refusal :=
  .next (match s.srcEnd? src dst cls with
    | some e => if s.idleDue e then s.sendClose e else s
    | none => s)
/-- CLOSE_RESEND (R152). -/
def execCloseResend (src dst : Nat) (cls : TClass) (s : State) : Host.Outcome State Fault Refusal :=
  .next (match s.srcEnd? src dst cls with
    | some e => if s.resendDue e then s.sendClose e else s
    | none => s)
/-- PACKET_LIFETIME_EXPIRY (R152): a port discards a packet it has held for 5 µs; `idx` counts the waiting ones, then the open, then those
being received. -/
def execPacketLifetimeExpiry (station idx : Nat) (s : State) : Host.Outcome State Fault Refusal :=
  .next (
    let t := s.station station
    let n := t.waiting.length
    let old (x : Option TxPkt) : Bool := match x with
      | some x => x.since + lifeCycles ≤ s.cycle
      | none => false
    if idx < n then
      (if old t.waiting[idx]? then s.updStation station fun t => { t with waiting := t.waiting.eraseIdx idx } else s)
    else
      let i := idx - n
      let m := t.open'.length
      if i < m then (if old t.open'[i]? then s.updStation station fun t => { t with open' := t.open'.eraseIdx i } else s)
      else if t.rx[i - m]?.any fun r => r.since + lifeCycles ≤ s.cycle then
        s.updStation station fun t => { t with rx := t.rx.eraseIdx (i - m) }
      else s)

/-! ## The standard transport (R142) -/

/-- A standard request as a packet. -/
def stdPacket (op src space va : Nat) (opf : BitVec 128) (bs : List Byte) : Packet :=
  { hdr := { cls := 1, vc := 0, seq := 0, inc := 0, new := false, path := 0, opcode := op, dst := 0, src := src, len := 0,
             space := space, va := va, rsvd := false, opf := opf, ref := 0, chunk := false }, payload := bs }
/-- AOP and TYPE of an operation (R166). -/
def aopOf (op : AOp) : Nat × Nat :=
  let aop := match op with
    | .addS | .addN => 0
    | .minS | .minN => 1
    | .maxS | .maxN => 2
    | .and => 3
    | .or => 4
    | .xor => 5
    | .xchg => 6
    | .cas => 7
    | .fadd => 8
  let type := match op with
    | .addS | .minS | .maxS => 0
    | .addN | .minN | .maxN => 1
    | .fadd => 3
    | _ => 2
  (aop, type)
/-- Perform standard requests in the order of their arrival while lines are there. -/
def State.serveStdFor : Nat → State → State
  | 0, s => s
  | n + 1, s =>
    match s.fab.stdIn with
    | [] => s
    | p :: rest =>
      if !s.refusedAt p.hdr.space p.hdr.va (packetBytes p) (if p.hdr.opcode = 2 then .load else .store) && s.frozenAt p then s
      else match s.performMem stdAgent p with
        | .wait s => s
        | .queued s => s
        | .done s _ _ _ => State.serveStdFor n (s.updFab fun b => { b with stdIn := rest })
/-- A standard request arrives. -/
def State.takeStd (s : State) (p : Packet) : State :=
  let s := s.updFab fun b => { b with stdIn := b.stdIn ++ [p] }
  s.serveStdFor s.fab.stdIn.length
/-- The end of one of this package's standard accesses: STATUS 3 is the failure of its link or of a switch on its way, which is FABRIC. -/
def State.endStd (s : State) (tag status : Nat) (bs : List Byte) : State :=
  match s.fab.std.find? fun a => a.tag == tag with
  | none => s
  | some a =>
    let s := s.updFab fun b => { b with std := b.std.filter fun x => x.tag != tag }
    if status = 3 then { s with fab := { s.fab with std := s.fab.std ++ [a] } }.failStd fun x => x.tag == tag
    else if status ≠ 0 then s.failStatus status a.dst a.va a.owner
    else match a.owner with
      | .lanes t u _ _ _ => if a.acc = 0 then s else s.landRemote t u a.acc a.parts bs
      | _ => s
/-- STANDARD_TRANSPORT (R142): requests are performed as R164 gives, and answered on the path they came by. -/
def execStandardTransport (m : StdMsg) (s : State) : Host.Outcome State Fault Refusal :=
  .next (match m with
    | .read src space va n _ => s.takeStd (stdPacket 2 src space va (opfOf n) [])
    | .write src space va bs _ => s.takeStd (stdPacket 1 src space va (opfOf bs.length) bs)
    | .atom src space va op a b _ =>
      let (o, ty) := aopOf op
      s.takeStd (stdPacket 4 src space va (opfOf (o + ty * 256 + a.toNat * 2 ^ 32 + b.toNat * 2 ^ 64)) [])
    | .done tag status bs => s.endStd tag status bs
    | .again => s.serveStdFor s.fab.stdIn.length)

end Sys2Proof.Machine
end

