-- ==== Sys2Proof/Machine/Remote.lean ====
section
/-!
DEFINITION. Remote access and posting (R157 to R164, R167, R171, R174, R275 to R277): capability checks and charges, the packets of
each instruction, `fencef`, counters and `colpost`.
-/
namespace Sys2Proof.Machine

/-! ## Capabilities (R158 to R160) -/

/-- A slot that was never filled: its generation is 1 (R347). -/
def Cap.reset : Cap := { gen := 1, retired := false, body := none }
/-- A slot of a space's table. -/
def State.cap (s : State) (space slot : Nat) : Cap := SMap.getD (s.space space).caps slot Cap.reset
/-- Change a slot. -/
def State.updCap (s : State) (space slot : Nat) (f : Cap → Cap) : State :=
  s.updSpace space fun x => { x with caps := SMap.set Cap.reset x.caps slot (f (SMap.getD x.caps slot Cap.reset)) }
/-- The slot of a handle. -/
def handleSlot (h : Word) : Nat := h.toNat % 65536
/-- The generation that a handle expects. -/
def handleGen (h : Word) : Nat := h.toNat / 65536 % 256
/-- The first two checks of R159: the entry, or the fault. -/
def State.capOf (s : State) (space : Nat) (h : Word) : Sum FInfo CapBody :=
  let k := s.cap space (handleSlot h)
  if h.toNat / 2 ^ 24 ≠ 0 ∨ (s.space space).capSlots ≤ handleSlot h then .inl { code := codeCAPINVAL, info := h.toNat }
  else match k.body with
    | none => .inl { code := codeCAPINVAL, info := h.toNat }
    | some b => if k.gen ≠ handleGen h then .inl { code := codeCAPGEN, info := h.toNat } else .inr b
/-- CAPPERM with a handle. -/
def capPerm (h : Word) : FInfo := { code := codeCAPPERM, info := h.toNat }
/-- What identifies an accepted transfer for a revocation (R161). -/
def acceptedBy (space : Nat) (h : Word) : Option (Nat × Nat × Nat) := some (space, handleSlot h, handleGen h)

/-- A window's permission. -/
inductive WPerm where
  | r | w | a
  deriving DecidableEq, Repr
/-- A window as an instruction sees it: destination endpoint and space, base, allowance. -/
structure Win where
  dest : Nat
  space : Nat
  base : Nat
  allow : Nat
  deriving DecidableEq, Repr
/-- An allowance that is never charged (R157). -/
def unlimited : Nat := 2 ^ 48 - 1
/-- The checks of R159 for a window instruction: lanes, their offsets, their width, the permission, the charge. -/
def State.window (s : State) (c : Ctx) (h : Word) (off : Nat → Nat) (w : Nat) (p : WPerm) (charge : Nat) : Sum FInfo Win :=
  match s.capOf c.x.space h with
  | .inl f => .inl f
  | .inr b =>
    let bad := maskOf fun l => hasLane c.lanes l && off l % w != 0
    if bad != 0 then
      .inl { code := codeALIGN, info := bad.toNat, addr := off (lowLane bad) + (match b with
        | .window _ _ base .. => base
        | .queuePair .. => 0) }
    else match b with
      | .queuePair .. => .inl (capPerm h)
      | .window dest space base len r wr at' allow =>
        let may : Bool := match p with
          | .r => r
          | .w => wr
          | .a => at'
        if !may || (lanesOf c.lanes).any (fun l => len < off l + w) || (allow ≠ unlimited && allow < charge) then .inl (capPerm h)
        else .inr { dest := dest, space := space, base := base, allow := allow }
/-- Charge a window's allowance (R160). -/
def State.charge (s : State) (space : Nat) (h : Word) (n : Nat) : State :=
  s.updCap space (handleSlot h) fun k => { k with body := k.body.map fun b => match b with
    | .window d sp base len r w a allow => .window d sp base len r w a (if allow = unlimited then allow else allow - n)
    | x => x }

/-! ## Sending -/

/-- The issuing endpoint of a thread: its die's. -/
def State.endpoint (s : State) (die : Nat) : Nat := s.fab.eps.getD die 0
/-- The bytes that a packet to send accesses. -/
def Out.bytes (o : Out) : Nat := if o.op = 1 ∨ o.op = 2 then (o.opf.extractLsb' 0 16).toNat else 4
/-- Does a range of lines meet that of a packet? -/
def Out.meets (o : Out) (va n : Nat) : Bool := o.va / 128 ≤ (va + n - 1) / 128 && va / 128 ≤ (o.va + o.bytes - 1) / 128
/-- Was a packet issued by the thread? -/
def Ctx.owns (c : Ctx) (o : Owner) : Bool :=
  match o with
  | .lanes t u _ _ _ => t == c.t && u == c.x.uid
  | _ => false
/-- Is an earlier packet of the same thread to one of the lines unanswered, in another class or on another transport (R163)? -/
def State.lineBusy (s : State) (c : Ctx) (dst : Nat) (cls : Option TClass) (os : List Out) : Bool :=
  os.any fun o =>
    (s.fab.src.any fun e => e.dst == dst && cls != some e.cls && e.retry.any fun r =>
      c.owns r.owner && r.pkt.hdr.space == o.space && o.meets r.pkt.hdr.va (packetBytes r.pkt))
    || s.fab.std.any fun a => a.dst == dst && c.owns a.owner && a.space == o.space && o.meets a.va a.len

/-- FABRIC at issue (R142, R152, R155). -/
def State.fabricAt (s : State) (c : Ctx) (src dst : Nat) (cls : TClass) : Done :=
  let s := s.refuseWay src dst cls
  if s.alive c.t c.x.uid then .failed s { code := codeFABRIC, info := dst, aux0 := clsNo cls } else .ends s

/-- Send the packets of an instruction when all of them can go; `std` says whether a standard path can carry them (R142). -/
def State.sendAll (s : State) (c : Ctx) (dst : Nat) (cls : TClass) (std : Bool) (os : List Out) (k : State → Done) : Done :=
  let src := s.endpoint c.x.die
  match s.way src dst cls os.length (os.filter fun o => o.op == 4).length with
  | .refused => s.fabricAt c src dst cls
  | .wait => .hold
  | .std stn =>
    if !std then s.fabricAt c src dst cls
    else if s.lineBusy c dst none os then .hold
    else k (os.foldl (fun s o => s.sendStd stn dst o) (s.reroute src dst cls))
  | .native => if s.lineBusy c dst (some cls) os then .hold else k (os.foldl (fun s o => s.sendOut src dst o) s)
/-- Does the path refuse the instruction before it waits for anything (R142, R155)? -/
def State.refusesNow (s : State) (c : Ctx) (dst : Nat) (cls : TClass) (std : Bool) : Bool :=
  match s.way (s.endpoint c.x.die) dst cls 1 0 with
  | .refused => true
  | .std _ => !std
  | _ => false

/-- The owner of a packet of some lanes. -/
def Ctx.owner (c : Ctx) (m : Mask) : Owner := .lanes c.t c.x.uid m c.pc c.x.launch
/-- Absolute indexes of a destination's registers. -/
def Ctx.absRegs (c : Ctx) (d : Reg) (n : Nat) : List Nat :=
  match d with
  | .v r => (List.range n).map fun i => c.x.winBase + r.val + i
  | _ => []
/-- A destination waits for remote answers. -/
def State.await (s : State) (c : Ctx) (d : Reg) (w : Width) (acc : Nat) (hold : Bool) : State :=
  s.updThread c.t fun x =>
    { x with rem := x.rem ++ [{ acc := acc, abs := c.absRegs d w.regs, lanes := c.lanes, all := if hold then c.act else c.lanes, width := w,
                                hold := hold }] }
/-- A fresh access number. -/
def State.freshAcc (s : State) : Nat × State := (s.fab.nextAcc, s.updFab fun b => { b with nextAcc := b.nextAcc + 1 })

/-! ## Loads and stores (R162, R163) -/

/-- The read requests of a remote load: one for each line, from its lowest byte to its highest. -/
def Ctx.readOuts (c : Ctx) (w : Nat) (win : Win) (h : Word) (va : Nat → Nat) (acc : Nat) : List Out :=
  let ls := lanesOf c.lanes
  (sortAsc (ls.map fun l => va l / 128)).map fun line =>
    let mine := ls.filter fun l => va l / 128 == line
    let vs := sortAsc (mine.map va)
    let lo := vs.headD 0
    let hi := vs.getLastD 0 + w
    { cls := .express, op := 2, space := win.space, va := lo, chunk := false, opf := opfOf (hi - lo), payload := [],
      owner := c.owner (maskOf fun l => mine.contains l), acc := acc, parts := mine.map fun l => (l, va l - lo),
      gen := acceptedBy c.x.space h }

/-- `ldf` (R162, R163, R275). -/
def execLdf (w : Width) (pg : Guard) (d : Reg) (o : OPair) (h : Fin 24) (s : State) : Host.Outcome State Fault Refusal :=
  issue (.ldf w pg d o h) s fun c s =>
    if c.lanes = 0 then .fall s
    else
      let hw := c.x.kreg h.val
      let off (l : Nat) : Nat := (c.x.getO o l).toNat
      let n := w.bytes * laneCount c.lanes
      match s.window c hw off w.bytes .r n with
      | .inl f => .fault f
      | .inr win =>
        let (acc, s) := s.freshAcc
        s.sendAll c win.dest .express true (c.readOuts w.bytes win hw (fun l => (win.base + off l) % 2 ^ 48) acc) fun s =>
          .fall ((s.charge c.x.space hw n).await c d w acc false)

/-- A run of bytes from consecutive lanes. -/
structure Run where
  va : Nat
  bytes : List Byte
  lanes : Mask
  deriving DecidableEq, Repr
/-- Join the lanes' bytes, in ascending lane order, into runs of at most `cap` bytes (R163). -/
def joinRuns (cap : Nat) (va : Nat → Nat) (bytes : Nat → List Byte) : List Nat → List Run → List Run
  | [], rs => rs.reverse
  | l :: ls, rs =>
    match rs with
    | r :: rest =>
      if r.va + r.bytes.length = va l ∧ r.bytes.length + (bytes l).length ≤ cap then
        joinRuns cap va bytes ls ({ r with bytes := r.bytes ++ bytes l, lanes := r.lanes ||| (1 <<< l) } :: rest)
      else joinRuns cap va bytes ls ({ va := va l, bytes := bytes l, lanes := 1 <<< l } :: rs)
    | [] => joinRuns cap va bytes ls [{ va := va l, bytes := bytes l, lanes := 1 <<< l }]

/-- A remote store in a class (R162, R163). -/
def storeRemote (urg : Bool) (w : Width) (d : Reg) (o : OPair) (h : Fin 24) (c : Ctx) (s : State) : Done :=
  if c.lanes = 0 then .fall s
  else
    let hw := c.x.kreg h.val
    let off (l : Nat) : Nat := (c.x.getO o l).toNat
    let n := w.bytes * laneCount c.lanes
    let cls : TClass := if urg then .urgent else .bulk
    match s.window c hw off w.bytes .w n with
    | .inl f => .fault f
    | .inr win =>
      let runs := joinRuns (if urg then 64 else 4096) (fun l => (win.base + off l) % 2 ^ 48)
        (fun l => leBytes w.bytes (c.dataAt w d l)) (lanesOf c.lanes) []
      let os : List Out := runs.map fun r =>
        { cls := cls, op := 1, space := win.space, va := r.va, chunk := false, opf := opfOf r.bytes.length, payload := r.bytes,
          owner := c.owner r.lanes, acc := 0, parts := [], gen := acceptedBy c.x.space hw }
      s.sendAll c win.dest cls true os fun s => .fall ((s.charge c.x.space hw n).unstage (s.whoOf c.x.launch))

/-- `stf` (R162, R163, R275). -/
def execStf (w : Width) (pg : Guard) (d : Reg) (o : OPair) (h : Fin 24) (s : State) : Host.Outcome State Fault Refusal :=
  issue (.stf w pg d o h) s (storeRemote false w d o h)
/-- `stf.urg` (R162, R163, R275). -/
def execStfUrg (w : Width) (pg : Guard) (d : Reg) (o : OPair) (h : Fin 24) (s : State) : Host.Outcome State Fault Refusal :=
  issue (.stfUrg w pg d o h) s (storeRemote true w d o h)

/-! ## Atomics and flagged fences -/

/-- ORDER of an atomic (R166). -/
def orderNo : Option AOrd → Nat
  | none => 0
  | some .acq => 1
  | some .rel => 2
  | some .ar => 3
/-- The release half of a remote instruction, at domain scope, over some lanes (R125, R142, R167). -/
def State.relRemote (s : State) (c : Ctx) (ord : Option AOrd) (m : Mask) (k : State → Done) : Done :=
  relBefore c (if ord = some .rel ∨ ord = some .ar then some .dom else none) m c.part s fun s _ => k s

/-- `atomf` (R162, R163, R275): the results come with the responses; with .acq or .ar the split waits for them (R142). -/
def execAtomf (op : AOp) (ord : Option AOrd) (pg : Guard) (d : Reg) (o : OPair) (h : Fin 24) (a : Reg) (s : State) :
    Host.Outcome State Fault Refusal :=
  issue (.atomf op ord pg d o h a) s fun c s =>
    if c.lanes = 0 then .fall s
    else
      let hw := c.x.kreg h.val
      let off (l : Nat) : Nat := (c.x.getO o l).toNat
      let n := 4 * laneCount c.lanes
      let (aop, ty) := aopOf op
      match s.window c hw off 4 .a n with
      | .inl f => .fault f
      | .inr win =>
        if s.refusesNow c win.dest .urgent (Config.stdAtomic (4 * aop + ty)) then s.fabricAt c (s.endpoint c.x.die) win.dest .urgent
        else s.relRemote c ord c.lanes fun s =>
          let (acc, s) := s.freshAcc
          let os : List Out := (lanesOf c.lanes).map fun l =>
            { cls := .urgent, op := 4, space := win.space, va := (win.base + off l) % 2 ^ 48, chunk := false, payload := [],
              opf := opfOf (aop + ty * 256 + orderNo ord * 65536 + (c.x.get a l).toNat * 2 ^ 32
                + (if op = .cas then (c.x.get d l).toNat else 0) * 2 ^ 64),
              owner := c.owner (1 <<< l), acc := acc, parts := [(l, 0)], gen := acceptedBy c.x.space hw }
          s.sendAll c win.dest .urgent (Config.stdAtomic (4 * aop + ty)) os fun s =>
            .fall (((s.charge c.x.space hw n).unstage (s.whoOf c.x.launch)).await c d .b32 acc (ord = some .acq ∨ ord = some .ar))

/-- `fencef` (R167, R275): checks, watches, the release at domain scope, then one flagged add, which stays outstanding. -/
def execFencef (pg : Guard) (d : Reg) (o : OPair) (h : Fin 24) (s : State) : Host.Outcome State Fault Refusal :=
  issue (.fencef pg d o h) s fun c s =>
    if c.lanes = 0 then .fall s
    else
      let hw := c.x.kreg h.val
      let off := (c.x.getO o (lowLane c.lanes)).toNat
      match s.window c hw (fun _ => off) 4 .a 4 with
      | .inl f => .fault f
      | .inr win =>
        if s.refusesNow c win.dest .urgent false then s.fabricAt c (s.endpoint c.x.die) win.dest .urgent
        else s.relRemote c (some .rel) c.act fun s =>
          let add : Out := { cls := .urgent, op := 4, space := win.space, va := (win.base + off) % 2 ^ 48, chunk := false, payload := [],
                             opf := opfOf (256 + 2 * 65536 + (c.x.get d (lowLane c.lanes)).toNat * 2 ^ 32), owner := c.owner c.act,
                             acc := 0, parts := [], gen := acceptedBy c.x.space hw }
          s.sendAll c win.dest .urgent false [add] fun s =>
            .fall ((s.charge c.x.space hw 4).unstage (s.whoOf c.x.launch))

/-! ## Counters and posting (R171, R174, R277) -/

/-- The queue pair that an entry names, with its peer's numbers. -/
def State.queueNamed (s : State) : CapBody → Option (Nat × Nat × Nat × QPair)
  | .window .. => none
  | .queuePair peer pqp lqp _ => (s.qpair? lqp).map fun q => (peer, pqp, lqp, q)
/-- The queue pair of a handle: its capability's peer and numbers, after the checks of R159. -/
def State.queueOf (s : State) (space : Nat) (h : Word) : Sum FInfo (Nat × Nat × Nat × QPair) :=
  match s.capOf space h with
  | .inl f => .inl f
  | .inr b => match s.queueNamed b with
    | some q => .inr q
    | none => .inl (capPerm h)
/-- The queue pair of a `colpost` that was accepted by the slot's entry, which stays until it has completed, whatever its generation has
come to (R161). -/
def State.queueKept (s : State) (space : Nat) (h : Word) : Option (Nat × Nat × Nat × QPair) :=
  (s.cap space (handleSlot h)).body.bind s.queueNamed
/-- A release at package scope, which waits for watches in a strand; a context has no L1 and no watches (R174, R277). -/
def State.relPackage (s : State) (c : Ctx) (k : State → Done) : Done := relBefore c (some .pkg) c.act c.part s fun s _ => k s

/-- `ctradd` (R174, R277). -/
def execCtradd (pg : Guard) (d a b : Reg) (s : State) : Host.Outcome State Fault Refusal :=
  issue (.ctradd pg d a b) s fun c s =>
    if c.lanes = 0 then .fall s
    else
      let l := lowLane c.lanes
      let hw := c.x.get d l
      match s.queueOf c.x.space hw with
      | .inl f => .fault f
      | .inr (_, _, n, _) =>
        if 63 < (c.x.get a l).toNat then .fault (capPerm hw)
        else s.relPackage c fun s =>
          .fall ((s.unstage (s.whoOf c.x.launch)).addCounter n (c.x.get a l).toNat (c.x.get b l).toNat)

/-- `ctrwait` (R174, R277): the split waits as a condition monitor on the counter's word. -/
def execCtrwait (pg : Guard) (d a b : Reg) (s : State) : Host.Outcome State Fault Refusal :=
  issue (.ctrwait pg d a b) s fun c s =>
    if c.lanes = 0 then .fall s
    else
      let l := lowLane c.lanes
      let hw := c.x.get d l
      match s.queueOf c.x.space hw with
      | .inl f => .fault f
      | .inr (_, _, _, q) =>
        let n := (c.x.get a l).toNat
        if 63 < n then .fault (capPerm hw)
        else
          let m : Monitor := { id := s.uid, t := c.t, e := c.e, uid := c.x.uid, va := q.blockVa + 4 * n, pa := q.block + 4 * n,
                               cond := .geN, val := c.x.get b l, scope := .dom, registered := false, retry := 0, pc := c.pc }
          .fall ({ s with uid := s.uid + 1, monitors := s.monitors ++ [m] }.updSplit c.t c.e fun p => { p with wait := some (.mon m.id) })

/-- The local source bytes of a work entry's 32 bytes, as a footprint (R170, R280). -/
def entrySource (x : Nat) : List FRange :=
  let w := workEntry x
  if w.sk = 0 then [(9, w.src, w.src + w.srcBytes)] else []
/-- A context's `colpost` takes its place in the region queue where an earlier command of the queue writes what it reads (R82, R280); its
entry's source, of which it reads the address later, is taken from the entry's bytes as they stand. -/
def State.colpostQueues (s : State) (c : Ctx) (h : Word) (va : Nat) : Option State :=
  if !c.x.seq then none
  else (s.gang? c.x.gang).bind fun g =>
    let src := match s.pa? c.x.space va with
      | some pa => entrySource (Memory.le s.mem pa 32)
      | none => []
    let op := CmdOp.colpost h va src
    if g.queue.any fun y => conflicts y.op op then some ((s.unstage (s.whoOf c.x.launch)).setGang c.x.gang (g.post op c.pc s.cycle)) else none

/-- Is the region queue of a context's gang full, which holds every posting (R82)? -/
def State.queueFull (s : State) (c : Ctx) : Bool := c.x.seq && (s.gang? c.x.gang).any fun g => 64 ≤ g.queue.length

/-- `colpost` (R171, R277): the checks that need no entry, then a place in the region queue, or at once the release, the read of the entry at
the home, its checks, and its place in the queue pair's queue, of which a full one holds the instruction. -/
def execColpost (pg : Guard) (d a : Reg) (s : State) : Host.Outcome State Fault Refusal :=
  issue (.colpost pg d a) s fun c s =>
    if c.lanes = 0 then .fall s
    else
      let l := lowLane c.lanes
      let hw := c.x.get d l
      let ea := c.ea a 0
      let va := (ea l).toNat
      match s.queueOf c.x.space hw with
      | .inl f => .fault f
      | .inr (peer, pqp, n, q) =>
        if q.refused then .fault { capPerm hw with aux0 := n, aux1 := q.nextPos % 65536 }
        else match s.gcheck c ea 32 32 .load with
          | some f => .fault f
          | none =>
            if queueSize ≤ q.queue.length || s.queueFull c then .hold
            else match s.colpostQueues c hw va with
              | some s => .fall s
              | none => s.relPackage c fun s =>
                match s.seqRead c va 32 with
                | .inl s => .later s { c.part with rel := true }
                | .inr (s, x, bad) =>
                  if bad then .failed (s.markPois c.x.space va) { code := codePOISON, addr := (s.pa? c.x.space va).getD 0 }
                  else if !s.entryOk c.x.space x then .fault (capPerm hw)
                  else .fall ((s.unstage (s.whoOf c.x.launch)).postEntry n x (s.whoOf c.x.launch) (s.endpoint c.x.die) peer pqp
                    (acceptedBy c.x.space hw))

end Sys2Proof.Machine
end

