-- ==== Sys2Proof/Machine/FloatFn.lean ====
section
/-!
DEFINITION. The correctly rounded functions of R247. Exact cases are separated first; every other value is irrational (or, for
`tanh`, transcendental) and so is no FP32 value and no midpoint of two: it is enclosed between two rationals, at rising precision,
until both ends round alike.
-/
namespace Sys2Proof.Machine

/-! ## Enclosures -/

/-- An enclosure of a nonnegative real: lo / 2^P and hi / 2^P. -/
structure IV where
  lo : Nat
  hi : Nat
  deriving DecidableEq, Repr

/-- floor(π × 2^400). -/
def piBits : Nat :=
  0x3243f6a8885a308d313198a2e03707344a4093822299f31d0082efa98ec4e6c89452821e638d01377be5466cf34e90c6cc0ac
/-- floor(ln 2 × 2^400). -/
def ln2Bits : Nat :=
  0xb17217f7d1cf79abc9e3b39803f2f6af40f343267298b62d8a0d175b8baafa2be7b876206debac98559552fb4afa1b10ed2e
/-- A constant at P bits, for P at most 400. -/
def constIV (c P : Nat) : IV := { lo := c / 2 ^ (400 - P), hi := c / 2 ^ (400 - P) + 1 }

/-- Sums of a series with positive terms: term n + 1 is term n times x / (2^P × den) divided by c (n); even and odd terms apart.
Answers the two sums, the last term included in neither. -/
def series (P : Nat) (x : IV) (den : Nat) (c : Nat → Nat) : Nat → Nat → IV → IV → IV → IV × IV × IV
  | 0, _, t, ev, od => (ev, od, t)
  | n + 1, k, t, ev, od =>
    let ev' : IV := if k % 2 = 0 then { lo := ev.lo + t.lo, hi := ev.hi + t.hi } else ev
    let od' : IV := if k % 2 = 0 then od else { lo := od.lo + t.lo, hi := od.hi + t.hi }
    let d := 2 ^ P * den * c k
    series P x den c n (k + 1) { lo := t.lo * x.lo / d, hi := t.hi * x.hi / d + 1 } ev' od'

/-- The whole of a series of positive terms whose ratio is at most one half from the last on. -/
def wholeSum (r : IV × IV × IV) : IV := { lo := r.1.lo + r.2.1.lo, hi := r.1.hi + r.2.1.hi + 2 * r.2.2.hi }
/-- The alternating sum of such a series. -/
def altSum (r : IV × IV × IV) : IV :=
  { lo := r.1.lo - r.2.1.hi - 2 * r.2.2.hi, hi := r.1.hi + 2 * r.2.2.hi - r.2.1.lo }
/-- One at P bits. -/
def oneIV (P : Nat) : IV := { lo := 2 ^ P, hi := 2 ^ P }

/-- Round both ends of an enclosure times m × 2^e to FP32, to nearest even. -/
def enclosed (P : Nat) (neg : Bool) (m : Nat) (e : Int) (v : IV) : Nat × Nat :=
  (fp32.round .rne false (.fin neg (m * v.lo) (e - P)), fp32.round .rne false (.fin neg (m * v.hi) (e - P)))

/-- Raise the precision until both ends agree. -/
def refine (f : Nat → Nat × Nat) : List Nat → Nat
  | [] => (f 384).1
  | P :: r => if (f P).1 = (f P).2 then (f P).1 else refine f r
/-- The precisions tried. -/
def precisions : List Nat := [96, 160, 256, 384]

/-! ## The functions -/

/-- 2^x for x = f / 2^s in (0, 1), as Σ (x ln 2)^k / k!. -/
def exp2Frac (f s P : Nat) : IV :=
  let l := constIV ln2Bits P
  let x : IV := { lo := l.lo * f / 2 ^ s, hi := l.hi * f / 2 ^ s + 1 }
  wholeSum (series P x 1 (fun k => k + 1) (P / 3) 0 (oneIV P) ⟨0, 0⟩ ⟨0, 0⟩)

/-- `exp2` (R247). -/
def fExp2 (v : FVal) : Nat :=
  match v with
  | .nan => fp32.nan
  | .inf n => if n then 0 else fp32.infMag
  | .fin n m e =>
    if m = 0 then 0x3F800000
    else if (8 : Int) ≤ e + Nat.log2 m then (if n then 0 else fp32.infMag)
    else if 0 ≤ e then
      let x : Int := if n then -((m * 2 ^ e.toNat : Nat) : Int) else ((m * 2 ^ e.toNat : Nat) : Int)
      fp32.round .rne false (.fin false 1 x)
    else
      let s := (0 - e).toNat
      let x : Int := if n then -(m : Int) else m
      let whole := x / (2 ^ s : Nat)
      let frac := (x % (2 ^ s : Nat)).toNat
      if frac = 0 then fp32.round .rne false (.fin false 1 whole)
      else refine (fun P => enclosed P false 1 whole (exp2Frac frac s P)) precisions

/-- log2 of a number that is no power of two, as an enclosure of its magnitude with its sign: e' + 2 atanh((y − 1)/(y + 1)) / ln 2,
with y from 2/3 to 4/3. -/
def log2Num (m : Nat) (e : Int) (P : Nat) : Bool × IV :=
  let L := Nat.log2 m
  let hiY := 4 * 2 ^ L < 3 * m
  let d := if hiY then 2 ^ (L + 1) else 2 ^ L
  let whole : Int := e + L + (if hiY then 1 else 0)
  let zn := if hiY then d - m else m - d
  let zd := m + d
  -- Σ w^k / (2k + 1), with w = (zn / zd)²
  let w := series P { lo := zn * zn * 2 ^ P, hi := zn * zn * 2 ^ P } (zd * zd)
  let sum := (List.range (P / 4 + 2)).foldl (fun (a : IV × IV) k =>
    let t := a.2
    ({ lo := a.1.lo + t.lo / (2 * k + 1), hi := a.1.hi + t.hi / (2 * k + 1) + 1 },
     (w (fun _ => 1) 1 0 t ⟨0, 0⟩ ⟨0, 0⟩).2.2)) (⟨0, 0⟩, oneIV P)
  let g : IV := { lo := sum.1.lo, hi := sum.1.hi + 2 * sum.2.hi }
  let l := constIV ln2Bits P
  let part : IV := { lo := 2 * zn * g.lo * 2 ^ P / (zd * l.hi), hi := 2 * zn * g.hi * 2 ^ P / (zd * l.lo) + 1 }
  let one := whole.natAbs * 2 ^ P
  if whole = 0 then (hiY, part)
  else if (whole < 0) = hiY then (decide (whole < 0), { lo := one + part.lo, hi := one + part.hi })
  else (decide (whole < 0), { lo := one - part.hi, hi := one - part.lo })

/-- `log2` (R247). -/
def fLog2 (v : FVal) : Nat :=
  match v with
  | .nan => fp32.nan
  | .inf n => if n then fp32.nan else fp32.infMag
  | .fin n m e =>
    if m = 0 then fp32.signed true fp32.infMag
    else if n then fp32.nan
    else if m = 2 ^ Nat.log2 m then fp32.round .rne false (FVal.ofInt (e + Nat.log2 m))
    else refine (fun P => let r := log2Num m e P; enclosed P r.1 1 0 r.2) precisions

/-- sin(πr) / r for r = f / 2^s up to 1/2, as π Σ (−1)^k (πr)^2k / (2k + 1)!. -/
def sinPiOver (f s P : Nat) : IV :=
  let p := constIV piBits P
  let u : IV := { lo := p.lo * p.lo * f * f / 2 ^ (2 * s + P), hi := p.hi * p.hi * f * f / 2 ^ (2 * s + P) + 1 }
  let a := altSum (series P u 1 (fun k => (2 * k + 2) * (2 * k + 3)) (P / 4) 0 (oneIV P) ⟨0, 0⟩ ⟨0, 0⟩)
  { lo := p.lo * a.lo / 2 ^ P, hi := p.hi * a.hi / 2 ^ P + 1 }

/-- sin(πf / 2^s) for 0 < f / 2^s ≤ 1/2, with a sign. -/
def sinPiPos (neg : Bool) (f s : Nat) : Nat :=
  if 2 * f = 2 ^ s then fp32.signed neg 0x3F800000
  else refine (fun P => enclosed P neg f (0 - (s : Int)) (sinPiOver f s P)) precisions

/-- `sinpi` (R247). -/
def fSinpi (v : FVal) : Nat :=
  match v with
  | .fin n m e =>
    if m = 0 ∨ 0 ≤ e then fp32.signed n 0
    else
      let s := (0 - e).toNat
      let r := m % 2 ^ (s + 1)
      let f := r % 2 ^ s
      let odd := r / 2 ^ s == 1
      if f = 0 then fp32.signed n 0
      else sinPiPos (n != odd) (if 2 ^ s < 2 * f then 2 ^ s - f else f) s
  | _ => fp32.nan

/-- `cospi` (R247). -/
def fCospi (v : FVal) : Nat :=
  match v with
  | .fin _ m e =>
    if m = 0 then 0x3F800000
    else if 0 ≤ e then fp32.signed (e == 0 && m % 2 == 1) 0x3F800000
    else
      let s := (0 - e).toNat
      let r := m % 2 ^ (s + 1)
      let f := r % 2 ^ s
      let odd := r / 2 ^ s == 1
      if f = 0 then fp32.signed odd 0x3F800000
      else if 2 * f = 2 ^ s then 0
      else if 2 * f < 2 ^ s then sinPiPos odd (2 ^ s - 2 * f) (s + 1)
      else sinPiPos (!odd) (2 * f - 2 ^ s) (s + 1)
  | _ => fp32.nan

/-- tanh(a) / a for a² = num / den, as Σ a^2k / (2k + 1)! over Σ a^2k / (2k)!. -/
def tanhOver (num den P : Nat) : IV :=
  let w : IV := { lo := num * 2 ^ P, hi := num * 2 ^ P }
  let n := P / 2 + 20
  let sh := wholeSum (series P w den (fun k => (2 * k + 2) * (2 * k + 3)) n 0 (oneIV P) ⟨0, 0⟩ ⟨0, 0⟩)
  let ch := wholeSum (series P w den (fun k => (2 * k + 1) * (2 * k + 2)) n 0 (oneIV P) ⟨0, 0⟩ ⟨0, 0⟩)
  { lo := sh.lo * 2 ^ P / ch.hi, hi := sh.hi * 2 ^ P / ch.lo + 1 }

/-- `tanh` (R247): beyond 16 the value is nearer to 1 than any other FP32 value. -/
def fTanh (v : FVal) : Nat :=
  match v with
  | .nan => fp32.nan
  | .inf n => fp32.signed n 0x3F800000
  | .fin n m e =>
    if m = 0 then fp32.signed n 0
    else if (4 : Int) ≤ e + Nat.log2 m then fp32.signed n 0x3F800000
    else
      let num := m * m * 2 ^ (2 * e).toNat
      let den := 2 ^ (0 - 2 * e).toNat
      refine (fun P => enclosed P n m e (tanhOver num den P)) precisions

/-- `rcp` (R247). -/
def fRcp (v : FVal) : Nat := fp32.round .rne false ((FVal.fin false 1 0).div v)
/-- `rsq` (R247). -/
def fRsq (v : FVal) : Nat := fp32.round .rne false v.rsqrt

end Sys2Proof.Machine
end

