-- ==== Sys2Proof/Machine/Lanes.lean ====
section
/-!
DEFINITION. Conversions (R64 to R66, R250), block quantisation (R67 to R74, R251, R252), and the instructions that read across
lanes (R253 to R258).
-/
namespace Sys2Proof.Machine

/-! ## Conversions -/

/-- The range of an integer type (R66), or none for a floating-point type. -/
def cvtRange (ty : CvtTy) : Option (Int × Int) :=
  match ty with
  | .s32 => some (-0x80000000, 0x7FFFFFFF)
  | .n32 => some (0, 0xFFFFFFFF)
  | .s16 => some (-0x8000, 0x7FFF)
  | .n16 => some (0, 0xFFFF)
  | .s8 => some (-0x80, 0x7F)
  | .n8 => some (0, 0xFF)
  | _ => none
/-- The format of a floating-point type, with the bits of an element (R61). -/
def cvtFmt (ty : CvtTy) : FFmt × Nat :=
  match ty with
  | .f16 => (fp16, 16)
  | .bf16 => (bf16, 16)
  | .e4m3 => (e4m3, 8)
  | .e5m2 => (e5m2, 8)
  | _ => (fp32, 32)
/-- Element i of n bits of a word. -/
def elemAt (w : Word) (n i : Nat) : Nat := w.toNat / 2 ^ (n * i) % 2 ^ n
/-- A word with element i of n bits replaced. -/
def setElem (w : Word) (n i x : Nat) : Word := w - BitVec.ofNat 32 (elemAt w n i * 2 ^ (n * i)) + BitVec.ofNat 32 (x * 2 ^ (n * i))
/-- The value of an integer source (R66, R250). -/
def intSource (ty : CvtTy) (w : Word) : Int :=
  match ty with
  | .s32 => w.toInt
  | .s16 => signExt 16 w.toNat
  | .s8 => signExt 8 w.toNat
  | .n16 => (w.toNat % 65536 : Nat)
  | .n8 => (w.toNat % 256 : Nat)
  | _ => (w.toNat : Int)
/-- From FP32: an integer in the whole register, or one element of it (R64, R66, R250). -/
def cvtFrom (ty : CvtTy) (elt : Nat) (mode : RMode) (sat : Bool) (d a : Word) : Word :=
  match cvtRange ty with
  | some (lo, hi) => BitVec.ofInt 32 ((fp32.value a.toNat).toInt mode lo hi)
  | none => setElem d (cvtFmt ty).2 elt ((cvtFmt ty).1.round mode sat (fp32.value a.toNat))
/-- To FP32: an integer rounds, an element is exact (R65, R66). -/
def cvtTo (ty : CvtTy) (elt : Nat) (mode : RMode) (a : Word) : Word :=
  match cvtRange ty with
  | some _ => BitVec.ofNat 32 (fp32.round mode false (FVal.ofInt (intSource ty a)))
  | none => BitVec.ofNat 32 (fp32.round .rne false ((cvtFmt ty).1.value (elemAt a (cvtFmt ty).2 elt)))

/-- `cvt` (R250): class C; flush-to-zero never applies. -/
def execCvt (toF32 : Bool) (ty : CvtTy) (elt : Fin 4) (pg : Guard) (d a : Reg) (s : State) : Host.Outcome State Fault Refusal :=
  issue (.cvt toF32 ty elt pg d a) s fun c s =>
    .fall (s.put c 6 d fun l =>
      if toF32 then cvtTo ty elt.val c.x.rm (c.x.get a l) else cvtFrom ty elt.val c.x.rm false (c.x.get d l) (c.x.get a l))
/-- `cvt.sat` (R250). -/
def execCvtSat (ty : CvtTy) (elt : Fin 4) (pg : Guard) (d a : Reg) (s : State) : Host.Outcome State Fault Refusal :=
  issue (.cvtSat ty elt pg d a) s fun c s =>
    .fall (s.put c 6 d fun l => cvtFrom ty elt.val c.x.rm true (c.x.get d l) (c.x.get a l))

/-! ## Blocks (R67 to R74) -/

/-- A block being formed: the 32 nibbles, the first and second scale, sat. -/
structure Block where
  elems : List Nat
  lo : Nat
  hi : Nat
  sat : Bool
  deriving DecidableEq, Repr

/-- The sign of a value. -/
def FVal.neg : FVal → Bool
  | .nan => false
  | .inf n => n
  | .fin n _ _ => n
/-- Is a value NaN? -/
def FVal.isNan (v : FVal) : Bool := v == .nan
/-- Is a value infinite? -/
def FVal.isInf : FVal → Bool
  | .inf _ => true
  | _ => false
/-- Floor(Log2(|x|)) of a nonzero number. -/
def FVal.log2 : FVal → Option Int
  | .fin _ m e => if m = 0 then none else some (e + Nat.log2 m)
  | _ => none
/-- Floor(Log2(max |xi|)) of the finite nonzero inputs, if there is one. -/
def topLog (xs : List FVal) : Option Int :=
  (xs.filterMap FVal.log2).foldl (fun b x => match b with
    | none => some x
    | some y => some (max x y)) none

/-- E2M1's magnitudes as a format with room above them (R68). -/
def e2m1 : FFmt := { eb := 3, mb := 1, bias := 1, inf := true, nan := 7 }
/-- E2M1RNE of x / 2^(X − 127) (R72). -/
def e2m1Rne (v : FVal) (X : Int) : Nat :=
  match v with
  | .fin n m e =>
    let q := if m = 0 then 0 else min 7 (e2m1.roundFin .rne false false m (e - (X - 127)))
    if q = 0 then 0 else (if n then 8 else 0) + q
  | _ => 0
/-- The MXFP4 block of 32 inputs (R72). -/
def qmxBlock (xs : List FVal) : Block :=
  if xs.any FVal.isNan then { elems := xs.map fun _ => 0, lo := 0xFF, hi := 0, sat := false }
  else if xs.any FVal.isInf then
    { elems := xs.map fun v => if v.isInf then (if v.neg then 15 else 7) else e2m1Rne v 0xFE, lo := 0xFE, hi := 0, sat := true }
  else match topLog xs with
    | none => { elems := xs.map fun _ => 0, lo := 0x7F, hi := 0, sat := false }
    | some t =>
      let X := (max (t - 2 + 127) 0).toNat
      { elems := xs.map fun v => e2m1Rne v X, lo := X, hi := 0, sat := false }

/-- DX4Elem (R73). -/
def dx4Elem (v : FVal) (sel : Bool) (s : Nat) : Nat :=
  let m := (match v with
    | .fin _ m e => FVal.toInt .rne 0 3 (.fin false m (e - ((s : Int) - 127)))
    | _ => 0).toNat
  (if sel then 4 else 0) + m + (if m ≠ 0 ∧ v.neg then 8 else 0)
/-- Is |x| below 3.5 × 2^(lo − 127) (R73)? -/
def below35 (v : FVal) (lo : Nat) : Bool :=
  match v with
  | .fin _ m e =>
    let h := (lo : Int) - 128
    let low := min e h
    m * 2 ^ (e - low).toNat < 7 * 2 ^ (h - low).toNat
  | _ => false
/-- The DX4 block of 32 inputs with distance D (R73). -/
def qdxBlock (D : Nat) (xs : List FVal) : Block :=
  if xs.any FVal.isNan then { elems := xs.map fun _ => 0, lo := 0xFF, hi := 0xFF, sat := false }
  else
    let inf := xs.any FVal.isInf
    match inf, topLog xs with
    | false, none => { elems := xs.map fun _ => 0, lo := 0x7F - D, hi := 0x7F, sat := false }
    | _, top =>
      let hi := if inf then 0xFE else (max (top.getD 0 - 1 + 127) 0).toNat
      let lo := hi - D
      { elems := xs.map fun v =>
          if v.isInf then (if v.neg then 15 else 7) else if below35 v lo then dx4Elem v false lo else dx4Elem v true hi
        lo := lo, hi := hi, sat := inf }

/-- Lane l of a block as a register holds it (R251). -/
def Block.lane (b : Block) (dx : Bool) (l : Nat) : Word :=
  if l < 4 then BitVec.ofNat 32 ((List.range 8).foldl (fun n j => n + b.elems.getD (8 * l + j) 0 * 16 ^ j) 0)
  else if l = 4 then BitVec.ofNat 32 (if dx then b.lo + 256 * b.hi else b.lo)
  else 0

/-- Form one block from the participating lanes, +0 from the others; class V (R251). -/
def quantise (dx : Bool) (f : List FVal → Block) (d a : Reg) (sp : Fin 8) (c : Ctx) (s : State) : Done :=
  if c.lanes = 0 then .fall s
  else
    let b := f (lanes32.map fun l => if hasLane c.lanes l then fp32.value (c.x.get a l).toNat else .fin false 0 0)
    .fall ((s.put c 0 d fun l => b.lane dx l).putP c 0 sp fun _ => b.sat)

/-- `qmx` (R251). -/
def execQmx (pg : Guard) (d a : Reg) (sp : Fin 8) (s : State) : Host.Outcome State Fault Refusal :=
  issue (.qmx pg d a sp) s (quantise false qmxBlock d a sp)
/-- `qdx` (R251). -/
def execQdx (pg : Guard) (d a : Reg) (sp : Fin 8) (dd : BitVec 3) (s : State) : Host.Outcome State Fault Refusal :=
  issue (.qdx pg d a sp dd) s (quantise true (qdxBlock dd.toNat) d a sp)

/-- The value of an E2M1 element under an E8M0 scale (R67 to R69). -/
def mxValue (q X : Nat) : FVal :=
  if X = 0xFF then .nan
  else
    let c := q % 8
    if c / 2 = 0 then .fin (8 ≤ q) (c % 2) ((X : Int) - 127 - 1) else .fin (8 ≤ q) (2 + c % 2) ((X : Int) - 127 + (c / 2 : Nat) - 2)
/-- The value of a DX4 element under the block's scales (R70, R71). -/
def dxValue (q lo hi : Nat) : FVal :=
  let x := if q / 4 % 2 = 1 then hi else lo
  if x = 0xFF then .nan else .fin (q % 4 != 0 && 8 ≤ q) (q % 4) ((x : Int) - 127)
/-- Nibble l of a block held in lanes 0 to 3 of a register. -/
def nibble (x : Thread) (a : Reg) (l : Nat) : Nat := elemAt (x.get a (l / 8)) 4 (l % 8)

/-- `dqmx` (R252, R74). -/
def execDqmx (pg : Guard) (d a : Reg) (s : State) : Host.Outcome State Fault Refusal :=
  issue (.dqmx pg d a) s fun c s =>
    .fall (s.put c 0 d fun l =>
      BitVec.ofNat 32 (fp32.round .rne false (mxValue (nibble c.x a l) (elemAt (c.x.get a 4) 8 0))))
/-- `dqdx` (R252, R74). -/
def execDqdx (pg : Guard) (d a : Reg) (s : State) : Host.Outcome State Fault Refusal :=
  issue (.dqdx pg d a) s fun c s =>
    .fall (s.put c 0 d fun l =>
      BitVec.ofNat 32 (fp32.round .rne false (dxValue (nibble c.x a l) (elemAt (c.x.get a 4) 8 0) (elemAt (c.x.get a 4) 8 1))))

/-! ## Across lanes (R253 to R258) -/

/-- `plane` (R258): bit n of the participating lanes. -/
def execPlane (pg : Guard) (d a : Reg) (n : BitVec 5) (s : State) : Host.Outcome State Fault Refusal :=
  issue (.plane pg d a n) s fun c s =>
    .fall (s.put c 4 d fun _ => maskOf fun m => hasLane c.lanes m && (c.x.get a m).getLsbD n.toNat)

/-- Each lane takes a from its source lane, read at the issue; class B (R253, R254). -/
def xlane (src : Word → Nat → Nat) (d a b : Reg) (c : Ctx) (s : State) : Done :=
  .fall (s.put c 4 d fun l => c.x.get a (src (c.x.get b l) l))
/-- `xlane.g` (R254). -/
def execXlaneG (pg : Guard) (d a b : Reg) (s : State) : Host.Outcome State Fault Refusal :=
  issue (.xlaneG pg d a b) s (xlane gatherLane d a b)
/-- `xlane.rot` (R254). -/
def execXlaneRot (pg : Guard) (d a b : Reg) (s : State) : Host.Outcome State Fault Refusal :=
  issue (.xlaneRot pg d a b) s (xlane rotateLane d a b)
/-- `xlane.x` (R254). -/
def execXlaneX (pg : Guard) (d a b : Reg) (s : State) : Host.Outcome State Fault Refusal :=
  issue (.xlaneX pg d a b) s (xlane exchangeLane d a b)

/-- `ptest` (R255). -/
def execPtest (cond : PCond) (pg : Guard) (pd ps : Fin 8) (s : State) : Host.Outcome State Fault Refusal :=
  issue (.ptest cond pg pd ps) s fun c s =>
    .fall (s.putP c 4 pd fun _ =>
      pcondHolds cond (laneCount (maskOf fun l => hasLane c.lanes l && c.x.preg ps.val l)) (laneCount c.lanes))
/-- `pmask` (R255). -/
def execPmask (pg : Guard) (d : Reg) (ps : Fin 8) (s : State) : Host.Outcome State Fault Refusal :=
  issue (.pmask pg d ps) s fun c s => .fall (s.put c 4 d fun _ => maskOf fun l => hasLane c.lanes l && c.x.preg ps.val l)

/-- One step of a fold (R256). -/
def foldOp (op : Fold) (x y : Word) : Word :=
  match op with
  | .add => x + y
  | .minS => if y.toInt < x.toInt then y else x
  | .minN => if y.toNat < x.toNat then y else x
  | .maxS => if x.toInt < y.toInt then y else x
  | .maxN => if x.toNat < y.toNat then y else x
  | .and => x &&& y
  | .or => x ||| y
  | .xor => x ^^^ y
/-- The fold of a list that is not empty. -/
def foldAll (op : Fold) : List Word → Word
  | [] => 0
  | x :: r => r.foldl (foldOp op) x
/-- `lfold` (R256): class V, into a k register. -/
def execLfold (op : Fold) (pg : Guard) (d a : Reg) (s : State) : Host.Outcome State Fault Refusal :=
  issue (.lfold op pg d a) s fun c s => .fall (s.put c 0 d fun _ => foldAll op ((lanesOf c.lanes).map fun l => c.x.get a l))

/-- The word of `lkey` in a lane: LEAD, COUNT and RANK of its group (R257). -/
def keyWord (ls : List Nat) (a : Nat → Word) (l : Nat) : Word :=
  let same := ls.filter fun m => a m == a l
  BitVec.ofNat 32 (same.headD 0 + 256 * (same.length - 1) + 65536 * (same.filter (· < l)).length)
/-- `lkey` (R257): class V. -/
def execLkey (pg : Guard) (d a : Reg) (s : State) : Host.Outcome State Fault Refusal :=
  issue (.lkey pg d a) s fun c s => .fall (s.put c 0 d fun l => keyWord (lanesOf c.lanes) (fun m => c.x.get a m) l)

end Sys2Proof.Machine
end

