-- ==== Sys2Proof/Machine/Tree.lean ====
section
/-!
DEFINITION. The matrix multiply's arithmetic: the accumulation descriptor (R92, R95), the elements of A and of B in Filigree layout
(R85, R86, R88, R94), the four levels of the tree (R96 to R100) and the swamping counts (R101).
-/
namespace Sys2Proof.Machine

/-! ## The accumulation descriptor (R92) -/

/-- The fields of an accumulation descriptor. -/
structure AccDesc where
  rsv : Bool
  out : Bool
  spa : Bool
  bfmt : Nat
  afmt : Nat
  clr : Bool
  mon : Bool
  planes : Nat
  rz : Bool
  aln : Nat
  w2 : Nat
  w1 : Nat
  w0 : Nat
  h2 : Nat   -- log2 of the level-2 fan-in
  h1 : Nat
  h0 : Nat
  deriving DecidableEq, Repr
/-- A field of a word. -/
def fieldOf (x : Word) (lo n : Nat) : Nat := x.toNat / 2 ^ lo % 2 ^ n
/-- The descriptor's fields, with the widths and fan-ins that their codes name (R92). -/
def accDescOf (x : Word) : AccDesc :=
  { rsv := fieldOf x 29 3 != 0, out := x.getLsbD 28, spa := x.getLsbD 27, bfmt := fieldOf x 24 3, afmt := fieldOf x 21 3,
    clr := x.getLsbD 20, mon := x.getLsbD 19, planes := fieldOf x 15 4, rz := x.getLsbD 14, aln := fieldOf x 12 2,
    w2 := [28, 32, 40, 48].getD (fieldOf x 10 2) 0, w1 := [20, 24, 28, 32].getD (fieldOf x 8 2) 0,
    w0 := [12, 16, 20, 24].getD (fieldOf x 6 2) 0,
    h2 := fieldOf x 4 2 + 1, h1 := fieldOf x 2 2 + 1, h0 := fieldOf x 0 2 + 2 }
/-- Fraction bits of level 0 (R95). -/
def AccDesc.f0 (d : AccDesc) : Nat := d.w0 - 3 - d.h0
/-- Fraction bits of level 1 (R95). -/
def AccDesc.f1 (d : AccDesc) : Nat := d.w1 - 3 - d.h0 - d.h1
/-- Fraction bits of level 2 (R95). -/
def AccDesc.f2 (d : AccDesc) : Nat := d.w2 - 3 - d.h0 - d.h1 - d.h2
/-- K indices of a span (R96). -/
def AccDesc.span (d : AccDesc) : Nat := 2 ^ (d.h0 + d.h1 + d.h2)

/-! ## Operand formats (R85, R92) -/

/-- A format of A or B: width of the exponent field, width and full planes of the significand, bias, the offsets of the scale
section and of the planes in a Filigree block, and the block's bytes. -/
structure MxFmt where
  x : Nat
  w : Nat
  bias : Nat
  scale : Nat
  plane : Nat
  bytes : Nat
  deriving DecidableEq, Repr
/-- The formats by code: E4M3, E5M2, MXFP4, DX4, BF16 (R85). -/
def mxFmt (f : Nat) : MxFmt :=
  match f with
  | 0 => { x := 4, w := 4, bias := 7, scale := 0, plane := 320, bytes := 576 }
  | 1 => { x := 5, w := 3, bias := 15, scale := 0, plane := 384, bytes := 576 }
  | 2 => { x := 2, w := 2, bias := 0, scale := 192, plane := 208, bytes := 336 }
  | 3 => { x := 1, w := 2, bias := 0, scale := 128, plane := 160, bytes := 288 }
  | _ => { x := 8, w := 8, bias := 127, scale := 0, plane := 576, bytes := 1088 }

/-- Kinds of elements (R99). Zero is judged on the stored element. -/
inductive EKind where
  | nan | inf | zero | num
  deriving DecidableEq, Repr
/-- An element decoded: σ is s / 2^fb, and e is ε (R94). -/
structure Elem where
  kind : EKind
  neg : Bool
  s : Nat
  fb : Nat
  e : Int
  deriving DecidableEq, Repr
/-- The sign, the exponent field and the significand with its leading bit, of a stored element (R85). -/
def rawElem (f v : Nat) : Bool × Nat × Nat :=
  if f = 3 then (v.testBit 3, v / 4 % 2, v % 4)
  else
    let g := mxFmt f
    let e := v / 2 ^ (g.w - 1) % 2 ^ g.x
    (v.testBit (g.x + g.w - 1), e, v % 2 ^ (g.w - 1) + if e = 0 then 0 else 2 ^ (g.w - 1))
/-- The stored element of its parts: the inverse of `rawElem`, which ignores the leading bit (R291). -/
def joinElem (f : Nat) (neg : Bool) (e s : Nat) : Nat :=
  if f = 3 then s + 4 * e + (if neg then 8 else 0)
  else
    let g := mxFmt f
    s % 2 ^ (g.w - 1) + e * 2 ^ (g.w - 1) + (if neg then 2 ^ (g.x + g.w - 1) else 0)
/-- An element of its parts, with the block scales that it may select (R62, R63, R57, R69, R71, R94). It is a zero where its stored
significand, leading bit included, is 0 (log 84, DEDUCED, for a block whose leading-bit plane disagrees with its exponents). -/
def elemOf (f : Nat) (neg : Bool) (e s lo hi : Nat) : Elem :=
  let g := mxFmt f
  match f with
  | 3 =>
    let sc := if e = 1 then hi else lo
    { kind := if sc = 0xFF then .nan else if s = 0 then .zero else .num, neg := neg, s := s, fb := 1, e := (sc : Int) - 126 }
  | 2 =>
    { kind := if lo = 0xFF then .nan else if s = 0 then .zero else .num, neg := neg, s := s, fb := 1,
      e := ((max e 1 : Nat) : Int) - 1 + lo - 127 }
  | _ =>
    let m := s % 2 ^ (g.w - 1)
    { kind := if f = 0 then (if e = 15 ∧ m = 7 then .nan else if s = 0 then .zero else .num)
              else if e = 2 ^ g.x - 1 then (if m = 0 then .inf else .nan)
              else if s = 0 then .zero else .num
      neg := neg, s := s, fb := g.w - 1, e := ((max e 1 : Nat) : Int) - g.bias }

/-! ## Rows of A (R87, R88) -/

/-- Byte i of a number. -/
def byteOf (x i : Nat) : Nat := x / 2 ^ (8 * i) % 256
/-- Bytes of n values of a format. -/
def valueBytes (f n : Nat) : Nat := if f = 4 then 2 * n else if fmtBlock f then n / 2 else n
/-- Bytes of the code string of a sparse row (R88). -/
def codeBytes (k : Nat) : Nat := ceilDiv (3 * k) 32
/-- Where the scales of a row begin. -/
def rowScales (f k : Nat) (sp : Bool) : Nat := if sp then valueBytes f (k / 2) + codeBytes k else valueBytes f k
/-- Bytes of a row of A. -/
def rowBytes (f k : Nat) (sp : Bool) : Nat :=
  rowScales f k sp + (if f = 2 then k / 32 else if f = 3 then 2 * (k / 32) else 0)
/-- Stored value v of a row. -/
def rowValue (f row v : Nat) : Nat :=
  if f = 4 then byteOf row (2 * v) + 256 * byteOf row (2 * v + 1)
  else if fmtBlock f then byteOf row (v / 2) / 16 ^ (v % 2) % 16
  else byteOf row v
/-- The positions that a pair code keeps (R88). -/
def pairOf (code : Nat) : Option (Nat × Nat) := [(0, 1), (0, 2), (0, 3), (1, 2), (1, 3), (2, 3)][code]?
/-- The pair codes of a row (R88). -/
def rowCodes (f k row : Nat) : List Nat := (List.range (k / 4)).map fun g => row / 2 ^ (8 * valueBytes f (k / 2) + 3 * g) % 8
/-- Does a sparse row raise MXMETA (R88)? -/
def rowMeta (f k row : Nat) : Bool :=
  (rowCodes f k row).any (fun c => 5 < c)
  || row / 2 ^ (8 * valueBytes f (k / 2)) % 2 ^ (8 * codeBytes k) / 2 ^ (3 * k / 4) != 0
/-- The element of index i of a row, or none where the sparse form drops it; `codes` are the row's. -/
def rowElem (f k row : Nat) (sp : Bool) (codes : List Nat) (i : Nat) : Option Elem :=
  let v := if !sp then some i
    else (pairOf (codes.getD (i / 4) 0)).bind fun p =>
      if i % 4 = p.1 then some (2 * (i / 4)) else if i % 4 = p.2 then some (2 * (i / 4) + 1) else none
  v.map fun v =>
    let r := rawElem f (rowValue f row v)
    let sc := rowScales f k sp
    let lo := if f = 2 then byteOf row (sc + i / 32) else byteOf row (sc + 2 * (i / 32))
    elemOf f r.1 r.2.1 r.2.2 lo (byteOf row (sc + 2 * (i / 32) + 1))

/-! ## Blocks of B (R85, R86) -/

/-- The parts of element (i, c) of a Filigree block: sign, exponent field, significand, its scale or its two scales. -/
def blockParts (f blk c i : Nat) : Bool × Nat × Nat × Nat × Nat :=
  let g := mxFmt f
  let s := (List.range g.w).foldl (fun s q => 2 * s + if blk.testBit (8 * (g.plane + 64 * q + 4 * c) + i) then 1 else 0) 0
  (blk.testBit (32 * c + i), blk / 2 ^ (512 + (32 * c + i) * g.x) % 2 ^ g.x, s, byteOf blk (g.scale + c), byteOf blk (g.scale + 16 + c))
/-- The element with the planes from P onward read as zero (R86). -/
def blockElem (f planes blk c i : Nat) : Elem :=
  let g := mxFmt f
  let (neg, e, s, lo, hi) := blockParts f blk c i
  let x := elemOf f neg e s lo hi
  { x with s := s / 2 ^ (g.w - planes) * 2 ^ (g.w - planes) }

/-! ## Terms (R94, R97, R99) -/

/-- A term of a level: n × 2^x, with its anchor's candidate a. -/
structure Term where
  n : Int
  x : Int
  a : Int
  deriving DecidableEq, Repr
/-- What a product gives: nothing, a flag, or a term (R94, R99). -/
inductive Prod' where
  | none
  | nan
  | inf (neg : Bool)
  | term (t : Term)
  deriving DecidableEq, Repr
/-- The product of two elements (R94, R99). -/
def Elem.mul (a b : Elem) : Prod' :=
  if a.kind == .nan || b.kind == .nan then .nan
  else if a.kind == .inf || b.kind == .inf then (if a.kind == .zero || b.kind == .zero then .nan else .inf (a.neg != b.neg))
  else
    let m : Int := (a.s * b.s : Nat)
    if m = 0 then .none else .term { n := if a.neg != b.neg then -m else m, x := a.e + b.e - a.fb - b.fb, a := a.e + b.e }
/-- The terms among products. -/
def termsOf (ps : List Prod') : List Term := ps.filterMap fun p => match p with
  | .term t => some t
  | _ => none

/-- Align (R97): n × 2^sh as an integer; 0 floor, 1 toward zero, 2 nearest even. -/
def alignTo (aln : Nat) (n sh : Int) : Int :=
  if 0 ≤ sh then n * 2 ^ sh.toNat
  else
    let d := (2 : Int) ^ (0 - sh).toNat
    match aln with
    | 0 => n / d
    | 1 => Int.tdiv n d
    | _ =>
      let q := n / d
      let r := n % d
      if d < 2 * r || (d == 2 * r && q % 2 == 1) then q + 1 else q
/-- Place of the lowest set bit of a positive number, below a bound. -/
def lowBitFrom (n : Nat) : Nat → Nat → Nat
  | 0, i => i
  | k + 1, i => if n.testBit i then i else lowBitFrom n k (i + 1)
/-- Place of the lowest set bit of a positive number. -/
def lowBit (n : Nat) : Nat := lowBitFrom n (Nat.log2 n) 0
/-- What a term n × 2^x cut at weight 2^lam adds to LOST and SWAMP (R101). -/
def swampOf (n x lam : Int) : Nat × Nat :=
  let b := x + lowBit n.natAbs
  if b < lam then ((lam - b).toNat, if x + Nat.log2 n.natAbs < lam then 1 else 0) else (0, 0)

/-- A level's sum, its anchor, and its counts; with no nonzero term the sum is 0 (R96, R101). -/
structure Level where
  z : Int
  a : Int
  lost : Nat
  swamp : Nat
  deriving DecidableEq, Repr
/-- One level over its terms, with f fraction bits (R96). -/
def levelOf (aln f : Nat) (ts : List Term) : Level :=
  let ts := ts.filter fun t => t.n != 0
  match ts with
  | [] => { z := 0, a := 0, lost := 0, swamp := 0 }
  | t :: r =>
    let top := r.foldl (fun m t => max m t.a) t.a
    let lam := top - f
    ts.foldl (fun l t =>
      let c := swampOf t.n t.x lam
      { l with z := l.z + alignTo aln t.n (t.x - lam), lost := l.lost + c.1, swamp := l.swamp + c.2 })
      { z := 0, a := top, lost := 0, swamp := 0 }
/-- A level's sum as a term of the next. -/
def Level.term (l : Level) (f : Nat) : Term := { n := l.z, x := l.a - f, a := l.a }

/-- A list cut into pieces of n. -/
def cutInto {α : Type} (n : Nat) : Nat → List α → List (List α)
  | 0, _ => []
  | _, [] => []
  | k + 1, l => l.take n :: cutInto n k (l.drop n)
/-- A list cut into pieces of n, the last perhaps shorter. -/
def pieces {α : Type} (n : Nat) (l : List α) : List (List α) := cutInto n l.length l

/-! ## The tree (R96, R98) -/

/-- The counts of one position or span: LOST0 to LOST3, SWAMP0 to SWAMP3 (R101). -/
abbrev Counts := List Nat
/-- No counts. -/
def noCounts : Counts := List.replicate 8 0
/-- Add to LOSTj and SWAMPj. -/
def addCounts (c : Counts) (j lost swamp : Nat) : Counts := updAt (updAt c j (· + lost)) (4 + j) (· + swamp)
/-- The sum of two lists of counts. -/
def sumCounts (a b : Counts) : Counts := (a.zip b).map fun x => x.1 + x.2

/-- Levels 0 to 2 of a span over its products and its outlier products: the level-2 level, and the counts (R96, R100, R101). -/
def spanOf (d : AccDesc) (ps outs : List Prod') : Level × Counts :=
  let groups := (pieces (2 ^ (d.h0 + d.h1)) ps).map fun g =>
    (pieces (2 ^ d.h0) g).map fun q => levelOf d.aln d.f0 (termsOf q)
  let g1 := groups.map fun g => levelOf d.aln d.f1 (g.map fun l => l.term d.f0)
  let l2 := levelOf d.aln d.f2 ((g1.map fun l => l.term d.f1) ++ termsOf outs)
  let c := groups.foldl (fun c g => g.foldl (fun c l => addCounts c 0 l.lost l.swamp) c) noCounts
  let c := g1.foldl (fun c l => addCounts c 1 l.lost l.swamp) c
  (l2, addCounts c 2 l2.lost l2.swamp)

/-- Level 3 of one span: the new accumulator, and what it adds to LOST3 and SWAMP3 (R98, R101). A sum that is not zero and rounds to zero
keeps its sign: the spec states no sign for it, and the model takes that of the exact sum (log 97, DESIGN CHOICE). -/
def level3 (d : AccDesc) (acc : Nat) (nan pinf ninf : Bool) (v : Int) (x : Int) : Nat × Nat × Nat :=
  let av := fp32.value acc
  if nan || (pinf && ninf) then (fp32.nan, 0, 0)
  else if pinf || ninf then
    (match av with
     | .nan => fp32.nan
     | .inf n => if n == ninf then fp32.signed ninf fp32.infMag else fp32.nan
     | _ => fp32.signed ninf fp32.infMag, 0, 0)
  else if v = 0 then (acc, 0, 0)
  else match av with
    | .nan => (fp32.nan, 0, 0)
    | .inf _ => (acc, 0, 0)
    | .fin n m e =>
      let low := min e x
      let sum := scaled n m e low + scaled (v < 0) v.natAbs x low
      if sum = 0 then (0, 0, 0)
      else
        let mode : RMode := if d.rz then .rz else .rne
        let r := fp32.roundFin mode false (sum < 0) sum.natAbs low
        let mag := fp32.mag r
        let ovf := mag == fp32.infMag || (d.rz && (128 : Int) ≤ low + Nat.log2 sum.natAbs)
        if mag = 0 || ovf then (r, 0, 0)
        else
          let c := swampOf v x (if mag < 2 ^ 23 then -149 else ((mag / 2 ^ 23 : Nat) : Int) - 150)
          (r, c.1, c.2)

/-- One output position over all its spans: the new element and its counts (R87, R98 to R101). `ps` are the products by K index;
`outs` the outlier products with their indices. -/
def positionOf (d : AccDesc) (acc : Nat) (ps : List Prod') (outs : List (Nat × Prod')) : Nat × Counts :=
  let spans := pieces d.span ps
  let r := spans.foldl (fun (st : Nat × Nat × Counts) sp =>
    let os := (outs.filter fun o => o.1 / d.span == st.1).map (·.2)
    let all := sp ++ os
    let (l2, c) := spanOf d sp os
    let (acc, lost, swamp) := level3 d st.2.1 (all.contains .nan) (all.contains (.inf false)) (all.contains (.inf true)) l2.z (l2.a - d.f2)
    (st.1 + 1, acc, addCounts (sumCounts st.2.2 c) 3 lost swamp)) (0, (if d.clr then 0 else acc), noCounts)
  r.2

end Sys2Proof.Machine
end

