-- ==== Sys2Proof/Machine/Engine.lean ====
section
/-!
DEFINITION. Queued commands at work: which may start (R82, R279), the checks at their start (R278, R280 to R294), and what each
performs when it completes (R84 to R102, R285 to R293). COMMAND_START and COMMAND_COMPLETE.
-/
namespace Sys2Proof.Machine

/-! ## The cluster window -/

/-- The core of the package and the byte on it of a valid window offset (R48). -/
def Gang.winAt (g : Gang) (off : Nat) : Nat × Nat :=
  ((g.die * 8 + g.cluster) * 8 + off / 2 ^ 20, (match g.groupOn (off / 2 ^ 20) with
    | some x => x.scratch
    | none => 0) + off % 2 ^ 20)
/-- Bytes of the window, as a number. -/
def State.winGet (s : State) (g : Gang) (off n : Nat) : Nat := s.scratchGet (g.winAt off) n
/-- Write bytes into the window. -/
def State.winPut (s : State) (g : Gang) (off n x : Nat) : State := s.scratchPut (g.winAt off) (leBytes n x)
/-- Is one of the bytes in a poisoned word? -/
def State.winBad (s : State) (g : Gang) (off n : Nat) : Bool := n != 0 && s.scratchBad (g.winAt off) n
/-- Offset of row j. -/
def Region.row (r : Region) (j : Nat) : Nat := r.off + j * r.pitch
/-- Does every row lie on a core (R284, R285)? -/
def Region.onCore (r : Region) (c : Nat) : Bool := (List.range r.rows).all fun j => r.row j / 2 ^ 20 == c
/-- The first n bytes of each of the first m rows. -/
def State.regionRows (s : State) (g : Gang) (r : Region) (m n : Nat) : List Nat := (List.range m).map fun j => s.winGet g (r.row j) n
/-- Is one of those bytes poisoned? -/
def State.regionBad (s : State) (g : Gang) (r : Region) (m n : Nat) : Bool := (List.range m).any fun j => s.winBad g (r.row j) n
/-- The region on another core (R292). -/
def Region.on (r : Region) (c : Nat) : Region := { r with off := r.off % 2 ^ 20 + c * 2 ^ 20 }

/-! ## Checks at start (R278) -/

/-- A check that fails: the code, ADDR and INFO (R351). -/
abbrev Failing := Nat × Nat × Nat
/-- A condition that raises a code. -/
def failIf (b : Bool) (f : Failing) : Option Failing := if b then some f else none
/-- REGION with the descriptor that fails (R80, R351). -/
def Gang.failRegion (g : Gang) (d : DWord) : Option Failing := failIf (g.regionBad (regionOf d)) (codeREGION, 0, descInfo d)
/-- MXCFG. -/
def failCfg (b : Bool) : Option Failing := failIf b (codeMXCFG, 0, 0)

/-- MXCFG of an `mma` (R81, R85 to R89, R92, R284). -/
def mmaCfg (sp ol : Bool) (c a b : DWord) (desc : Word) (o : DWord) (n : Word) : Bool :=
  let t := tileOf c
  let d := accDescOf desc
  let ra := regionOf a
  let rb := regionOf b
  let ro := regionOf o
  t.rsv || d.rsv
  || (!t.empty
      && (t.bad || 4 < d.afmt || 4 < d.bfmt || 8 < d.planes || d.aln == 3 || d.spa != sp || d.out != ol
          || (mxFmt d.bfmt).w < d.planes
          || t.k % 2 ^ d.h0 != 0 || ((fmtBlock d.afmt || fmtBlock d.bfmt) && t.k % 32 != 0)
          || ra.len < rowBytes d.afmt t.k sp || ra.rows != t.m
          || (t.k != 0 && (rb.rows != t.n / 16 * ceilDiv t.k 32 || rb.len < (mxFmt d.bfmt).bytes))
          || (ol && (1024 < n.toNat || ro.rows * (ro.len / 8) < n.toNat))))
/-- REGION for a reserved bit of the regions of a command with EMPTY = 1, of whose fields only the reserved ones are checked (R80, R87;
log 56). -/
def failRsv (ds : List DWord) : Option Failing := (ds.find? fun d => (regionOf d).rsv).map fun d => (codeREGION, 0, descInfo d)
/-- REGION of an `mma`: the A region, the B region on the target core, the outlier region (R284, R351). -/
def Gang.mmaRegion (g : Gang) (ol : Bool) (a b o : DWord) : Option Failing :=
  (g.failRegion a).orElse fun _ => (g.failRegion b).orElse fun _ =>
    (failIf (!(regionOf b).onCore (regionOf b).core) (codeREGION, 0, descInfo b)).orElse fun _ =>
      if ol then g.failRegion o else none
/-- The outlier entries (R89, R284). -/
def State.outliers (s : State) (g : Gang) (o : DWord) (n : Nat) : List Nat :=
  let r := regionOf o
  (List.range n).map fun e => s.winGet g (r.row (e / (r.len / 8)) + 8 * (e % (r.len / 8))) 8
/-- Is one of the outlier entries poisoned? -/
def State.outlierPois (s : State) (g : Gang) (o : DWord) (n : Nat) : Bool :=
  let r := regionOf o
  (List.range n).any fun e => s.winBad g (r.row (e / (r.len / 8)) + 8 * (e % (r.len / 8))) 8
/-- Is an outlier entry malformed, or not above the one before it (R89)? -/
def outlierBad (t : Tile) : Option Nat → List Nat → Bool
  | _, [] => false
  | last, e :: r =>
    let key := e / 2 ^ 16 % 256 * 2 ^ 16 + e % 2 ^ 16
    e / 2 ^ 48 != 0 || e / 2 ^ 24 % 256 != 0 || t.m ≤ e / 2 ^ 16 % 256 || t.k ≤ e % 2 ^ 16
      || (match last with
          | some l => key ≤ l
          | none => false)
      || outlierBad t (some key) r

/-- The address of a gather's row j (R293). -/
def gathRow (rd gp : DWord) (idx : Nat) : Nat := (globalOf gp).1 + idx * ((globalOf gp).2.getD (regionOf rd).len)
/-- A gather's rows by its index list: an address, or none for a row of zeros. -/
def gathRows (rd gp : DWord) (ix : List Nat) : List (Option Nat) := ix.map fun x => if x = 0xFFFFFFFF then none else some (gathRow rd gp x)

/-- MXCFG of a `cpy` (R281, R289 to R292). -/
def copyCfg (out : Bool) (t : CpyT) (rg gp cc : DWord) : Bool :=
  let r := regionOf rg
  let c := ctlOf cc
  let e := 2 ^ c.esz
  c.rsv || (globalOf gp).1 % 16 != 0 || (out && c.mcast != 0)
  || (match t with
      | .none => c.kdim != 0 || c.ndim != 0 || c.esz != 0 || c.fmt != 0
      | .filig | .unfilig =>
        (t == .filig) == out || c.esz != 0 || c.kdim == 0 || c.ndim == 0 || c.ndim % 16 != 0 || 4 < c.fmt
          || r.rows != c.ndim / 16 * ceilDiv c.kdim 32 || r.len < (mxFmt c.fmt).bytes
      | .tr =>
        c.esz == 3 || c.fmt != 0 || c.kdim == 0 || c.ndim == 0
          || (if out then r.rows != c.kdim || r.len < c.ndim * e else r.rows != c.ndim || r.len < c.kdim * e))
  || (copyRows out t rg gp cc).any fun x => x.1 % 16 != 0
/-- The regions that a `cpy.in` writes: its own, or one on each multicast core (R292). -/
def copyRegions (rg cc : DWord) : List DWord :=
  if (ctlOf cc).mcast = 0 then [rg]
  else (coresOf (ctlOf cc).mcast).map fun c => (rg &&& ~~~(0x700000 : DWord)) ||| BitVec.ofNat 64 (c * 2 ^ 20)

/-- The addresses at which the pages of a row begin in it. -/
def pageStarts (row : Nat × Nat) : List Nat :=
  if row.2 = 0 then [] else row.1 :: (span (row.1 / 65536 + 1) ((row.1 + row.2 - 1) / 65536)).map (· * 65536)
/-- LEASEOUT, then PERM, of a command's whole global footprint (R281). -/
def State.failGlobal (s : State) (g : Gang) (rows : List (Nat × Nat)) (a : Acc) : Option Failing :=
  let space := match s.launch? g.launch with
    | some l => l.space
    | none => 0
  match rows.find? fun r => s.leaseOut g.launch r.1 r.2 with
  | some r => some (codeLEASEOUT, r.1 + ((List.range r.2).find? fun i => s.leaseOut g.launch (r.1 + i) 1).getD 0, 0)
  | none => ((rows.flatMap pageStarts).find? fun v => (s.denied space v a).isSome).map fun v =>
      (codePERM, v, (s.denied space v a).getD 0)

/-- THE CHECKS OF A COMMAND AT ITS START, in the order of R278: the first that fails, or what the command reads at its start and whether that
is poisoned, which it consumes only while it runs. -/
def State.startCheck (s : State) (g : Gang) (op : CmdOp) : Sum Failing (List Nat × Bool) :=
  let ok (f : Option Failing) (l : List Nat) (bad : Bool) : Sum Failing (List Nat × Bool) := match f with
    | some f => .inl f
    | none => .inr (l, bad)
  match op with
  | .mma sp ol c a b desc o n =>
    let t := tileOf c
    let d := accDescOf desc
    if t.empty then ok ((failCfg (mmaCfg sp ol c a b desc o n)).orElse fun _ => failRsv (if ol then [a, b, o] else [a, b])) [] false
    else match (failCfg (mmaCfg sp ol c a b desc o n)).orElse fun _ => g.mmaRegion ol a b o with
      | some f => .inl f
      | none =>
        let rows := if sp then s.regionRows g (regionOf a) t.m (rowBytes d.afmt t.k sp) else []
        let es := if ol then s.outliers g o n.toNat else []
        if rows.any (rowMeta d.afmt t.k) || outlierBad t none es then .inl (codeMXMETA, 0, 0)
        else .inr ((rows.flatMap (rowCodes d.afmt t.k)) ++ es,
          (sp && s.regionBad g (regionOf a) t.m (rowBytes d.afmt t.k sp)) || (ol && s.outlierPois g o n.toNat))
  | .mxld c rg =>
    let t := tileOf c
    let r := regionOf rg
    if t.empty then ok ((failCfg t.rsv).orElse fun _ => failRsv [rg]) [] false
    else ok ((failCfg (t.bad || r.rows != t.m || r.len < 4 * t.n)).orElse fun _ => (g.failRegion rg).orElse fun _ =>
      failIf (!r.onCore r.core) (codeREGION, 0, descInfo rg)) [] false
  | .mxst f rg c =>
    let t := tileOf c
    let r := regionOf rg
    if t.empty then ok ((failCfg t.rsv).orElse fun _ => failRsv [rg]) [] false
    else ok ((failCfg (t.bad || r.rows != t.m || r.len < mfmtBytes f * t.n)).orElse fun _ => (g.failRegion rg).orElse fun _ =>
      failIf (!r.onCore r.core) (codeREGION, 0, descInfo rg)) [] false
  | .mxclr c _ => ok (failCfg (tileOf c).bad) [] false
  | .cpy out t rg gp cc =>
    ok ((failCfg (copyCfg out t rg gp cc)).orElse fun _ =>
      (((if out then [rg] else copyRegions rg cc).filterMap g.failRegion).head?).orElse fun _ =>
        s.failGlobal g (copyRows out t rg gp cc) (if out then .store else .load)) [] false
  | .gath rd gp ri =>
    let r := regionOf rd
    let x := regionOf ri
    let ix := if g.regionBad x then [] else (List.range r.rows).map fun j => s.winGet g (x.off + 4 * j) 4
    let rows := gathRows rd gp ix
    match (failCfg ((globalOf gp).1 % 16 != 0 || x.rows != 1 || x.len < 4 * r.rows || rows.any fun a => (a.getD 0) % 16 != 0)).orElse
        fun _ => (g.failRegion rd).orElse fun _ => g.failRegion ri with
    | some f => .inl f
    | none =>
      ok (s.failGlobal g (rows.filterMap fun a => a.map fun a => (a, r.len)) .load) ix (s.winBad g x.off (4 * r.rows))
  | .place .. => .inr ([], false)
  | .colpost _ va _ => ok (s.failGlobal g [(va, 32)] .load) [] false
where
  /-- Bytes of an element of `mxst` (R286). -/
  mfmtBytes : MFmt → Nat
    | .f32 => 4
    | .bf16 | .f16 => 2
    | .e4m3 | .e5m2 => 1

/-! ## Which commands may start (R82, R279) -/

/-- May the command start, but for its unit? -/
def Gang.startable (g : Gang) (c : Cmd) : Bool := !c.started && g.mayStart c
/-- The commands of a cluster's gangs that are on one engine: each with its gang. An engine that one gang has released may still have
that gang's commands before it (R78, R79). -/
def State.onEngine (s : State) (g : Gang) (c : Cmd) : List (Gang × Cmd) :=
  (s.gangs.filter fun x => x.2.die == g.die && x.2.cluster == g.cluster).flatMap fun (x : Nat × Gang) =>
    (x.2.queue.filter fun y => y.op.engine == c.op.engine).map fun y => (x.2, y)
/-- Is the command the one that its engine takes next, the engine being idle: of those that may start, the earliest posted, a cluster
posting at most one command in a cycle (R76, R82)? -/
def State.engineFree (s : State) (g : Gang) (c : Cmd) : Bool :=
  (s.onEngine g c).all fun y => !y.2.started && !(y.1.startable y.2 && (y.2.since < c.since || (y.1.ctx == g.ctx && y.2.id < c.id)))
/-- Started copy commands of a cluster. -/
def State.channels (s : State) (g : Gang) : Nat :=
  s.gangs.foldl (fun n x => if x.2.die = g.die ∧ x.2.cluster = g.cluster then
    n + (x.2.queue.filter fun c => c.started && c.op.isCopy).length else n) 0
/-- The earliest copy command of a gang that may start. -/
def Gang.nextCopy (g : Gang) : Option Cmd := g.queue.find? fun c => c.op.isCopy && g.startable c
/-- Is it the gang's turn for a copy channel: the first context after the one granted last (R279)? -/
def State.channelTurn (s : State) (g : Gang) : Bool :=
  let last := (s.cluster (g.die * 8 + g.cluster)).chan
  let rank (x : Gang) : Nat := (x.ctx + 31 - last) % 16
  !(s.gangs.any fun x => x.2.die == g.die && x.2.cluster == g.cluster && x.2.nextCopy.isSome && rank x.2 < rank g)
/-- May the command start now? -/
def State.canStart (s : State) (g : Gang) (c : Cmd) : Bool :=
  g.startable c
  && (match c.op with
      | .place .. => false
      | .colpost .. => true
      | _ => if c.op.isCopy then s.channels g < 4 && g.nextCopy == some c && s.channelTurn g else s.engineFree g c)

/-! ## Completion -/

/-- Least cycles of a command (R87): those of an `mma`. -/
def CmdOp.cycles (op : CmdOp) : Nat :=
  match op with
  | .mma sp _ c a b desc _ _ =>
    let t := tileOf c
    let d := accDescOf desc
    let p := if d.planes = 0 then (mxFmt d.bfmt).w else d.planes
    let p := if p ≤ 1 then 1 else if p ≤ 2 then 2 else if p ≤ 4 then 4 else 8
    let n := ceilDiv (t.m * t.n) 256 * ceilDiv (t.k * p) 8 * (if (regionOf a).core = (regionOf b).core then 1 else 2)
    if sp then ceilDiv n 2 else n
  | _ => 0
/-- The rows of global memory that a started command accesses, and whether it writes them. -/
def Cmd.global (c : Cmd) : List (Nat × Nat) × Bool :=
  match c.op with
  | .cpy out t rg gp cc => (copyRows out t rg gp cc, out)
  | .gath rd gp _ => ((gathRows rd gp c.read).filterMap fun a => a.map fun a => (a, (regionOf rd).len), false)
  | .colpost _ va _ => ([(va, 32)], false)
  | _ => ([], false)
/-- The space of a gang's launch. -/
def State.spaceOf (s : State) (g : Gang) : Nat :=
  match s.launch? g.launch with
  | some l => l.space
  | none => 0
/-- The home lines of those rows. -/
def State.cmdLines (s : State) (g : Gang) (c : Cmd) : List (Nat × Bool) :=
  (sortAsc (c.global.1.flatMap fun r => (s.pieces (s.spaceOf g) r.1 r.2).map fun p => lineOf p.1)).map fun l => (l, c.global.2)
/-- Does a command wait for a migration: a write of a page that migrates, a read of one that is forwarding, or of a line with a queued
write (R346)? -/
def State.cmdFrozen (s : State) (g : Gang) (c : Cmd) : Bool :=
  ((c.global.1.flatMap pageStarts).any fun v => match s.page? (s.spaceOf g) v with
    | some p => if c.global.2 then p.mig != 0 else p.mig == 2
    | none => false)
  || (s.cmdLines g c).any fun l => s.lineQueued l.1
/-- Has the queue pair of a queued `colpost` room for its entry, or does it refuse it (R171, R176)? -/
def State.queueRoom (s : State) (g : Gang) (h : Word) : Bool :=
  (s.queueKept (s.spaceOf g) h).all fun x => decide (x.2.2.2.queue.length < queueSize) || x.2.2.2.refused
/-- May the command complete, but for its lines? -/
def State.mayComplete (s : State) (g : Gang) (c : Cmd) : Bool :=
  c.started && c.since + c.op.cycles ≤ s.cycle && (match c.op with
    | .place .. => false
    | .colpost h _ _ => s.queueRoom g h && !s.cmdFrozen g c
    | _ => !s.cmdFrozen g c)

/-- A row of global memory as a number, with the virtual address of its first poisoned piece. -/
def State.globalRow (s : State) (g : Gang) (r : Nat × Nat) : Nat × Option Nat :=
  let ps := s.pieces (s.spaceOf g) r.1 r.2
  (leNat (s.readPieces ps).1, (ps.find? fun p => s.poisoned p.1 p.2.2).map fun p => r.1 + p.2.1)
/-- Write a row of global memory. -/
def State.globalPut (s : State) (g : Gang) (r : Nat × Nat) (x : Nat) : State :=
  s.writePieces (s.whoOf g.launch) (s.pieces (s.spaceOf g) r.1 r.2) (leBytes r.2 x)

/-- An element of a number of elements of e bytes. -/
def cellOf (x e i : Nat) : Nat := x / 2 ^ (8 * e * i) % 2 ^ (8 * e)
/-- A number of elements of e bytes. -/
def cellsOf (e : Nat) (l : List Nat) : Nat := l.foldr (fun x n => x + 2 ^ (8 * e) * n) 0
/-- A Filigree block of elements by column and index, with each column's scales (R85). -/
def filigBlock (f : Nat) (el : Nat → Nat → Nat) (sc : Nat → Nat × Nat) : Nat :=
  let g := mxFmt f
  (List.range 16).foldl (fun n c =>
    let n := n + (if fmtBlock f then (sc c).1 * 2 ^ (8 * (g.scale + c)) else 0) + (if f = 3 then (sc c).2 * 2 ^ (8 * (g.scale + 16 + c)) else 0)
    (List.range 32).foldl (fun n i =>
      let r := rawElem f (el c i)
      (List.range g.w).foldl (fun n q => if r.2.2.testBit (g.w - 1 - q) then n + 2 ^ (8 * (g.plane + 64 * q + 4 * c) + i) else n)
        (n + (if r.1 then 2 ^ (32 * c + i) else 0) + r.2.1 * 2 ^ (512 + (32 * c + i) * g.x))) n) 0
/-- The block rows of a B region from its rows in global memory (R291). -/
def filigRows (c : CopyCtl) (rows : List Nat) : List Nat :=
  let nkb := ceilDiv c.kdim 32
  (List.range (c.ndim / 16 * nkb)).map fun r =>
    let pn := r / nkb
    let kb := r % nkb
    let image (col : Nat) : Nat := rows.getD ((16 * pn + col) * nkb + kb) 0
    filigBlock c.fmt
      (fun col i => if c.kdim ≤ 32 * kb + i then 0
        else if fmtBlock c.fmt then image col / 16 ^ i % 16
        else cellOf (rows.getD (32 * kb + i) 0) (fmtBytes c.fmt) (16 * pn + col))
      (fun col => (byteOf (image col) 16, byteOf (image col) 17))
/-- The rows of global memory from a B region's block rows (R291). -/
def unfiligRows (c : CopyCtl) (blocks : List Nat) : List Nat :=
  let nkb := ceilDiv c.kdim 32
  let part (col kb i : Nat) : Nat :=
    let b := blockParts c.fmt (blocks.getD (col / 16 * nkb + kb) 0) (col % 16) i
    joinElem c.fmt b.1 b.2.1 b.2.2.1
  if fmtBlock c.fmt then
    (List.range (c.ndim * nkb)).map fun r =>
      let col := r / nkb
      let kb := r % nkb
      let b := blockParts c.fmt (blocks.getD (col / 16 * nkb + kb) 0) (col % 16) 0
      (List.range 32).foldl (fun n i => n + part col kb i * 16 ^ i) (b.2.2.2.1 * 2 ^ 128 + (if c.fmt = 3 then b.2.2.2.2 * 2 ^ 136 else 0))
  else (List.range c.kdim).map fun k => cellsOf (fmtBytes c.fmt) ((List.range c.ndim).map fun n => part n (k / 32) (k % 32))
/-- Rows transposed: `n` rows of `m` elements each (R291). -/
def transposed (e m n : Nat) (rows : List Nat) : List Nat :=
  (List.range n).map fun j => cellsOf e ((List.range m).map fun i => cellOf (rows.getD i 0) e j)

/-- What a command's performance comes to: done, or consumed poison, with the virtual address where it is global (R281). -/
abbrev Performed := Sum (Option Nat) State

/-- Write rows into a region. -/
def State.putRows (s : State) (g : Gang) (r : Region) (n : Nat) (rows : List Nat) : State :=
  (List.range rows.length).foldl (fun s j => s.winPut g (r.row j) n (rows.getD j 0)) s

/-- The products of a tile's position, and its outlier products (R94, R100). -/
def products (row : List (Option Elem)) (col : List Elem) (outs : List (Nat × Elem)) : List Prod' × List (Nat × Prod') :=
  (List.zipWith (fun a b => match a with
    | some a => Elem.mul a b
    | none => .none) row col,
   outs.map fun o => (o.1, match col[o.1]? with
    | some b => o.2.mul b
    | none => .none))
/-- An `mma`'s new elements, row by row, and its counts (R87 to R102). -/
def State.mmaTile (s : State) (g : Gang) (cid : Nat) (sp ol : Bool) (c a b : DWord) (desc : Word) (read : List Nat) : List Nat × Counts :=
  let t := tileOf c
  let d := accDescOf desc
  let p := if d.planes = 0 then (mxFmt d.bfmt).w else d.planes
  let nc := if sp then t.k / 4 else 0
  let nkb := ceilDiv t.k 32
  let blocks := if t.k = 0 then [] else s.regionRows g (regionOf b) (t.n / 16 * nkb) (mxFmt d.bfmt).bytes
  let cols := (List.range t.n).map fun n => (List.range t.k).map fun k =>
    blockElem d.bfmt p (blocks.getD (n / 16 * nkb + k / 32) 0) (n % 16) (k % 32)
  let es := if ol then read.drop (nc * t.m) else []
  let res := (List.range t.m).flatMap fun m =>
    let x := s.winGet g ((regionOf a).row m) (rowBytes d.afmt t.k sp)
    let row := (List.range t.k).map (rowElem d.afmt t.k x sp ((read.drop (nc * m)).take nc))
    let outs := (es.filter fun e => e / 2 ^ 16 % 256 == m).map fun e =>
      let r := rawElem 4 (e / 2 ^ 32 % 2 ^ 16)
      (e % 2 ^ 16, elemOf 4 r.1 r.2.1 r.2.2 0 0)
    (List.range t.n).map fun n =>
      let ps := products row (cols.getD n []) outs
      positionOf d (SMap.getD (s.core cid).acc (t.eoff + m * t.n + n) (0 : Word)).toNat ps.1 ps.2
  (res.map (·.1), (res.foldl (fun c r => sumCounts c r.2) noCounts).map sat32)
/-- The 64-bit words of the accumulator store that hold a tile's elements, which lie in whole words (R81, R352). -/
def Tile.words (t : Tile) : List Nat := (List.range (t.m * t.n / 2)).map fun i => t.eoff / 2 + i
/-- Is one of a tile's words poisoned (R352)? -/
def State.tileBad (s : State) (cid : Nat) (t : Tile) : Bool := (s.core cid).accPois.any fun w => t.words.contains w
/-- Write a tile's elements, whole words, which lose their poison (R353). -/
def State.putTile (s : State) (cid : Nat) (t : Tile) (vals : List Nat) : State :=
  s.updCore cid fun k => { k with
    accPois := if vals.isEmpty then k.accPois else k.accPois.filter fun w => !t.words.contains w
    acc := (List.range vals.length).foldl (fun m i => SMap.set 0 m (t.eoff + i) (BitVec.ofNat 32 (vals.getD i 0))) k.acc }
/-- The engine's monitors after a command with MON = 1, and the die's totals (R102, R371). -/
def State.putMon (s : State) (die cid : Nat) (c : Counts) : State :=
  (s.updCore cid fun k => { k with engine := { k.engine with mon := c.map (BitVec.ofNat 32) } }).updMod fun m => { m with
    swtot := updAt m.swtot die fun t => (t.zip c).map fun x => min (x.1 + x.2) (2 ^ 64 - 1) }
/-- The conversion of an element by `mxst` (R286). -/
def mxstBits (f : MFmt) (x : Nat) : Nat :=
  match f with
  | .f32 => x
  | .bf16 => bf16.round .rne false (fp32.value x)
  | .f16 => fp16.round .rne false (fp32.value x)
  | .e4m3 => e4m3.round .rne true (fp32.value x)
  | .e5m2 => e5m2.round .rne true (fp32.value x)

/-- PERFORM a started command; its home lines are there (R280). -/
def State.performCmd (s : State) (g : Gang) (c : Cmd) : Performed :=
  let base := (g.die * 8 + g.cluster) * 8
  match c.op with
  | .mma sp ol cd a b desc _ _ =>
    let t := tileOf cd
    let d := accDescOf desc
    let cid := base + (regionOf b).core
    let p := if d.planes = 0 then (mxFmt d.bfmt).w else d.planes
    if c.bad || (!t.empty && !d.clr && t.k != 0 && s.tileBad cid t) || (!t.empty && t.k != 0 && (s.regionBad g (regionOf a) t.m (rowBytes d.afmt t.k sp)
        || s.regionBad g (regionOf b) (t.n / 16 * ceilDiv t.k 32) ((mxFmt d.bfmt).plane + 64 * p))) then .inl none
    else
      let r := if t.empty || (t.k == 0 && !d.clr) then ([], noCounts) else s.mmaTile g cid sp ol cd a b desc c.read
      let s := s.putTile cid t r.1
      .inr (if d.mon then s.putMon g.die cid r.2 else s)
  | .mxld cd rg =>
    let t := tileOf cd
    let r := regionOf rg
    if s.regionBad g r t.m (4 * t.n) then .inl none
    else .inr (s.putTile (base + r.core) t ((s.regionRows g r t.m (4 * t.n)).flatMap fun x => (List.range t.n).map (cellOf x 4)))
  | .mxst f rg cd =>
    let t := tileOf cd
    let r := regionOf rg
    let e := State.startCheck.mfmtBytes f
    if s.tileBad (base + r.core) t then .inl none
    else .inr (s.putRows g r (e * t.n) ((List.range t.m).map fun m => cellsOf e ((List.range t.n).map fun n =>
      mxstBits f (SMap.getD (s.core (base + r.core)).acc (t.eoff + m * t.n + n) (0 : Word)).toNat)))
  | .mxclr cd core => .inr (s.putTile (base + core) (tileOf cd) (List.replicate ((tileOf cd).m * (tileOf cd).n) 0))
  | .cpy out t rg gp cc =>
    let r := regionOf rg
    let ctl := ctlOf cc
    let rows := copyRows out t rg gp cc
    let e := 2 ^ ctl.esz
    if out then
      let (m, n) := match t with
        | .tr => (ctl.kdim, ctl.ndim * e)
        | .none => (r.rows, r.len)
        | _ => (r.rows, (mxFmt ctl.fmt).bytes)
      if s.regionBad g r m n then .inl none
      else
        let src := s.regionRows g r m n
        let data := match t with
          | .none => src
          | .tr => transposed e ctl.kdim ctl.ndim src
          | _ => unfiligRows ctl src
        .inr ((rows.zip data).foldl (fun s x => s.globalPut g x.1 x.2) s)
    else
      let src := rows.map (s.globalRow g)
      match (src.filterMap (·.2)).head? with
      | some va => .inl (some va)
      | none =>
        let (n, data) := match t with
          | .none => (r.len, src.map (·.1))
          | .tr => (ctl.kdim * e, transposed e ctl.kdim ctl.ndim (src.map (·.1)))
          | _ => ((mxFmt ctl.fmt).bytes, filigRows ctl (src.map (·.1)))
        .inr ((copyRegions rg cc).foldl (fun s d => s.putRows g (regionOf d) n data) s)
  | .gath rd gp _ =>
    let r := regionOf rd
    let src := (gathRows rd gp c.read).map fun a => match a with
      | some a => s.globalRow g (a, r.len)
      | none => (0, none)
    if c.bad then .inl none
    else match (src.filterMap (·.2)).head? with
    | some va => .inl (some va)
    | none => .inr (s.putRows g r r.len (src.map (·.1)))
  | .place .. | .colpost .. => .inr s

/-- A command leaves the queue (R82). -/
def State.dropCmd (s : State) (gid id : Nat) : State :=
  ((s.updGang gid fun g => { g with queue := g.queue.filter fun y => y.id ≠ id }).queueSettle gid).gangCheck gid
/-- A command faults: it and its dependents leave the queue (R90); of a gang that has been ended nothing more is reported. -/
def State.faultCmd (s : State) (gid : Nat) (c : Cmd) (code addr info : Nat) : State :=
  ((s.updGang gid fun g => if g.killed then { g with queue := g.queue.filter fun y => y.id ≠ c.id }
    else g.engineFault c (c.fault s.cycle code addr info)).queueSettle gid).gangCheck gid

/-- COMMAND_START (R82, R278): the checks; then the command runs on its unit. -/
def execCommandStart (gid id : Nat) (s : State) : Host.Outcome State Fault Refusal :=
  .next (match (s.gang? gid).bind fun g => (g.queue.find? fun c => c.id == id).map fun c => (g, c) with
    | none => s
    | some (g, c) =>
      if !s.canStart g c then s
      else match s.startCheck g c.op with
        | .inl (code, addr, info) => s.faultCmd gid c code addr info
        | .inr read =>
          let s := s.setGang gid { g with queue := g.queue.map fun y =>
            if y.id = id then { y with started := true, since := s.cycle, read := read.1, bad := read.2 } else y }
          let k := g.die * 8 + g.cluster
          let s := if c.op.isCopy then s.setCluster k { s.cluster k with chan := g.ctx } else s
          match c.op with
          | .mma _ _ _ _ b desc _ _ =>
            if (accDescOf desc).mon then s.updCore (k * 8 + (regionOf b).core) fun x => { x with engine := { x.engine with mon := Engine.reset.mon } }
            else s
          | _ => s)

/-- A command consumes poison, in global memory where an address is given (R281, R341, R354). -/
def State.poisonCmd (s : State) (gid : Nat) (g : Gang) (c : Cmd) (va : Option Nat) : State :=
  match va with
  | some v => (s.markPois (s.spaceOf g) v).faultCmd gid c codePOISON ((s.pa? (s.spaceOf g) v).getD 0) 0
  | none => s.faultCmd gid c codePOISON 0 0
/-- A queued `colpost`, whose entry's line is there: the entry is read and checked, and enters its queue (R171, R280). Where its source is
not what its bytes named at the posting, it waits in turn for the commands that write that. -/
def State.performColpost (s : State) (gid : Nat) (g : Gang) (c : Cmd) (h : Word) (va : Nat) (src : List FRange) : State :=
  let space := s.spaceOf g
  match s.pa? space va, s.queueKept space h with
  | some pa, some (peer, pqp, n, q) =>
    let x := Memory.le s.mem pa 32
    let op := CmdOp.colpost h va (entrySource x)
    if s.poisoned pa 32 then s.poisonCmd gid g c (some va)
    else if q.refused || !s.entryOk space x then s.faultCmd gid c codeCAPPERM 0 h.toNat
    else if entrySource x ≠ src ∧ !g.mayStart { c with op := op } then
      s.updGang gid fun g => { g with queue := g.queue.map fun y => if y.id = c.id then { y with op := op, started := false } else y }
    else ((s.unstage (s.whoOf g.launch)).postEntry n x (s.whoOf g.launch) (s.endpoint g.die) peer pqp (acceptedBy space h)).dropCmd gid c.id
  | some _, none => s.faultCmd gid c codeCAPPERM 0 h.toNat
  | none, _ => s.faultCmd gid c codePERM va 1

/-- COMMAND_COMPLETE (R82, R280, R281): the command performs its reads and writes and leaves the queue, once its lines are at their
homes. Its accesses are checked again, under the entries that stand now (R342; log 95). -/
def execCommandComplete (gid id : Nat) (s : State) : Host.Outcome State Fault Refusal :=
  .next (match (s.gang? gid).bind fun g => (g.queue.find? fun c => c.id == id).map fun c => (g, c) with
    | none => s
    | some (g, c) =>
      if !s.mayComplete g c then s
      else match s.failGlobal g c.global.1 (if c.global.2 then .store else .load) with
        | some (code, addr, info) => s.faultCmd gid c code addr info
        | none =>
          let lines := s.cmdLines g c
          match s.homeAccess (gangAgent gid) lines with
          | (s, false) => s
          | (s, true) =>
            (match c.op, s.performCmd g c with
             | .colpost h va src, _ => s.performColpost gid g c h va src
             | _, .inr t => t.dropCmd gid id
             | _, .inl va => s.poisonCmd gid g c va).homeDone (gangAgent gid) lines)

end Sys2Proof.Machine
end

