-- ==== Sys2Proof/Machine/Acier.lean ====
section
/-!
DEFINITION. The Acier portable form (R307): which text is one. Text is UTF-8 in the verbose notation of R180 to R187 with the differences
of R307. That each instruction has the types and the operands of its own row is `Config.acierAccepted` (log 10).
-/
namespace Sys2Proof.Machine

/-- Text as the numbers of its bytes. -/
abbrev Text := List Nat
/-- The bytes of an ASCII string. -/
def asc (x : String) : Text := x.toList.map Char.toNat
/-- Pieces of text between separators. -/
def cutAt (sep : Nat) (t : Text) : List Text :=
  t.foldr (fun c l => if c = sep then [] :: l else match l with
    | w :: r => (c :: w) :: r
    | [] => [[c]]) [[]]
/-- The words of an ASCII string. -/
def ascWords (x : String) : List Text := cutAt 32 (asc x)

/-- Is text well-formed UTF-8? `n` continuation bytes are still due, the next from `lo` to `hi`. -/
def utf8From : Nat → Nat → Nat → Text → Bool
  | 0, _, _, [] => true
  | _ + 1, _, _, [] => false
  | n + 1, lo, hi, b :: r => decide (lo ≤ b ∧ b ≤ hi) && utf8From n 0x80 0xBF r
  | 0, _, _, b :: r =>
    if b < 0x80 then utf8From 0 0 0 r
    else if 0xC2 ≤ b ∧ b ≤ 0xDF then utf8From 1 0x80 0xBF r
    else if 0xE0 ≤ b ∧ b ≤ 0xEF then utf8From 2 (if b = 0xE0 then 0xA0 else 0x80) (if b = 0xED then 0x9F else 0xBF) r
    else if 0xF0 ≤ b ∧ b ≤ 0xF4 then utf8From 3 (if b = 0xF0 then 0x90 else 0x80) (if b = 0xF4 then 0x8F else 0xBF) r
    else false

/-! ## Words of a line (R180) -/

/-- Letters, digits and underscores. -/
def isLetter (c : Nat) : Bool := decide (65 ≤ c ∧ c ≤ 90) || decide (97 ≤ c ∧ c ≤ 122)
def isDigit (c : Nat) : Bool := decide (48 ≤ c ∧ c ≤ 57)
def isWordChar (c : Nat) : Bool := isLetter c || isDigit c || (asc "_.%#-?!~").contains c
/-- The words of a line: runs of word characters, and every other character but a space by itself. -/
def lineWords (t : Text) : List Text :=
  (t.foldr (fun c (l : List Text × Bool) =>
    if c = 32 ∨ c = 9 ∨ c = 13 then (l.1, false)
    else if !isWordChar c then ([c] :: l.1, false)
    else match l with
      | (w :: r, true) => ((c :: w) :: r, true)
      | (r, _) => ([c] :: r, true)) ([], false)).1
/-- A line without its comment. -/
def beforeComment (t : Text) : Text := t.takeWhile fun c => c != 59

/-- The value of digits of a base, with underscores between digits where `under` allows them; `d`: a digit stands before. -/
def digitsFrom (base : Nat) (under : Bool) : Bool → Nat → Text → Option Nat
  | d, n, [] => if d then some n else none
  | d, n, c :: r =>
    let x := if isDigit c then c - 48 else if 97 ≤ c ∧ c ≤ 102 then c - 87 else if 65 ≤ c ∧ c ≤ 70 then c - 55 else base
    if x < base then digitsFrom base under true (n * base + x) r
    else if under && d && c == 95 then digitsFrom base under false n r
    else none
/-- A number (R180). -/
def textNum (t : Text) : Option Int :=
  if t.take 2 = asc "0x" then (digitsFrom 16 true false 0 (t.drop 2)).map Int.ofNat
  else if t.take 2 = asc "0b" then (digitsFrom 2 true false 0 (t.drop 2)).map Int.ofNat
  else if t.take 1 = asc "-" then (digitsFrom 10 false false 0 (t.drop 1)).map fun n => -(n : Int)
  else (digitsFrom 10 false false 0 t).map Int.ofNat
/-- Is a word an identifier (R180)? -/
def isIdent (t : Text) : Bool :=
  isLetter (t.headD 0) && decide (t.length ≤ 63) && t.all fun c => isLetter c || isDigit c || c == 95
/-- A register that a word names: its letter and its number (R181). -/
def textReg (t : Text) : Option (Nat × Nat) :=
  let c := t.headD 0
  let ds := t.drop 1
  (digitsFrom 10 false false 0 ds).bind fun n =>
    let top := if c = 118 then 95 else if c = 107 then 23 else if c = 103 ∨ c = 112 then 7 else 0
    if (asc "vkgp").contains c && decide (n ≤ top) && (ds.length == 1 || ds.headD 48 != 48) then some (c, n) else none

/-! ## What the notation knows -/

/-- The mnemonics of instructions, without their suffixes (R203 to R212). -/
def acierMnemonics : List Text :=
  ascWords "iadd isub iaddi imul imad imulhi imulw idiv irem imin imax iabs ineg not and or xor andn shl shr sar shli shri sari popc"
  ++ ascWords "clz ctz brev bfx bfi bmix sel mov movi movh movs icmp icmpi add64 sub64 lea shl64 shr64 bra brx call ret joinat exit trap eret"
  ++ ascWords "yield nop winb rgn sigchk bar gbind gstat gloop rgwait rgdone cpy fadd fsub fmul ffma fdiv sqrt fscale fmin fmax fabs fneg"
  ++ ascWords "fcmp frint fclass rcp rsq exp2 log2 sinpi cospi tanh hadd2 hmul2 hfma2 hmin2 hmax2 setfpc cvt qmx qdx dqmx dqdx plane xlane"
  ++ ascWords "ptest pmask lfold lkey ld st ldw lds sts ldk atom atoms pf lease unlease wchk waitc fence dqpush dqpop dqsteal ctradd ctrwait"
  ++ ascWords "ldf stf fencef atomf colpost mxacq mxrel mxld mxst mxclr sqwait gath mxmon vwr vrd mma brk"
/-- Those that a parallel region refuses (R307). -/
def regionRefused : List Text := ascWords "bar xlane ptest pmask lfold lkey plane qmx qdx dqmx dqdx winb rgn joinat sigchk"
/-- The special registers (R30). -/
def specialNames : List Text :=
  ascWords "%lane %lanemask %strand %nstrand %group %ngroup %gangx %gangy %gangz %ngangx %ngangy %ngangz %launch %quad %core %cluster %die"
  ++ ascWords "%endpoint %winbase %regs %preq %fault %faultpc %faultpchi %faultinfo"
/-- The special registers that a region refuses (R307). -/
def specialRefused : List Text := ascWords "%lanemask %strand %nstrand"
/-- The fields of the accumulation descriptor (R187). -/
def accFields : List Text := ascWords "l0 l1 l2 w0 w1 w2 aln frnd planes mon clr afmt bfmt spa out"

/-! ## Statements -/

/-- Where a reader of the text stands: in a kernel; its directives and sections so far; its section (0 none, 1 text, 2 sequencer, 3 data);
inside a region; the names defined and used. -/
structure AcierAt where
  opened : Bool
  inKernel : Bool
  seen : List Text
  sec : Nat
  par : Bool
  defs : List Text
  uses : List Text
  deriving DecidableEq, Repr

/-- Before the text. -/
def AcierAt.start : AcierAt := { opened := false, inKernel := false, seen := [], sec := 0, par := false, defs := [], uses := [] }
/-- A name is defined, which it was not before. -/
def AcierAt.define (a : AcierAt) (x : Text) : Option AcierAt :=
  if a.inKernel && isIdent x && !a.defs.contains x then some { a with defs := x :: a.defs } else none
/-- A directive or a section that stands once in a kernel. -/
def AcierAt.once (a : AcierAt) (x : Text) : Option AcierAt :=
  if a.inKernel && !a.par && !a.seen.contains x then some { a with seen := x :: a.seen } else none

/-- May a register be named here (R307)? Outside a region, strand text names only k registers and predicates. -/
def AcierAt.regOk (a : AcierAt) (r : Nat × Nat) : Bool := a.par || a.sec == 2 || r.1 == 107 || r.1 == 112
/-- The names that an immediate uses, or none where it is no immediate. -/
def immUses (t : Text) : Option (List Text) :=
  if t.headD 0 ≠ 35 then none
  else if (textNum (t.drop 1)).isSome then some []
  else if isIdent (t.drop 1) then some [t.drop 1] else none
/-- The names that a plain operand uses, or none where it is no operand that may stand here: a register, a special register, an immediate,
a number, a label. -/
def AcierAt.plain (a : AcierAt) (t : Text) : Option (List Text) :=
  match textReg t with
  | some r => if a.regOk r then some [] else none
  | none =>
    if t.headD 0 = 37 then (if specialNames.contains t && !(a.par && specialRefused.contains t) then some [] else none)
    else if t.headD 0 = 35 then immUses t
    else if (textNum t).isSome then some []
    else if isIdent t then some [t] else none
/-- The names that an operand uses, or none where it is none: plain, in brackets, or a field of a descriptor (R181, R187). -/
def AcierAt.operand (a : AcierAt) (o : List Text) : Option (List Text) :=
  match o with
  | [t] => a.plain t
  | [l, t, r] =>
    if l = asc "[" ∧ r = asc "]" then (if (textReg t).isSome then a.plain t else none)
    else if t = asc "=" ∧ accFields.contains l ∧ ((textNum r).isSome ∨ isIdent r) then some [] else none
  | [l, t, p, x, r] => if l = asc "[" ∧ p = asc "+" ∧ r = asc "]" ∧ (textReg t).isSome then
      (a.plain t).bind fun _ => immUses x else none
  | _ => none
/-- Operands between commas. -/
def cutCommas (ws : List Text) : List (List Text) :=
  ws.foldr (fun w l => if w = asc "," then [] :: l else match l with
    | o :: r => (w :: o) :: r
    | [] => [[w]]) [[]]
/-- A guard: `?pN` or `?!pN`, but not `?!p0` (R181). -/
def isGuard (t : Text) : Bool :=
  t.headD 0 == 63 && (if (t.drop 1).headD 0 = 33 then (match textReg (t.drop 2) with
      | some (c, n) => c == 112 && n != 0
      | none => false)
    else match textReg (t.drop 1) with
      | some (c, _) => c == 112
      | none => false)

/-- An instruction: a guard, a mnemonic with its suffixes, its operands (R181, R307). -/
def AcierAt.instruction (a : AcierAt) (ws : List Text) : Option AcierAt :=
  match ws with
  | g :: m :: ops =>
    let base := (cutAt 46 m).headD []
    if (a.sec == 1 || a.sec == 2) && isGuard g && acierMnemonics.contains base && !(a.par && regionRefused.contains base) then
      (if ops.isEmpty then some a
       else (cutCommas ops).foldl (fun x o => x.bind fun x => (a.operand o).map fun u => { x with uses := u ++ x.uses }) (some a))
    else none
  | _ => none

/-- Does a number lie in a range? -/
def inRange (x : Option Int) (lo hi : Int) : Bool :=
  match x with
  | some v => decide (lo ≤ v ∧ v ≤ hi)
  | none => false
/-- Values between commas, each of which must pass. -/
def valuesOk (ws : List Text) (f : Text → Bool) : Bool := (cutCommas ws).all fun o => match o with
  | [x] => f x
  | _ => false
/-- May the value of a descriptor directive be this (R183, R307)? None where the directive is no such. -/
def descriptorOk (d : Text) (ws : List Text) : Option Bool :=
  let n := match ws with
    | [x] => textNum x
    | _ => none
  let mult (k : Int) : Bool := match n with
    | some v => v % k == 0
    | none => false
  if d = asc ".threads" then some (inRange n 1 65536)
  else if d = asc ".gang" then some ([some 1, some 2, some 4, some 8].contains n)
  else if d = asc ".regs" then some (inRange n 32 512 && mult 32)
  else if d = asc ".scratch" then some (inRange n 0 786432)
  else if d = asc ".barriers" then some (inRange n 0 32)
  else if d = asc ".args" then some (inRange n 0 4096)
  else if d = asc ".signet" ∨ d = asc ".stallcheck" then some ws.isEmpty
  else none
/-- Bounds of the values of a data directive, signed or unsigned. -/
def dataBits (d : Text) : Option Nat :=
  if d = asc ".byte" then some 8 else if d = asc ".half" then some 16 else if d = asc ".word" then some 32 else none

/-- A directive (R183, R307); any other is refused, `.bundle`, `.ext` and `.strands` among them. -/
def AcierAt.directive (a : AcierAt) (d : Text) (ws : List Text) : Option AcierAt :=
  if d = asc ".kernel" then
    (match ws with
     | [x] => if !a.inKernel && isIdent x then some { AcierAt.start with opened := true, inKernel := true } else none
     | _ => none)
  else if !a.inKernel then none
  else match descriptorOk d ws, dataBits d with
    | some ok, _ => if ok && a.sec == 0 then a.once d else none
    | none, some b =>
      if a.sec == 3 && valuesOk ws (fun x => inRange (textNum x) (-(2 : Int) ^ (b - 1)) (2 ^ b - 1)) then some a else none
    | none, none =>
      if d = asc ".trap" then
        (match ws with
         | [x] => if a.sec == 0 && isIdent x then (a.once d).map fun a => { a with uses := x :: a.uses } else none
         | _ => none)
      else if d = asc ".equ" then
        (match ws with
         | [x, c, v] => if c = asc "," ∧ (textNum v).isSome then a.define x else none
         | _ => none)
      else if d = asc ".text" ∧ ws = [] then (a.once d).map fun a => { a with sec := 1 }
      else if d = asc ".sequencer" ∧ ws = [] then (a.once d).map fun a => { a with sec := 2 }
      else if d = asc ".data" ∧ ws = [] then (a.once d).map fun a => { a with sec := 3 }
      else if d = asc ".par" ∧ ws = [] then (if a.sec == 1 && !a.par then some { a with par := true } else none)
      else if d = asc ".endpar" ∧ ws = [] then (if a.par then some { a with par := false } else none)
      else if d = asc ".align" then
        (match ws with
         | [x] => if a.sec == 3 && ((List.range 13).any fun i => textNum x == some ((2 : Int) ^ i)) then some a else none
         | _ => none)
      else if d = asc ".table" then
        (if a.sec == 3 && valuesOk ws isIdent && decide ((cutCommas ws).length ≤ 4096) then
          some { a with uses := (cutCommas ws).flatten ++ a.uses } else none)
      else if d = asc ".end" ∧ ws = [] then
        (if !a.par && a.seen.contains (asc ".threads") && a.seen.contains (asc ".text") && a.uses.all (fun x => a.defs.contains x) then
          some { AcierAt.start with opened := true } else none)
      else none

/-- A line of words: a label, then at most one statement; `.acier 1` is the first (R180, R307). -/
def AcierAt.line (a : AcierAt) (ws : List Text) : Option AcierAt :=
  let stmt (a : AcierAt) (ws : List Text) : Option AcierAt := match ws with
    | [] => some a
    | w :: r =>
      if !a.opened then (if w = asc ".acier" ∧ r = [asc "1"] then some { a with opened := true } else none)
      else if w.headD 0 = 46 then a.directive w r
      else a.instruction ws
  match ws with
  | l :: c :: r => if c = asc ":" then (a.define l).bind fun a => if a.sec = 0 then none else stmt a r else stmt a ws
  | _ => stmt a ws

/-- Does text keep R307, as far as this model reads it (log 10)? -/
def acierKept (bs : List Byte) : Bool :=
  let t := bs.map (·.toNat)
  utf8From 0 0 0 t && (match (cutAt 10 t).foldl (fun a l => a.bind fun a => a.line (lineWords (beforeComment l))) (some AcierAt.start) with
    | some a => a.opened && !a.inKernel
    | none => false)

end Sys2Proof.Machine
end

