-- ==== Sys2Proof/Machine/ResidentEv.lean ====
section
/-!
DEFINITION. Requests of the controller: numbering, duplicates and answers (R319 to R322), operating parameters (R323), cancel, drain
and resume (R331, R337, R338), and the completion of service nodes.
-/
namespace Sys2Proof.Machine

/-! ## Acceptance (R321) -/

/-- STATUS of a RESP (R320). -/
def stOK : Nat := 0
def stMALFORMED : Nat := 6
def stUNKNOWN : Nat := 7
def stLOST : Nat := 8
def stEPOCH : Nat := 9

/-- What an accepted request comes to (R321): a RESP now; one that follows when the request is done; or a wait for a line that it reads, and
then another attempt. -/
inductive Served where
  | now (s : State) (status : Nat) (body : List Nat)
  | later (s : State)
  | waits (s : State) (lack : Lack) (i : Instr)
  deriving DecidableEq, Repr

/-- Answer now. -/
def answerNow (s : State) (status : Nat) (body : List Nat) : Served := .now s status body
/-- The RESP follows when the request is done. -/
def answerLater (s : State) : Served := .later s

/-- What orders what waits: of calls the space, of remaps the core; a request waits by itself. -/
def callSpace : Instr → Nat
  | .map sp .. | .unmap sp .. | .protect sp .. | .setmode sp .. | .migrate sp .. | .regpager sp .. | .supply sp .. | .capset sp ..
  | .caprevoke sp .. | .capallow sp .. | .pin sp .. | .unpin sp .. | .qpalloc sp | .qpreset sp .. | .qpfree sp .. | .chunkset sp ..
  | .mapexec sp .. => sp
  | .spareLaneRemap c .. => 65536 + c
  | .load r .. | .post r .. => 131072 + r.seq
  | _ => 0

/-- Remove the first that waits of a space, a core or a request. -/
def dropCall (sp : Nat) : List Instr → List Instr
  | [] => []
  | i :: r => if callSpace i = sp then r else i :: dropCall sp r

/-- One attempt at an accepted request. -/
def State.serveOnce (s : State) (r : Req) (k : State → Served) : State :=
  match k s with
  | .now s status body => (s.unreserveAll (reqAgent r.seq)).tell opRESP r.seq status body
  | .later s => s.unreserveAll (reqAgent r.seq)
  | .waits s lack i => (s.readAsk (reqAgent r.seq) lack).updRes fun x => { x with
      calls := x.calls ++ [i], opens := x.opens ++ [{ seq := r.seq, kind := 2, arg := 0 }] }

/-- The controller's acknowledgement: stored messages up to it are discarded (R321). -/
def State.takeAckNo (s : State) (ack : Nat) : State :=
  s.updRes fun r =>
    let a := max r.acked (min ack (r.nextSeq - 1))
    { r with acked := a, store := r.store.filter fun m => a < m.seq }

/-- Does the Resident answer the controller: it runs, and the port that its configuration names is up (R319, R365)? -/
def State.answers (s : State) : Bool :=
  s.mod.power != .off && s.mod.bootFail.isNone && (match s.mod.ports[s.mod.port]? with
    | some p => p.up
    | none => false)

/-- A numbered request arrives, or one that waits for a line is tried again (R321): it is answered with EPOCH, performed once, or is a
duplicate; one that lies further ahead is discarded. Work is accepted in RUN (R368). A RESP with STATUS EPOCH is no RESP of the request that was later accepted with its SEQ. -/
def State.serve (s : State) (r : Req) (k : State → Served) : Host.Outcome State Fault Refusal :=
  .next (if s.res.again then
      (s.updRes fun x => { x with
        again := false, calls := dropCall (131072 + r.seq) x.calls
        opens := x.opens.filter fun o => !(o.seq == r.seq && o.kind == 2) }).serveOnce r k
    else if !s.answers then s
    else if r.epoch ≠ s.res.epoch then s.tell opRESP r.seq stEPOCH []
    else if s.mod.power != .run || s.res.lastSeq + 1 < r.seq then s
    else if r.seq ≤ s.res.lastSeq then
      let s := s.takeAckNo r.ack
      if s.res.opens.any fun o => o.seq == r.seq then s
      else match s.res.store.find? fun m => m.op == opRESP && m.ref == r.seq && m.status != stEPOCH with
        | some m => s.updRes fun x => { x with reply := [m] }
        | none => s.tell opRESP r.seq stLOST []
    else
      let s := (s.takeAckNo r.ack).updRes fun x => { x with lastSeq := r.seq }
      if r.bad then s.tell opRESP r.seq stMALFORMED []
      else s.serveOnce r k)

/-- SYNC (R322): SYNCACK with the epoch and the last request accepted, then every stored message above the ACK, oldest first; a SYNC of
another epoch has its ACK taken as 0. The first SYNC answered brings the module into RUN (R368). -/
def execSync (r : Req) (s : State) : Host.Outcome State Fault Refusal :=
  .next (if !s.answers then s
    else
      let s := s.updMod fun m => { m with power := .run, thermal := if m.power == .boot then 16 else m.thermal }
      let ack := if r.epoch = s.res.epoch then r.ack else 0
      let s := if r.epoch = s.res.epoch then s.takeAckNo r.ack else s
      let again := s.res.store.filter fun m => ack < m.seq
      let oldest := (again.map (·.seq)).headD s.res.nextSeq
      let lost := ack + 1 < oldest
      let m : DMsg := { seq := 0, ack := s.res.lastSeq, ref := if lost then oldest else 0, epoch := s.res.epoch, op := opSYNCACK,
                        status := if lost then stLOST else stOK, len := 0, body := [] }
      s.updRes fun x => { x with reply := m :: again })

/-! ## Operating parameters (R323) -/

/-- Apply a parameter whose index and value lie in the table, or answer MALFORMED. -/
def State.config (s : State) (r : Req) (ok : Bool) (f : State → State) : Host.Outcome State Fault Refusal :=
  s.serve r fun s => if ok then answerNow (f s) stOK [] else answerNow s stMALFORMED []
/-- Apply a parameter of a space: an index that names no space is UNKNOWN. -/
def State.configSpace (s : State) (r : Req) (space : Nat) (ok : State → Bool) (f : Space → Space) : Host.Outcome State Fault Refusal :=
  s.serve r fun s =>
    if space = 0 ∨ 65535 < space then answerNow s stUNKNOWN []
    else if ok s then answerNow (s.updSpace space f) stOK [] else answerNow s stMALFORMED []

/-- Route-table entry (R151, R155, R323). -/
def execRouteTableEntry (r : Req) (index : Nat) (value : DWord) (s : State) : Host.Outcome State Fault Refusal :=
  s.config r (index < 2048) fun s =>
    let key := 1024 * s.fab.eps.getD (index / 1024) 0 + index % 1024
    s.updFab fun b => { b with routes := SMap.set 0 b.routes key value, failed := b.failed.filter (· ≠ key) }
/-- Station arbitration register (R147, R323): a limit of 0 acts as 1, and bits [31:16] are not written. That a value with such bits set is
applied and not MALFORMED is the model's choice (log 99). -/
def execStationArbitrationRegister (r : Req) (index value : Nat) (s : State) : Host.Outcome State Fault Refusal :=
  s.config r (index < 18 && decide (value < 2 ^ 32)) fun s =>
    s.updStation index fun t => { t with arb := some (max 1 (value % 256), max 1 (value / 256 % 256)) }
/-- Station re-enable (R323, R370): the station retrains. -/
def execStationReEnable (r : Req) (index value : Nat) (s : State) : Host.Outcome State Fault Refusal :=
  s.config r (index < 18 && value == 0) fun s =>
    s.updStation index fun t =>
      { t with heldDown := false, downs := [], up := true, retrain := if t.up then t.retrain else sat32 (t.retrain + 1) }
/-- Acknowledgement timeout (R154, R323). -/
def execAcknowledgementTimeout (r : Req) (index value : Nat) (s : State) : Host.Outcome State Fault Refusal :=
  s.config r (index == 0 && 1 ≤ value && value ≤ 10000) fun s => s.updFab fun b => { b with timeoutUs := value }
/-- Rollback retries (R361, R323). -/
def execRollbackRetries (r : Req) (index value : Nat) (s : State) : Host.Outcome State Fault Refusal :=
  s.configSpace r index (fun _ => decide (value ≤ 15)) fun x => { x with retry := value }
/-- Undo log size per die (R360, R323). -/
def execUndoLogSize (r : Req) (index value : Nat) (s : State) : Host.Outcome State Fault Refusal :=
  s.configSpace r index (fun _ => value % 65536 == 0 && decide (value ≤ 2 ^ 36)) fun x => { x with undoLog := value }
/-- Scrub interval (R358, R323). -/
def execScrubInterval (r : Req) (index value : Nat) (s : State) : Host.Outcome State Fault Refusal :=
  s.config r (index == 0 && 1 ≤ value && value ≤ 168) fun s => s.updRes fun x => { x with scrubHours := value }
/-- Pager timeout (R345, R323). -/
def execPagerTimeout (r : Req) (index value : Nat) (s : State) : Host.Outcome State Fault Refusal :=
  s.configSpace r index (fun _ => 1 ≤ value && value ≤ 60000) fun x => { x with pagerMs := value }
/-- Default drain interval (R337, R323). -/
def execDefaultDrainInterval (r : Req) (index value : Nat) (s : State) : Host.Outcome State Fault Refusal :=
  s.configSpace r index (fun _ => 1 ≤ value && value ≤ 1000000) fun x => { x with drainUs := value }
/-- Capability table size (R157, R323): a filled slot beyond it makes the request malformed. -/
def execCapabilityTableSize (r : Req) (index value : Nat) (s : State) : Host.Outcome State Fault Refusal :=
  s.configSpace r index
    (fun s => 1 ≤ value && value ≤ 65536 && !((s.space index).caps.any fun c => decide (value ≤ c.1) && c.2.body.isSome))
    fun x => { x with capSlots := value }
/-- Anti-rollback floor raise (R323, R365). -/
def execAntiRollbackFloorRaise (r : Req) (index value : Nat) (s : State) : Host.Outcome State Fault Refusal :=
  s.config r (index == 0 && value == 1) fun s => s.updMod fun m => { m with floor := max m.floor m.version }

/-! ## Cancel (R331) -/

/-- Cancel a node whose STATE is not final: it is dropped where it is not ready, else its work ends. A collective's unfired entries
go, and those that have fired complete. -/
def State.cancelNode (s : State) (j n : Nat) : State :=
  match s.job? j, s.node? j n with
  | some jb, some x =>
    if jb.nodeDone n then s
    else if !x.ready then
      (match x.kind with
       | .launch _ => s
       | _ => s.setUnit j (jb.nodeUnit n) fun u => { u with done := 1 }).finishUnit j (jb.nodeUnit n) (jb.graphUnit x.graph) .cancelled 0
    else
      let s := match x.kind with
        | .coll .. => { s with fab := { s.fab with qps := s.fab.qps.map fun (q : Nat × QPair) =>
            (q.1, { q.2 with queue := q.2.queue.filter fun e => e.fired || e.node != nodeKey j n }) } }
        | _ => s
      s.endNode j n false (some .cancelled) 0
  | _, _ => s

/-- Cancel a graph: one that has not started takes its STATE at once, and a running one when its nodes have ended. Its nodes not yet
ready are dropped, and counted, before any other ends (R329). -/
def State.cancelGraph (s : State) (j g : Nat) : State :=
  match s.job? j with
  | none => s
  | some jb =>
    if (jb.unit (jb.graphUnit g)).state.final then s
    else
      let waits := (jb.unit (jb.graphUnit g)).state == .waiting
      let waiting (n : Nat) : Bool := match jb.nodes[n]? with
        | some x => !x.ready
        | none => false
      let s := ((jb.nodesOf g).filter waiting ++ (jb.nodesOf g).filter fun n => !waiting n).foldl (fun s n => s.cancelNode j n) s
      if waits then s.finishUnit j (jb.graphUnit g) (jb.phaseUnit (phaseOf jb.phases g)) .cancelled 0 else s

/-- Cancel a phase: its later graphs first, so that none of them starts. -/
def State.cancelPhase (s : State) (j p : Nat) : State :=
  match s.job? j with
  | none => s
  | some jb =>
    if (jb.unit (jb.phaseUnit p)).state.final then s
    else
      let waits := (jb.unit (jb.phaseUnit p)).state == .waiting
      let gs := ((List.range (jb.phases.getD p 0)).map (· + firstGraph jb.phases p)).reverse
      let s := gs.foldl (fun s g => s.cancelGraph j g) s
      if waits then s.finishUnit j (jb.phaseUnit p) 0 .cancelled 0 else s

/-- Cancel a job: its later phases first. -/
def State.cancelJob (s : State) (j : Nat) : State :=
  match s.job? j with
  | none => s
  | some jb =>
    if (jb.unit 0).state.final then s
    else (List.range jb.phases.length).reverse.foldl (fun s p => s.cancelPhase j p) s

/-- What a CANCEL names, or none (R331). -/
def State.cancelUnit (s : State) (kind id unit : Nat) : Option (State × Nat) :=
  match kind with
  | 0 => if unit = 0 then (s.launch? id).map fun l => (s.cancelNode l.job l.node, l.job) else none
  | 1 => (s.job? id).bind fun jb =>
      let g := unit - jb.graphUnit 0
      if jb.graphUnit 0 ≤ unit ∧ g < jb.graphs.length then some (s.cancelGraph id g, id) else none
  | 2 => (s.job? id).bind fun jb => if 1 ≤ unit ∧ unit - 1 < jb.phases.length then some (s.cancelPhase id (unit - 1), id) else none
  | _ => if unit = 0 then (s.job? id).map fun _ => (s.cancelJob id, id) else none

/-- CANCEL (R331): a kind outside its values is malformed, a name that matches nothing unknown. -/
def execCancel (r : Req) (kind id unit : Nat) (s : State) : Host.Outcome State Fault Refusal :=
  s.serve r fun s =>
    if 3 < kind then answerNow s stMALFORMED []
    else match s.cancelUnit kind id unit with
      | some (s, j) => answerNow ((s.jobRun j).unloadSettle) stOK []
      | none => answerNow s stUNKNOWN []

/-! ## Drain and resume (R337, R338) -/

/-- A drain of a launch begins: its escalation interval starts (R337). -/
def State.startDrain (s : State) (launch : Nat) (by' : Option Nat) : State :=
  match s.launch? launch with
  | none => s
  | some l =>
    let us := if l.drain = 0 then (s.space l.space).drainUs else l.drain
    if l.drainAt.isSome then s
    else s.updLaunch launch fun l => { l with drainAt := some (s.cycle + us * usCycles), drainBy := by' }
/-- A drain is lifted: the launch's level starts again (R337). -/
def State.liftDrain (s : State) (launch : Nat) : State :=
  s.updLaunch launch fun l =>
    if l.drainAt.isSome then { l with drainAt := none, drainBy := none, e := l.prio, ageFrom := s.cycle } else l

/-- DRAIN (R337). -/
def execDrain (r : Req) (launch : Nat) (s : State) : Host.Outcome State Fault Refusal :=
  s.serve r fun s => if (s.launch? launch).isSome then answerNow (s.startDrain launch none) stOK [] else answerNow s stUNKNOWN []
/-- UNDRAIN (R337). -/
def execUndrain (r : Req) (launch : Nat) (s : State) : Host.Outcome State Fault Refusal :=
  s.serve r fun s => if (s.launch? launch).isSome then answerNow (s.liftDrain launch) stOK [] else answerNow s stUNKNOWN []

/-- Does a launch have a group that runs? -/
def State.groupsRun (s : State) (launch : Nat) : Bool :=
  s.gangs.any fun g => g.2.launch == launch && g.2.groups.any fun x => decide (0 < x.live)
/-- DRAIN_ESCALATION (R337): groups still run when the interval has passed, and the launch is cancelled. -/
def State.escalates (s : State) (launch : Nat) (l : Launch) : Bool :=
  match l.drainAt with
  | some t => t ≤ s.cycle && s.groupsRun launch
  | none => false
/-- DRAIN_ESCALATION (R337). -/
def execDrainEscalation (launch : Nat) (s : State) : Host.Outcome State Fault Refusal :=
  .next (match s.launch? launch with
    | some l => if s.escalates launch l then (s.cancelNode l.job l.node).jobRun l.job else s
    | none => s)

/-- The thread and the entry that a stop identity names. -/
def State.stoppedAt (s : State) (i : StopId) : Option (Nat × Nat) :=
  let e := if i.entry = 0xFF then 0 else i.entry
  ((List.find? (fun (t : Nat × Thread) => t.2.stopped i && (t.2.split e).stopped && ((i.entry == 0xFF) == t.2.seq)) s.threads)).map fun t => (t.1, e)

/-- Do the fields of a stop identity hold values of R338? -/
def StopId.valid (i : StopId) : Bool :=
  decide (i.launch < 2 ^ 32) && decide (i.die < 2) && decide (i.cluster < 8) && (decide (i.core < 8) || i.core == 0xFF)
    && (decide (i.slot < 64) || (decide (0x80 ≤ i.slot) && decide (i.slot < 0x90))) && decide (i.pc < 2 ^ 48)
    && (decide (i.entry < 4) || i.entry == 0xFF)
/-- RESUME (R338): the split or context goes on at its next instruction. An identity with a field outside its values is malformed (R320). -/
def execResume (r : Req) (stop : StopId) (s : State) : Host.Outcome State Fault Refusal :=
  s.serve r fun s =>
    if !StopId.valid stop then answerNow s stMALFORMED []
    else if !s.res.stops.contains stop then answerNow s stUNKNOWN []
    else match s.stoppedAt stop with
      | none => answerNow s stUNKNOWN []
      | some (t, e) =>
        let s := s.updSplit t e fun p => { p with stopped := false }
        answerNow (s.updRes fun x => { x with stops := x.stops.filter (· ≠ stop) }) stOK []

/-! ## Service nodes and unloads -/

/-- DONE (R320): a service node that is ready and not complete is complete. -/
def execDone (r : Req) (job unit : Nat) (s : State) : Host.Outcome State Fault Refusal :=
  s.serve r fun s =>
    match s.job? job with
    | none => answerNow s stUNKNOWN []
    | some jb =>
      let n := unit - jb.nodeUnit 0
      match jb.nodes[n]? with
      | some x =>
        let service := match x.kind with
          | .service _ => true
          | _ => false
        if jb.nodeUnit 0 ≤ unit && service && x.ready && !jb.nodeDone n then answerNow (s.nodeFinal job n .complete 0) stOK []
        else answerNow s stUNKNOWN []
      | none => answerNow s stUNKNOWN []

/-- UNLOAD (R305, R320): the kernel no longer counts as loaded; the RESP follows when the launches of its object's kernels have
ended. -/
def execUnload (r : Req) (kernel : Nat) (s : State) : Host.Outcome State Fault Refusal :=
  s.serve r fun s =>
    match s.kernel? kernel with
    | some k =>
      if k.unloading then answerNow s stUNKNOWN []
      else answerLater ((s.updRes fun x => { x with
        kernels := SMap.put x.kernels kernel { k with unloading := true }
        opens := x.opens ++ [{ seq := r.seq, kind := 0, arg := kernel }] }).unloadSettle)
    | none => answerNow s stUNKNOWN []

end Sys2Proof.Machine
end

