-- ==== Sys2Proof/Machine/Loader.lean ====
section
/-!
DEFINITION. The loader of code objects: the container (R298 to R302), the census (R303), fit, placement and relocation (R304, R305),
and the Acier translator's part in a load (R306).
-/
namespace Sys2Proof.Machine

/-! ## The container -/

/-- A field of n bytes of an object (R7). -/
def objNum (b : List Byte) (off n : Nat) : Nat := leNat ((b.drop off).take n)
/-- Are n bytes zero? -/
def objZero (b : List Byte) (off n : Nat) : Bool := ((b.drop off).take n).all fun x => x == 0

/-- A section table entry (R298). -/
structure Sec where
  kind : Nat
  off : Nat
  size : Nat
  deriving DecidableEq, Repr

/-- A kernel descriptor (R300). -/
structure KDesc where
  stext : Nat
  qtext : Nat
  data : Nat
  strands : Nat
  gang : Nat
  regs : Nat
  scratch : Nat
  barriers : Nat
  flags : Nat
  args : Nat
  trap : Nat
  deriving DecidableEq, Repr

/-- A relocation (R301). -/
structure Reloc where
  sect : Nat
  type : Nat
  off : Nat
  tsect : Nat
  addend : Int
  deriving DecidableEq, Repr

/-- An object that has passed step 1 of R305. -/
structure Obj where
  bytes : List Byte
  secs : List Sec
  kernels : List KDesc
  relocs : List Reloc
  census : List Nat
  acier : Option (List Byte)
  deriving DecidableEq, Repr

/-- No section. -/
def Sec.none : Sec := { kind := 0, off := 0, size := 0 }
/-- A section of a list by index. -/
def secAt (l : List Sec) (i : Nat) : Sec := l.getD i Sec.none
/-- The bytes of a section. -/
def Sec.bytes (b : List Byte) (x : Sec) : List Byte := (b.drop x.off).take x.size
/-- Is the section text? -/
def Sec.isText (x : Sec) : Bool := x.kind == 1 || x.kind == 2
/-- Is the section one that the loader places? -/
def Sec.placed (x : Sec) : Bool := x.isText || x.kind == 3

/-- The rules of a section's kind, alignment and size (R298, R299). -/
def Sec.ok (total nkern : Nat) (x : Sec) : Bool :=
  decide (x.off + x.size ≤ total)
  && x.off % (if x.isText then 32 else 8) == 0
  && (match x.kind with
      | 1 | 2 => x.size != 0 && x.size % 32 == 0
      | 3 | 7 | 8 => true
      | 4 => x.size == 64 * nkern
      | 5 => x.size % 16 == 0
      | 6 => x.size % 4 == 0
      | k => decide (0x80 ≤ k ∧ k ≤ 0xFF))
/-- Sections do not overlap (R299). -/
def secsApart : List Sec → Bool
  | [] => true
  | x :: r => (r.all fun y => x.size == 0 || y.size == 0 || decide (x.off + x.size ≤ y.off) || decide (y.off + y.size ≤ x.off))
      && secsApart r
/-- The sections of a kind. -/
def ofKind (k : Nat) (l : List Sec) : List Sec := l.filter fun x => x.kind == k

/-- The section table, or none where an entry is malformed (R298, R299). -/
def readSecs (b : List Byte) : Option (List Sec) :=
  let n := objNum b 8 2
  let at' := objNum b 12 4
  let total := objNum b 16 8
  if b.length < 64 ∨ objNum b 0 4 ≠ 0x4B4E5246 ∨ objNum b 4 2 ≠ 1 ∨ objNum b 6 1 = 0 ∨ objNum b 7 1 ≠ 0 ∨ n = 0 ∨ 4096 < n
      ∨ objNum b 10 2 = 0 ∨ 1024 < objNum b 10 2 ∨ at' % 8 ≠ 0 ∨ total ≠ b.length ∨ !objZero b 24 40 ∨ total < at' + 32 * n then none
  else
    let secs := (List.range n).map fun i =>
      { kind := objNum b (at' + 32 * i) 2, off := objNum b (at' + 32 * i + 8) 8, size := objNum b (at' + 32 * i + 16) 8 : Sec }
    if (List.range n).all (fun i => objZero b (at' + 32 * i + 2) 6 && objZero b (at' + 32 * i + 24) 8)
        && secs.all (fun x => x.ok total (objNum b 10 2)) && secsApart secs
        && (ofKind 4 secs).length == 1 && (ofKind 6 secs).length == 1 && (ofKind 8 secs).length == 1
        && (ofKind 5 secs).length ≤ 1 && (ofKind 7 secs).length ≤ 1
    then some secs else none

/-! ## Text -/

/-- The control word of the bundle that holds an offset of a text section (R193). -/
def ctlWord (text : List Byte) (off : Nat) : Word := BitVec.ofNat 32 (objNum text (off / 32 * 32) 4)
/-- A word of a text section. -/
def textWord (text : List Byte) (off : Nat) : Word := BitVec.ofNat 32 (objNum text off 4)
/-- Is an offset that of an instruction word: in the section, no control word, not marked as an extension (R193, R194)? -/
def isInstrAt (text : List Byte) (off : Nat) : Bool :=
  off % 4 == 0 && decide (off + 4 ≤ text.length) && off % 32 != 0 && !xfMarks (ctlWord text off) (off % 32 / 4)
/-- Is an offset that of an extension slot which XF marks after a `brx` (R301)? -/
def isBrxExt (text : List Byte) (off : Nat) : Bool :=
  off % 4 == 0 && decide (off + 4 ≤ text.length) && decide (8 ≤ off % 32) && xfMarks (ctlWord text off) (off % 32 / 4)
    && isInstrAt text (off - 4) && (Raw.ofWord (textWord text (off - 4))).op == 0x6D

/-! ## Descriptors and relocations -/

/-- The descriptor at an offset of KDESC. -/
def readKDesc (d : List Byte) (o : Nat) : KDesc :=
  { stext := objNum d (o + 4) 2, qtext := objNum d (o + 6) 2, data := objNum d (o + 8) 2, strands := objNum d (o + 12) 1,
    gang := objNum d (o + 13) 1, regs := objNum d (o + 14) 2, scratch := objNum d (o + 16) 4, barriers := objNum d (o + 20) 1,
    flags := objNum d (o + 21) 1, args := objNum d (o + 22) 2, trap := objNum d (o + 24) 4 }
/-- The rules of R300 for a descriptor. -/
def KDesc.ok (b : List Byte) (secs : List Sec) (k : KDesc) : Bool :=
  (secAt secs k.stext).kind == 1 && (secAt secs k.qtext).kind == 2
  && (k.data == 0xFFFF || (secAt secs k.data).kind == 3)
  && decide (1 ≤ k.strands ∧ k.strands ≤ 32) && (k.gang == 1 || k.gang == 2 || k.gang == 4 || k.gang == 8)
  && k.regs != 0 && k.regs % 32 == 0 && k.scratch % 4096 == 0 && decide (k.flags < 8) && decide (k.args ≤ 4096)
  && (if k.flags / 4 % 2 = 1 then isInstrAt ((secAt secs k.stext).bytes b) k.trap else k.trap == 0)

/-- The relocation at an offset of RELOC. -/
def readReloc (d : List Byte) (o : Nat) : Reloc :=
  { sect := objNum d o 2, type := objNum d (o + 2) 1, off := objNum d (o + 4) 4, tsect := objNum d (o + 8) 2,
    addend := signExt 32 (objNum d (o + 12) 4) }
/-- The rules of R301 for a relocation. -/
def Reloc.ok (b : List Byte) (secs : List Sec) (r : Reloc) : Bool :=
  (secAt secs r.tsect).placed
  && (match r.type with
      | 1 => (secAt secs r.sect).isText && isBrxExt ((secAt secs r.sect).bytes b) r.off
      | 2 => (secAt secs r.sect).kind == 3 && r.off % 8 == 0 && decide (r.off + 8 ≤ (secAt secs r.sect).size)
      | _ => false)

/-- Entries of `n` bytes of a section, by offset. -/
def entriesOf (size n : Nat) : List Nat := (List.range (size / n)).map (· * n)

/-- STEP 1 of R305: header, section table, descriptors and relocation fields. -/
def readObj (b : List Byte) : Option Obj :=
  (readSecs b).bind fun secs =>
    let one (k : Nat) : List Byte := ((ofKind k secs).headD Sec.none).bytes b
    let kd := one 4
    let rl := one 5
    let ks := (entriesOf kd.length 64).map (readKDesc kd)
    let rs := (entriesOf rl.length 16).map (readReloc rl)
    if (entriesOf kd.length 64).all (fun o => objZero kd (o + 10) 2 && objZero kd (o + 28) 36)
        && (entriesOf rl.length 16).all (fun o => objZero rl (o + 3) 1 && objZero rl (o + 10) 2)
        && ks.all (fun k => k.ok b secs) && rs.all (fun r => r.ok b secs)
    then some { bytes := b, secs := secs, kernels := ks, relocs := rs,
                census := (entriesOf (one 6).length 4).map fun o => objNum (one 6) o 4,
                acier := (ofKind 7 secs).head?.map fun x => x.bytes b }
    else none

/-! ## The census (R302, R303) -/

/-- Does this device assign a major, with an xop where it has one (R203, R208 to R212)? -/
def opAssigned (major xop : Nat) : Bool :=
  match major with
  | 0x7C => xop ≤ 0x16
  | 0x7D => xop ≤ 0x09 || (0x10 ≤ xop && xop ≤ 0x17)
  | 0x7E => xop ≤ 0x0A || 0x10 ≤ xop
  | 0x7F => xop ≤ 0x02
  | m => m ≤ 0x7B && !(m == 0 || m == 0x1F || (0x35 ≤ m && m ≤ 0x37) || m == 0x3F || m == 0x43 || m == 0x46
      || (0x49 ≤ m && m ≤ 0x4F))
/-- Is an opcode experimental (R214)? -/
def opExperimental (major xop : Nat) : Bool :=
  (major == 0x7D && xop == 0x07) || (major == 0x7E && ((0x5C ≤ xop && xop ≤ 0x67) || 0x74 ≤ xop))
/-- The bits [15:0] of a census entry for an opcode (R302). -/
def censusKey (major xop : Nat) : Nat := if 0x7C ≤ major then 0x8000 + xop * 256 + major else major
/-- The opcode of an instruction word, as its census key, where the device assigns it (R303). -/
def wordKey (w : Word) : Option Nat :=
  let r := Raw.ofWord w
  if opAssigned r.op.toNat r.b.toNat then some (censusKey r.op.toNat r.b.toNat) else none
/-- Entries rise, with no duplicate (R302). -/
def censusRises : List Nat → Bool
  | a :: b :: r => a % 65536 < b % 65536 && censusRises (b :: r)
  | _ => true
/-- Is a census entry well formed (R302)? -/
def censusField (x : Nat) : Bool := x / 2 ^ 18 % 64 == 0 && x / 65536 % 4 != 3 && x % 256 < 128
/-- Does this device run the opcode of a census entry (R303)? -/
def censusRuns (stepping : Byte) (x : Nat) : Bool :=
  let major := x % 256
  let xop := x / 256 % 128
  let xv := x / 32768 % 2 == 1
  opAssigned major xop && xv == (0x7C ≤ major : Bool) && (xv || xop == 0)
    && (!opExperimental major xop || stepping == 0xB0)
/-- The opcodes of a text section that the device assigns. -/
def textKeys (text : List Byte) : List Nat :=
  ((List.range (text.length / 4)).filter fun i => isInstrAt text (4 * i)).filterMap fun i => wordKey (textWord text (4 * i))
/-- Does the census name every assigned opcode of the text (R303)? -/
def Obj.covered (o : Obj) : Bool :=
  o.census.all censusField && censusRises o.census
  && (o.secs.filter Sec.isText).all fun x => (textKeys (x.bytes o.bytes)).all fun k => o.census.any fun c => c % 65536 == k

/-! ## Fit (R304) -/

/-- Does a kernel fit this device (R304)? -/
def KDesc.fits (k : KDesc) : Bool :=
  k.regs ≤ 512 && (k.strands + 3) / 4 * k.regs ≤ 1024 && k.scratch ≤ 786432 && k.barriers ≤ 32

/-! ## Placement and relocation (R305) -/

/-- Statuses of a load (R305). -/
def ldOK : Nat := 0
def ldMALFORMED : Nat := 1
def ldCENSUS : Nat := 2
def ldOVERSIZE : Nat := 3
def ldQUOTA : Nat := 4
def ldNOSPACE : Nat := 5

/-- Are two sections the strand text and the read-only data of one kernel, which lie within 2^31 bytes of each other (R301)? -/
def Obj.tied (o : Obj) (i j : Nat) : Bool := o.kernels.any fun k => (k.stext == i && k.data == j) || (k.stext == j && k.data == i)
/-- Bytes of the pages of a section. -/
def Sec.room (x : Sec) : Nat := (x.size + 65535) / 65536 * 65536
/-- An order of the `rest`, sections laid one after another from `off`, in which those tied lie near each other: the first such, counted
from the table's own order. `laid` are the sections before, each with its start. -/
def Obj.orderFrom (o : Obj) : Nat → List (Nat × Nat) → List Nat → Nat → Option (List Nat)
  | 0, _, _, _ => some []
  | n + 1, laid, rest, off =>
    if laid.any fun p => p.2 + 2 ^ 31 ≤ off && rest.any (o.tied p.1) then none
    else rest.findSome? fun i =>
      (Obj.orderFrom o n ((i, off) :: laid) (rest.filter (· ≠ i)) (off + (secAt o.secs i).room)).map fun l => i :: l
/-- The sections that the loader places, in the order in which it does (R301, R305). -/
def Obj.order (o : Obj) : Option (List Nat) :=
  let all := (List.range o.secs.length).filter fun i => (secAt o.secs i).placed
  o.orderFrom all.length [] all 0
/-- Fresh pages for sections, one after another: the address of each by its index. -/
def State.placeSecs (s : State) (space : Nat) (o : Obj) : List Nat → Option (SMap Nat × State)
  | [] => some ([], s)
  | i :: r =>
    (s.residentPages space (secAt o.secs i).size (secAt o.secs i).isText).bind fun (va, s) =>
      (State.placeSecs s space o r).map fun (m, s) => (SMap.put m i va, s)

/-- The bytes of a section with its relocations applied (R301). -/
def Obj.patched (o : Obj) (vas : List Nat) (i : Nat) : List Byte :=
  let put (d : List Byte) (off : Nat) (bs : List Byte) : List Byte := d.take off ++ bs ++ d.drop (off + bs.length)
  (o.relocs.filter fun r => r.sect == i).foldl (fun d r =>
    let t : Int := (vas.getD r.tsect 0 : Nat) + r.addend
    if r.type = 1 then put d r.off (leBytes 4 (wrap 32 (t - ((vas.getD i 0 + r.off : Nat) : Int) + 4)))
    else put d r.off (leBytes 8 (wrap 64 t))) ((secAt o.secs i).bytes o.bytes)

/-- A kernel of the object at the addresses of its sections. -/
def Obj.kernel (o : Obj) (space object : Nat) (vas : List Nat) (k : KDesc) : Kernel :=
  { space := space, object := object, stext := vas.getD k.stext 0, ssize := (secAt o.secs k.stext).size,
    qtext := vas.getD k.qtext 0, qsize := (secAt o.secs k.qtext).size,
    rodata := if k.data = 0xFFFF then 0 else vas.getD k.data 0, rosize := if k.data = 0xFFFF then 0 else (secAt o.secs k.data).size,
    strands := k.strands, gang := k.gang, regs := k.regs, scratch := k.scratch, barriers := k.barriers,
    signet := k.flags % 2 == 1, stallchk := k.flags / 2 % 2 == 1,
    trap := if k.flags / 4 % 2 = 1 then some (vas.getD k.stext 0 + k.trap) else none, args := k.args, unloading := false }

/-- STEPS 4 and 5 of R305: every section is placed and patched, and every kernel has a handle; or nothing is placed. -/
def State.placeObj (s : State) (space : Nat) (o : Obj) : Option (State × List Nat) :=
  o.order.bind fun order =>
  (s.placeSecs space o order).map fun (m, s) =>
    let vas := (List.range o.secs.length).map fun i => SMap.getD m i 0
    let s := order.foldl (fun (s : State) i => s.writeSpace space (vas.getD i 0) (o.patched vas i)) s
    let first := s.res.nextKernel
    let obj := s.res.nextObject
    let ks := o.kernels.map (o.kernel space obj vas)
    (s.updRes fun r => { r with
      kernels := (ks.zip (List.range ks.length)).foldl (fun m k => SMap.put m (first + k.2) k.1) r.kernels
      nextKernel := first + ks.length, nextObject := obj + 1 }, (List.range ks.length).map (· + first))

/-- What a load comes to: it ends with a status, is to be lowered again from the portable form (and ends with
the status where that may not be), or has placed its kernels. -/
inductive Loaded where
  | ends (status : Nat)
  | relower (status : Nat) (acier : List Byte)
  | done (s : State) (handles : List Nat)
  deriving DecidableEq, Repr

/-- THE LOADER (R305). -/
def State.loadObj (s : State) (space : Nat) (b : List Byte) : Loaded :=
  match readObj b with
  | none => .ends ldMALFORMED
  | some o =>
    let again (status : Nat) : Loaded := match o.acier with
      | some t => .relower status t
      | none => .ends status
    if !o.covered then .ends ldMALFORMED
    else if !o.census.all (censusRuns s.mod.stepping) then again ldCENSUS
    else if !o.kernels.all KDesc.fits then again ldOVERSIZE
    else match s.placeObj space o with
      | some (s, hs) => .done s hs
      | none => .ends ldNOSPACE

/-! ## LOAD and the translator -/

/-- LOAD (R305, R306, R320): a space of 0 is malformed; an object that cannot be read is MALFORMED. Where a step asks for it, the
translator starts, and the load ends when it does; text that breaks R307 ends it. -/
def execLoad (r : Req) (space va size : Nat) (s : State) : Host.Outcome State Fault Refusal :=
  s.serve r fun s =>
    if space = 0 ∨ 65535 < space then answerNow s stMALFORMED []
    else match s.readSpace (reqAgent r.seq) space va size with
      | .error .denied => answerNow s ldMALFORMED []
      | .error l => .waits s l (.load r space va size)
      | .ok b =>
        match s.loadObj space b with
        | .ends st => answerNow s st []
        | .done s hs => answerNow s ldOK hs
        | .relower _ t =>
          if !acierKept t || !Config.acierAccepted t then answerNow s ldMALFORMED []
          else
            let tok := s.res.nextToken
            answerLater (s.updRes fun x => { x with
              nextToken := tok + 1, translators := x.translators ++ [{ token := tok, space := space }]
              opens := x.opens ++ [{ seq := r.seq, kind := 1, arg := tok }] })

/-- The load that started a translator ends with a status (R306). -/
def State.endTranslator (s : State) (token status : Nat) (handles : List Nat) : State :=
  let mine := s.res.opens.filter fun o => o.kind == 1 && o.arg == token
  let s := s.updRes fun x => { x with
    translators := x.translators.filter fun t => t.token != token
    opens := x.opens.filter fun o => !(o.kind == 1 && o.arg == token) }
  mine.foldl (fun (s : State) o => s.tell opRESP o.seq status handles) s

/-- PROCESSOR_TIME_QUOTA (R306): a translator that exceeds its quota ends the load with QUOTA. -/
def execProcessorTimeQuota (token : Nat) (s : State) : Host.Outcome State Fault Refusal :=
  .next (s.endTranslator token ldQUOTA [])

end Sys2Proof.Machine
end

