-- ==== Sys2Proof/Machine/Upset.lean ====
section
/-!
DEFINITION. Errors in the storages: what each corrects, poisons or reads again, the error counters, and the detection of a defective lane
(R352, R353, R362, R364). Which errors there are is Config's (log 98).
-/
namespace Sys2Proof.Machine

/-- Cycles of one hour. -/
def hourCycles : Nat := 3600 * 10 ^ 6 * usCycles
/-- An error that is corrected, or counts as one: a counter of a die or the hub (R364). -/
def State.corrected (s : State) (unit ix : Nat) : State := s.count unit ix 1

/-- A lane is marked defective: its core leaves placement, and the remap waits until no group is resident on it (R362). -/
def State.laneDefect (s : State) (core quad lane : Nat) : State :=
  let i : Instr := .spareLaneRemap core quad lane
  if (s.core core).retired || (s.core core).spare.getD quad none == some lane || s.res.calls.contains i then s
  else (s.updCore core fun c => { c with excluded := true }).updRes fun r => { r with calls := r.calls ++ [i] }
/-- A corrected error of a lane's register slice: more than 16 within one hour mark the lane defective (R362). -/
def State.laneError (s : State) (core quad lane : Nat) : State :=
  let es := (quad, lane, s.cycle) :: (s.core core).laneErrs.filter fun e => s.cycle < e.2.2 + hourCycles
  let s := s.updCore core fun c => { c with laneErrs := es }
  if 16 < (es.filter fun e => e.1 == quad && e.2.1 == lane).length then s.laneDefect core quad lane else s

/-- An error in a strand's or context's registers (R352): corrected, or its word is poisoned. Words of v registers lie in a lane's slice. -/
def State.upsetRegs (s : State) (t word lane : Nat) (hard : Bool) : State :=
  match s.thread? t with
  | none => s
  | some x =>
    let slice := !x.seq && decide (word < 2 ^ 20)
    if !hard then
      let s := s.corrected x.die ceSram
      if slice then s.laneError x.cid x.quad (lane % 32) else s
    else
      let s := (s.count x.die ueIx 1).updThread t fun x => { x with poison := insertAsc word x.poison }
      if slice then s.laneDefect x.cid x.quad (lane % 32) else s
/-- An error in an L1 line (R352): a clean line takes the sector anew from L2, as a new fill; a dirty one corrects it, or is poisoned. A
copy that L2 cannot give at once is dropped. -/
def State.upsetL1 (s : State) (core line word : Nat) (hard : Bool) : State :=
  let l := s.l1 core line
  let q := word % 16 / 4
  if l.st == .I then s
  else if l.dirty != 0 then
    if hard then (s.count (coreDie core) ueIx 1).setL1 core line { l with pois := l.pois ||| (1 <<< q) } else s.corrected (coreDie core) ceCache
  else
    let s := s.corrected (coreDie core) ceCache
    if !l.readable then s
    else if !l.untracked then s.setL1 core line { l with stamp := s.cycle }
    else match s.l2Copy core line with
      | some (d, v, p) =>
        s.setL1 core line { l with data := mergeData l.data d (maskFrom (32 * q) 32), ver := v, stamp := s.cycle,
                                   pois := (l.pois &&& ~~~((1 : BitVec 4) <<< q)) ||| (p &&& ((1 : BitVec 4) <<< q)) }
      | none => s.setL1 core line Line.reset
/-- An error in an L2 line (R352): corrected; else a clean line is read again, and a dirty one is poisoned. -/
def State.upsetL2 (s : State) (die line word : Nat) (hard : Bool) : State :=
  let q := word % 16 / 4
  if lineDie line = die then
    let h := s.home line
    if !h.present then s
    else if hard && h.dirty then s.poisonSector (line * 4 + q)
    else
      let s := s.corrected die ceCache
      if hard then s.readHbmLine line else s
  else
    let p := s.peer line
    if p.st == .I then s
    else if hard && p.dirty != 0 then (s.count die ueIx 1).setPeer line { p with pois := p.pois ||| (1 <<< q) }
    else s.corrected die ceCache

/-- AN ERROR in a storage (R352). -/
def State.upset (s : State) : Upset → State
  | .regs t w lane hard => s.upsetRegs t w lane hard
  | .table t w hard =>
    match s.thread? t with
    | none => s
    | some x =>
      if hard then (s.count x.die ueIx 1).updThread t fun x => { x with poison := insertAsc (2 ^ 22 + w) x.poison }
      else s.corrected x.die ceSram
  | .scratch c w hard =>
    if 128 ≤ c ∨ 98304 ≤ w then s
    else if hard then (s.count (coreDie c) ueIx 1).updCore c fun k => { k with scratchPois := insertAsc w k.scratchPois }
    else s.corrected (coreDie c) ceSram
  | .acc c w hard =>
    if 128 ≤ c ∨ 16384 ≤ w then s
    else if hard then (s.count (coreDie c) ueIx 1).updCore c fun k => { k with accPois := insertAsc w k.accPois }
    else s.corrected (coreDie c) ceSram
  | .l1 c l w hard => if 128 ≤ c then s else s.upsetL1 c l w hard
  | .l2 d l w hard => if 2 ≤ d then s else s.upsetL2 d l w hard
  | .chunk w hard =>
    if 2 ^ 23 ≤ w then s
    else if hard then (s.count 2 ueIx 1).updFab fun b => { b with chunkPois := insertAsc w b.chunkPois }
    else s.corrected 2 ceSram
  | .retry src dst seq w hard =>
    let mine (e : SrcEnd) : Bool := e.src == src && e.dst == dst && e.retry.any fun r => r.seq == seq
    if !s.fab.src.any mine then s
    else if hard then
      (s.count 2 ueIx 1).updFab fun b => { b with src := b.src.map fun e => if mine e then
        { e with retry := e.retry.map fun r => if r.seq = seq then { r with pois := insertAsc w r.pois } else r } else e }
    else s.corrected 2 ceSram
  | .hbm sec pos by' =>
    if 2 ^ 35 ≤ sec then s
    else
      let n := if sectorFits (Memory.bytes s.mem (sec * 32) 32) then 32 else 36
      { s with hbmErrs := SMap.set [] s.hbmErrs sec (Errs.add (SMap.getD s.hbmErrs sec []) [(pos % n, by')]) }

end Sys2Proof.Machine
end

