-- ==== Sys2Proof/Machine/Turn.lean ====
section
/-!
DEFINITION. Whose turn it is: the quadrants and sequencers still to issue in a cycle, the order in which each tries its splits
or contexts (R41, R76, R230), the passing of a cycle, and the small machine that `withFetchWord` places (log 9).
-/
namespace Sys2Proof.Machine

/-- The unit of a thread: its quadrant, or 512 plus its cluster. -/
def unitOf (t : Nat) : Nat := if t < ctxBase then t / 16 else 512 + (t - ctxBase) / 16
/-- The cluster of a unit. -/
def unitCluster (u : Nat) : Nat := if u < 512 then u / 32 else u - 512

/-- Is an entry ready (R41)? Interlocks are found when its instruction is tried. -/
def Split.ready (p : Split) : Bool := p.valid && p.wait.isNone && p.held.isNone && !p.stopped && p.stall == 0

/-- A quadrant's ready slots in round-robin order after the slot that issued last; the splits of yielding strands come after
all others (R41). -/
def State.quadOrder (s : State) (q : Nat) : List (Nat × Nat) :=
  let slots := (List.range 64).map fun i => ((s.quad q).last + 1 + i) % 64
  let ready := slots.filterMap fun n =>
    let t := q * 16 + n / 4
    match s.thread? t with
    | some x => if (x.split (n % 4)).ready && !s.blocked t (n % 4) x.uid then some (t, n % 4, x.yielding) else none
    | none => none
  (ready.filter (!·.2.2) ++ ready.filter (·.2.2)).map fun r => (r.1, r.2.1)

/-- A sequencer's ready contexts in round-robin order; the one to be passed over comes last (R76, R230). -/
def State.seqOrder (s : State) (k : Nat) : List (Nat × Nat) :=
  let cl := s.cluster k
  let ready := ((List.range 16).map fun i => (cl.last + 1 + i) % 16).filter fun n =>
    match s.thread? (ctxBase + k * 16 + n) with
    | some x => (x.split 0).ready && !s.blocked (ctxBase + k * 16 + n) 0 x.uid && (match s.gang? x.gang with
        | some g => !g.stopped
        | none => true)
    | none => false
  (ready.filter (fun n => cl.pass != some n) ++ ready.filter (fun n => cl.pass == some n)).map fun n => (ctxBase + k * 16 + n, 0)

/-- The order in which a unit tries its splits or contexts. -/
def State.order (s : State) (u : Nat) : List (Nat × Nat) := if u < 512 then s.quadOrder u else s.seqOrder (u - 512)

/-- A unit chooses an entry: it issued last, and the marks of yielding have served for this choice (R41, R230). -/
def State.chosen (s : State) (u t e : Nat) : State :=
  let s := s.reportWake t e
  if u < 512 then
    let s := s.setQuad u { s.quad u with last := t % 16 * 4 + e }
    { s with threads := s.threads.map fun c => if !c.2.seq && c.1 / 16 == u then (c.1, { c.2 with yielding := false }) else c }
  else s.setCluster (u - 512) { s.cluster (u - 512) with last := (t - ctxBase) % 16, pass := none }

/-- The next unit of this cycle: the clusters proceed in any order (log 1), the units of one cluster in rising order, so that
operations of one cycle meet a bank in rising core number (R54, R56). -/
def State.nextUnit (s : State) : Option (Nat × State) :=
  let cs := sortAsc (s.turn.map unitCluster)
  let (c, s) := if cs.length ≤ 1 then (cs.head?, s)
    else (cs[Config.choose s.choice % cs.length]?, { s with choice := s.choice + 1 })
  c.bind fun c => ((sortAsc s.turn).find? fun u => unitCluster u == c).map fun u =>
    (u, { s with turn := s.turn.filter (· ≠ u) })

/-- A cycle passes: a line may leave an L1, a home slice or a peer L2 (log 13), stores reach L2 (R107), a storage may suffer an error (R352), results that are due
are written (R201), the hub and the homes go on (R118, R129), the accesses under way are tried again, and every unit that holds a thread
may issue once more. -/
def State.tick (s : State) : State :=
  let s := s.lineGoes.writeOut
  let s : State := match Config.upset s.cycle with
    | some u => s.upset u
    | none => s
  let s : State := { s with
    cycle := s.cycle + 1
    threads := s.threads.map fun c => (c.1, if c.2.pend.isEmpty then c.2 else c.2.commit (s.cycle + 1))
    turn := sortAsc (s.threads.map fun c => unitOf c.1) }
  let s : State := s.hubRun.homeKick
  s.wakeOps (s.ops.map (·.id))

/-! ## A placed instruction (log 9) -/

/-- A running split at an address, all its lanes in it. -/
def Split.at (pc : Nat) (m : Mask) : Split := { Split.reset with valid := true, pc := pc, mask := m }

/-- A join record that is free. -/
def JoinRec.reset : JoinRec := { used := false, addr := 0, recorded := 0, parked := 0, inH := 0, count := 0, below := none }

/-- A strand or context as R27 and R29 start it. -/
def Thread.start (seq : Bool) (uid die cluster core quad slot space launch gang group strand rbase regs pc : Nat) (k : List Word) :
    Thread :=
  { seq := seq, uid := uid, die := die, cluster := cluster, core := core, quad := quad, slot := slot, space := space,
    launch := launch, gang := gang, group := group, strand := strand, rbase := rbase, regs := regs,
    splits := if seq then [Split.at pc 1]
      else [Split.at pc (BitVec.allOnes 32), Split.reset, Split.reset, Split.reset],
    recs := List.replicate 16 JoinRec.reset, v := [], k := k, p := [if seq then 1 else BitVec.allOnes 32, 0, 0, 0, 0, 0, 0, 0],
    streams := List.replicate 8 none, winBase := 0, region := none, staged := false, rm := .rne, ftz := false, pend := [],
    rem := [], fault := 0, faultpc := 0, faultinfo := 0, av := 0, ap := 0, loupe := [], yielding := false,
    poison := [] }

/-- The space, text address and physical text address of the placed instruction, and its table. -/
def placeText : Nat := 0x40000000
/-- Its frame: 4 GiB into die 0. -/
def placeFrame : Nat := 0x100000000
/-- Its root table: 2 GiB into die 0. -/
def placeRoot : Nat := 0x80000000

/-- The words of the bundle that holds the placed instruction: a control word whose XF marks its extension words, then the
instruction in slot 1 (R193 to R195). -/
def placeBundle (w : Word) (exts : List Word) : List Word :=
  BitVec.ofNat 32 (match exts.length with
    | 0 => 0
    | 1 => 2 ^ 22
    | _ => 2 ^ 22 + 2 ^ 23) :: w :: exts

/-- A kernel whose texts are the one page of the placed instruction. -/
def placeKernel : Kernel :=
  { space := 1, object := 1, stext := placeText, ssize := 32, qtext := placeText, qsize := 32, rodata := 0, rosize := 0,
    strands := 1, gang := 1, regs := 512, scratch := 786432, barriers := 16, signet := false, stallchk := false, trap := none,
    args := 0, unloading := false }

/-- A launch of it, with all of the lower addresses in its residency ranges. -/
def placeLaunch : Launch :=
  { job := 1, node := 0, kernel := 1, space := 1, nx := 1, ny := 1, nz := 1, prio := 0, ceil := 0, dies := 3, xsplit := false,
    stallchk := false, signet := false, scopechk := false, scopetrap := false, debug := false, age := 1000, drain := 100000,
    argpa := 0, argva := 0, ranges := [(0, placeText)], next := 1, live := 1, ready := true, e := 0, ageFrom := 0,
    blocking := false, drainAt := none, drainBy := none, dropped := true, resident := true, startAt := 0,
    used := [] }

/-- Its node and its job. -/
def placeJob : Job :=
  { space := 1, ctrbase := 0, phases := [1], graphs := [1],
    units := [{ done := 0, total := 1, state := .running, fcode := 0 }, { done := 0, total := 1, state := .running, fcode := 0 },
              { done := 0, total := 1, state := .running, fcode := 0 }, { done := 0, total := 1, state := .running, fcode := 0 }],
    nodes := [{ kind := .launch 1, graph := 0, index := 0, succ := [], pred := 0, ready := true, posted := 0, progress := 0,
                attempts := 1, retry := 2, undoLog := 2 ^ 30, ending := none, staged := false, undo := [], logged := [] }] }

/-- Its gang. -/
def placeGang : Gang :=
  { launch := 1, index := 0, die := 0, cluster := 0, ctx := 0, groups := [{ core := 0, scratch := 0, bars := 0, live := 1 }],
    size := 786432, nbars := 16, queue := [], nextCmd := 0, ctxEnded := false, efault := none, failed := none, killed := false, counts := true }

/-- The machine running, with one gang placed whose strand, or whose context, is about to fetch the given words. -/
def State.placeWords (s : State) (seq : Bool) (w : Word) (exts : List Word) : State :=
  let x := Thread.start seq 1 0 0 0 0 0 1 1 1 0 0 0 512 (placeText + 4) (List.replicate 24 0)
  let t := if seq then ctxBase else 0
  let text := (placeBundle w exts).flatMap fun v => leBytes 4 v.toNat
  { s with
    inputs := [], iss := none, ops := [], wake := [], leases := [], msgs := [], hubActs := [], watches := [], monitors := []
    turn := [unitOf t]
    threads := [(t, x)], gangs := [(1, placeGang)]
    poison := s.poison.filter fun q => !(q * 32 == placeFrame)
    mem := Memory.writeBytes (Memory.writeBytes s.mem (placeRoot + 8) (leBytes 8 (placeFrame + 0x2F))) placeFrame text
    fab := { s.fab with src := [], dst := [], loop := [], frozen := [], std := [], stdIn := [], qps := [], stations := [] }
    res := { s.res with
      kernels := [(1, placeKernel)], jobs := [(1, placeJob)], launches := [(1, placeLaunch)], upcalls := [], stops := [],
      calls := [], again := false, opens := [], translators := [], spaces := SMap.put s.res.spaces 1 { (s.space 1) with root := some placeRoot } }
    mod := { s.mod with power := .run } }

end Sys2Proof.Machine
end

