-- ==== Sys2Proof/Machine/Sched.lean ====
section
/-!
DEFINITION. Jobs and their launches: POST and its records (R324 to R328), residency (R343, R345), levels, blocking and placement (R332
to R336), and the completion of nodes (R113, R326, R372).
-/
namespace Sys2Proof.Machine

/-! ## Records of POST -/

/-- What reading records comes to: what they say, or why not. -/
abbrev Read (α : Type) := Except Lack α

/-- The bytes of a record of a space, aligned and readable, as an agent at the homes (R129, R324). -/
def State.record? (s : State) (agent space va n al : Nat) : Read (List Byte) :=
  if va % al ≠ 0 ∨ 2 ^ 48 < va + n then .error .denied else s.readSpace agent space va n

/-- An array of `n` fields of `w` bytes. -/
def State.array? (s : State) (agent space va n w : Nat) : Read (List Nat) :=
  (s.record? agent space va (n * w) 1).map fun b => (List.range n).map fun i => objNum b (w * i) w

/-- The residency ranges of a launch record, or none where one is out of range or a byte past them is not zero (R327). -/
def launchRanges (b : List Byte) : Option (List (Nat × Nat)) :=
  let n := objNum b 40 2
  let rs := (List.range n).map fun i => (objNum b (64 + 16 * i) 8, objNum b (72 + 16 * i) 8)
  if n ≤ 16 && objZero b (64 + 16 * n) (256 - 16 * n) && rs.all (fun r => r.1 % 65536 == 0 && r.2 % 65536 == 0) then some rs else none

/-- The launch that the bytes of a record and its kernel give (R327, R328), or none where POST refuses it. Its job, node and argument copy
are filled in when it is posted. -/
def launchOf (space : Nat) (k : Kernel) (b : List Byte) (rs : List (Nat × Nat)) : Option Launch :=
  let nx := objNum b 8 4
  let ny := objNum b 12 4
  let nz := objNum b 16 4
  let place := objNum b 22 1
  let flags := objNum b 23 1
  let ok : Bool := k.space == space && !k.unloading && objZero b 4 4 && objZero b 42 22
    && [nx, ny, nz].all (fun n => 1 ≤ n && n ≤ 65536) && decide (nx * ny * nz ≤ 2 ^ 32 - 1)
    && decide (objNum b 20 1 ≤ objNum b 21 1) && decide (place < 8) && place % 4 != 0 && (place < 4 || place == 7)
    && decide (flags < 32) && decide (objNum b 24 4 ≤ 1000000) && decide (objNum b 28 4 ≤ 1000000)
    && objNum b 32 8 % 16 == 0 && decide (objNum b 32 8 < 2 ^ 48)
  if ok then some
    { job := 0, node := 0, kernel := objNum b 0 4, space := space, nx := nx, ny := ny, nz := nz, prio := objNum b 20 1,
      ceil := objNum b 21 1, dies := place % 4, xsplit := place / 4 == 1, stallchk := flags.testBit 0, signet := flags.testBit 1,
      scopechk := flags.testBit 2, scopetrap := flags.testBit 2 && flags.testBit 3, debug := flags.testBit 4,
      age := objNum b 24 4, drain := objNum b 28 4, argpa := 0, argva := 0, ranges := rs, next := 0, live := 0, ready := false,
      e := objNum b 20 1, ageFrom := 0, blocking := false, drainAt := none, drainBy := none, dropped := false,
      resident := false, startAt := 0, used := [] }
  else none

/-- What is not there is denied. -/
def orDenied {α : Type} : Option α → Read α
  | some x => .ok x
  | none => .error .denied

/-- A launch record with its argument block (R327, R328). -/
def State.launchRecord (s : State) (agent space va : Nat) : Read (Launch × List Byte) :=
  (s.record? agent space va 320 16).bind fun b =>
  (orDenied (launchRanges b)).bind fun rs =>
  (orDenied (s.kernel? (objNum b 0 4))).bind fun k =>
  (orDenied (launchOf space k b rs)).bind fun l =>
  (s.record? agent space (objNum b 32 8) k.args 16).map fun args => (l, args)

/-- What a node is, as its entry gives it, a launch with its arguments (R324, R326). -/
inductive PBody where
  | launch (l : Launch) (args : List Byte)
  | other (k : NodeKind)
  deriving DecidableEq, Repr
/-- A node entry as read: successors within the graph, the predecessor count, the body. -/
structure PNode where
  succ : List Nat
  npred : Nat
  body : PBody
  deriving DecidableEq, Repr

/-- The body of a node of a kind (R326). -/
def State.nodeBody (s : State) (agent space kind body : Nat) : Read PBody :=
  match kind with
  | 1 => (s.launchRecord agent space body).map fun x => .launch x.1 x.2
  | 2 => (s.record? agent space body 24 8).map fun b => .other (.copy (objNum b 0 8) (objNum b 8 8) (objNum b 16 8))
  | 3 => (s.record? agent space body 16 8).bind fun b =>
      let n := objNum b 4 4
      if 1 ≤ n ∧ n ≤ 256 then .ok (.other (.coll (BitVec.ofNat 32 (objNum b 0 4)) n (objNum b 8 8))) else .error .denied
  | 4 => .ok (.other (.service body))
  | _ => .error .denied
/-- A node entry (R324). -/
def State.nodeEntry (s : State) (agent space va nnode : Nat) : Read PNode :=
  (s.record? agent space va 24 8).bind fun b =>
    let ns := objNum b 2 2
    if !objZero b 1 1 ∨ 64 < ns ∨ 4095 < objNum b 4 4 then .error .denied
    else (s.array? agent space (objNum b 16 8) ns 4).bind fun succ =>
      if succ.any (nnode ≤ ·) then .error .denied
      else (s.nodeBody agent space (objNum b 0 1) (objNum b 8 8)).map fun y => { succ := succ, npred := objNum b 4 4, body := y }

/-- All results of a list, or the first that fails. -/
def allRead {α β : Type} (f : α → Read β) : List α → Read (List β)
  | [] => .ok []
  | x :: r => (f x).bind fun y => (allRead f r).map fun ys => y :: ys

/-- Nodes without predecessors leave a graph round by round; with none left to leave, what remains is a cycle (R324). -/
def acyclic : Nat → List (List Nat) → List Nat → List Nat → Bool
  | 0, _, _, left => left.isEmpty
  | n + 1, succ, deg, left =>
    let go := left.filter fun i => deg.getD i 0 == 0
    let deg := go.foldl (fun d i => (succ.getD i []).foldl (fun d j => updAt d j fun x => x - 1) d) deg
    left.isEmpty || (!go.isEmpty && acyclic n succ deg (left.filter fun i => !go.contains i))

/-- A graph's nodes (R324): counts that agree with the entries, and no cycle. -/
def State.graphRecord (s : State) (agent space va : Nat) : Read (List PNode) :=
  (s.record? agent space va 16 8).bind fun b =>
    let n := objNum b 0 4
    if n = 0 ∨ 4096 < n ∨ !objZero b 4 4 then .error .denied
    else (allRead (fun i => s.nodeEntry agent space (objNum b 8 8 + 24 * i) n) (List.range n)).bind fun ns =>
      let all := ns.flatMap (·.succ)
      if (List.range n).all (fun i => (ns.map (·.npred)).getD i 0 == (all.filter (· == i)).length)
          && acyclic (n + 1) (ns.map (·.succ)) (ns.map (·.npred)) (List.range n)
      then .ok ns else .error .denied
/-- A phase's graphs (R324). -/
def State.phaseRecord (s : State) (agent space va : Nat) : Read (List (List PNode)) :=
  (s.record? agent space va 16 8).bind fun b =>
    let n := objNum b 0 2
    if n = 0 ∨ 256 < n ∨ !objZero b 2 6 then .error .denied
    else (s.array? agent space (objNum b 8 8) n 8).bind fun vas => allRead (fun v => s.graphRecord agent space v) vas
/-- A job's phases (R324). -/
def State.jobRecord (s : State) (agent space va : Nat) : Read (List (List (List PNode))) :=
  (s.record? agent space va 16 8).bind fun b =>
    let n := objNum b 2 2
    if objNum b 0 2 ≠ space ∨ n = 0 ∨ 256 < n ∨ !objZero b 4 4 then .error .denied
    else (s.array? agent space (objNum b 8 8) n 8).bind fun vas => allRead (fun v => s.phaseRecord agent space v) vas

/-! ## POST -/

/-- The graph number, the number within the graph, the first node's number and the entry of every node of a job, in record order. -/
def numberNodes : Nat → Nat → List (List PNode) → List (Nat × Nat × Nat × PNode)
  | _, _, [] => []
  | g, first, ns :: r =>
    ((List.range ns.length).zip ns).map (fun x => (g, x.1, first, x.2)) ++ numberNodes (g + 1) (first + ns.length) r

/-- A launch is posted: its argument block is copied and it has its %launch (R28, R328). -/
def State.postLaunch (s : State) (job node : Nat) (l : Launch) (args : List Byte) : Option (State × Nat) :=
  (s.residentPages l.space 4096 false).map fun (va, s) =>
    let id := s.res.nextLaunch
    ((s.writeSpace l.space va args).updRes fun r => { r with
      nextLaunch := id + 1
      launches := SMap.put r.launches id { l with job := job, node := node, argpa := ((s.pa? l.space va).getD 0), argva := va } }, id)

/-- The nodes of a job are posted in order. -/
def State.postNodes (s : State) (job : Nat) : Nat → List (Nat × Nat × Nat × PNode) → Option (State × List Node × List Nat)
  | _, [] => some (s, [], [])
  | n, (g, i, first, x) :: r =>
    let node (k : NodeKind) : Node :=
      { kind := k, graph := g, index := i, succ := x.succ.map (· + first), pred := x.npred, ready := false, posted := 0, progress := 0,
        attempts := 0, retry := 0, undoLog := 0, ending := none, staged := true, undo := [], logged := [] }
    match x.body with
    | .launch l args => (s.postLaunch job n l args).bind fun (s, id) =>
        (State.postNodes s job (n + 1) r).map fun (s, ns, ids) => (s, node (.launch id) :: ns, id :: ids)
    | .other k => (State.postNodes s job (n + 1) r).map fun (s, ns, ids) => (s, node k :: ns, ids)

/-- Gangs of a launch. -/
def Launch.total (l : Launch) : Nat := l.nx * l.ny * l.nz

/-- TOTAL of every unit of a job, in the order of R329. -/
def unitTotals (ps : List (List (List PNode))) : List Nat :=
  [ps.length] ++ ps.map List.length ++ ps.flatten.map List.length ++ ps.flatten.flatten.map fun n => match n.body with
    | .launch l _ => l.total
    | .other _ => 1

/-- A job whose records have been read is posted and started; the answer carries its identifier, CTRBASE and the %launch of each launch
node (R320, R325, R328, R329). -/
def State.postJob (s : State) (space : Nat) (ps : List (List (List PNode))) : Option (State × List Nat) :=
  let j := s.res.nextJob
  let totals := unitTotals ps
  (s.residentPages space (16 * totals.length) false).bind fun (ctr, t) =>
  (State.postNodes t j 0 (numberNodes 0 0 ps.flatten)).map fun (t, nodes, ids) =>
    let jb : Job := { space := space, ctrbase := ctr, phases := ps.map List.length, graphs := ps.flatten.map List.length,
                      units := totals.map fun n => { done := 0, total := n, state := .waiting, fcode := 0 }, nodes := nodes }
    let t := t.updRes fun x => { x with nextJob := j + 1, jobs := SMap.put x.jobs j jb }
    let t := t.writeSpace space ctr (totals.flatMap fun n => leBytes 4 0 ++ leBytes 4 n ++ leBytes 8 0)
    ((t.startUnit j 0).jobRun j, [j, ctr] ++ ids)

/-- POST (R320, R324, R325, R328, R329): the job is refused whole, or posted whole and started. -/
def execPost (r : Req) (space va : Nat) (s : State) : Host.Outcome State Fault Refusal :=
  s.serve r fun s =>
    if space = 0 ∨ 65535 < space then answerNow s stMALFORMED []
    else match s.jobRecord (reqAgent r.seq) space va with
      | .error .denied => answerNow s stMALFORMED []
      | .error l => .waits s l (.post r space va)
      | .ok ps => match s.postJob space ps with
        | some (t, body) => answerNow t stOK body
        | none => answerNow s stMALFORMED []

/-! ## Residency (R343, R345) -/

/-- The 64 KiB pages of ranges, each once, rising. -/
def pagesOf (rs : List (Nat × Nat)) : List Nat :=
  sortAsc (rs.flatMap fun r => if r.2 = 0 then [] else span (r.1 / 65536) ((r.1 + r.2 - 1) / 65536))
/-- The pager of a page, where one is registered (R345). -/
def State.pagerOf (s : State) (space page : Nat) : Bool :=
  (s.space space).pagers.any fun p => p.1 ≤ page * 65536 && page * 65536 < p.1 + p.2.1
/-- An absent page gets a fresh frame on its home die, with these bytes, and is present (R345). -/
def State.supplyPage (s : State) (space page : Nat) (bs : List Byte) : Option State :=
  (s.pte? space (page * 65536)).bind fun (a, e) =>
    (s.allocFrame (e / 128 % 2)).map fun (f, s) => (s.poke f bs).pokeRaw a 8 (f + e % 4096 / 2 * 2 + 1)
/-- An upcall for a page: never two at once (R345). -/
def State.upcall (s : State) (space page : Nat) : State :=
  if s.res.upcalls.any fun u => u.space == space && u.va == page * 65536 then s
  else s.updRes fun r => { r with
    nextToken := r.nextToken + 1
    upcalls := r.upcalls ++ [{ token := r.nextToken, space := space, va := page * 65536, since := s.cycle,
                               limit := (s.space space).pagerMs * 1000 * usCycles }] }
/-- Is the page present? -/
def State.presentPage (s : State) (space page : Nat) : Bool :=
  match s.pte? space (page * 65536) with
  | some (_, e) => e % 2 == 1
  | none => false
/-- Make pages present: by upcalls where they have a pager, else as zeros (R343, R345). -/
def State.callIn (s : State) (space : Nat) (pages : List Nat) : State :=
  pages.foldl (fun s p =>
    if s.presentPage space p then s
    else if s.pagerOf space p then s.upcall space p
    else (s.supplyPage space p []).getD s) s
/-- A holder counts on pages, and LEASE is set (R343). -/
def State.hold (s : State) (space holder : Nat) (pages : List Nat) : State :=
  pages.foldl (fun s p =>
    let s := match s.pte? space (p * 65536) with
      | some (a, e) => if e.testBit 2 then s else s.pokeRaw a 8 (e + 4)
      | none => s
    if s.res.holders.contains (space, p, holder) then s
    else s.updRes fun r => { r with holders := r.holders ++ [(space, p, holder)] }) s

/-- The record of a launch's failure to become resident (R343, R345). -/
def State.residencyFail (s : State) (id : Nat) (code va info aux : Nat) : State :=
  match s.launch? id with
  | some l => (s.record { s.nodeRec code l.job l.node with addr := va, info := info, aux0 := aux }).endLaunch id .failed code
  | none => s

/-- One move towards a launch's residency, where there is one to make: it fails for want of an entry, pages are called in, or it
holds them all (R343). -/
def State.residencyMove (s : State) (id : Nat) (l : Launch) : Option State :=
  let ps := pagesOf l.ranges
  match ps.find? fun p => (s.pte? l.space (p * 65536)).isNone with
  | some p => some (s.residencyFail id codePERM (p * 65536) 1 0)
  | none =>
    let absent := ps.filter fun p => !s.presentPage l.space p
    if absent.isEmpty then some ((s.hold l.space id ps).updLaunch id fun l => { l with resident := true })
    else
      let asked := absent.filter fun p => s.res.upcalls.any fun u => u.space == l.space && u.va == p * 65536
      let can := absent.any fun p => !asked.contains p && (s.pagerOf l.space p || (s.supplyPage l.space p []).isSome)
      if can then some (s.callIn l.space absent) else none

/-! ## Room on a core (R335, R336) -/

/-- The lowest multiple of `al` from which `n` numbers below `limit` are free of the intervals (start, length). -/
def freeRun (used : List (Nat × Nat)) (n limit al : Nat) : Option Nat :=
  let up (x : Nat) : Nat := (x + al - 1) / al * al
  let fits (a : Nat) : Bool := decide (a + n ≤ limit) && used.all fun u => n == 0 || u.2 == 0 || decide (a + n ≤ u.1) || decide (u.1 + u.2 ≤ a)
  (sortAsc (0 :: used.map fun u => up (u.1 + u.2))).find? fits

/-- Slots and registers taken on a core: quadrant, slot, first register, registers. -/
def State.takenOn (s : State) (cid : Nat) : List (Nat × Nat × Nat × Nat) :=
  (s.strandsOf cid).map fun t => (t.2.quad, t.2.slot, t.2.rbase, t.2.regs)
/-- Strands of a group placed one after another: quadrant i mod 4, lowest slot, lowest run (R336). -/
def placeStrands (regs : Nat) : List Nat → List (Nat × Nat × Nat × Nat) → Option (List (Nat × Nat × Nat))
  | [], _ => some []
  | i :: r, taken =>
    let q := i % 4
    let mine := taken.filter fun t => t.1 == q
    match (List.range 16).find? (fun n => !mine.any fun t => t.2.1 == n), freeRun (mine.map fun t => (t.2.2.1, t.2.2.2)) regs 1024 1 with
    | some slot, some base => (placeStrands regs r ((q, slot, base, regs) :: taken)).map fun l => (q, slot, base) :: l
    | _, _ => none

/-- Where a group goes on a core: its scratchpad and its strands. -/
structure GSpot where
  core : Nat
  scratch : Nat
  strands : List (Nat × Nat × Nat)
  deriving DecidableEq, Repr
/-- Groups on a core of a cluster: first scratchpad byte, bytes, barriers. -/
def State.groupsOn (s : State) (die cluster core : Nat) : List (Nat × Nat × Nat) :=
  (s.gangs.filter fun g => g.2.die == die && g.2.cluster == cluster).flatMap fun g =>
    (g.2.groups.filter fun x => x.core == core).map fun x => (x.scratch, g.2.size, g.2.nbars)
/-- Room for one group of a kernel on a core (R335). -/
def State.coreSpot (s : State) (die cluster : Nat) (k : Kernel) (core : Nat) : Option GSpot :=
  let cid := (die * 8 + cluster) * 8 + core
  let c := s.core cid
  let gs := s.groupsOn die cluster core
  if c.excluded || c.retired || 128 < (gs.map fun g => g.2.2).foldl (· + ·) k.barriers then none
  else match freeRun (gs.map fun g => (g.1, g.2.1)) k.scratch 786432 4096, placeStrands k.regs (List.range k.strands) (s.takenOn cid) with
    | some a, some l => some { core := core, scratch := a, strands := l }
    | _, _ => none
/-- The lowest-numbered free sequencer context of a cluster. -/
def State.freeCtx (s : State) (die cluster : Nat) : Option Nat :=
  (List.range 16).find? fun n => !s.gangs.any fun g => g.2.die == die && g.2.cluster == cluster && g.2.ctx == n
/-- Where a gang goes. -/
structure Spot where
  die : Nat
  cluster : Nat
  ctx : Nat
  groups : List GSpot
  deriving DecidableEq, Repr
/-- The first cluster, and in it the lowest cores, that can take a gang (R335, R336). -/
def State.gangSpot (s : State) (k : Kernel) (dies : List Nat) : Option Spot :=
  (dies.flatMap fun d => (List.range 8).map fun c => (d, c)).findSome? fun (d, c) =>
    (s.freeCtx d c).bind fun ctx =>
      let gs := ((List.range 8).filterMap fun n => s.coreSpot d c k n).take k.gang
      if gs.length = k.gang then some { die := d, cluster := c, ctx := ctx, groups := gs } else none

/-- The dies on which a launch's next gang may go: those of the record, x mod 2 with XSPLIT, without those of a blocking launch of a
higher level (R327, R334). -/
def State.diesFor (s : State) (l : Launch) : List Nat :=
  [0, 1].filter fun d =>
    (if l.xsplit then d == l.next % l.nx % 2 else l.dies.testBit d)
    && !s.res.launches.any fun b => b.2.blocking && l.e < b.2.e && b.2.dies.testBit d

/-! ## Placing a gang -/

/-- k0 to k23 of a strand or context of a launch (R27, R29). -/
def State.argRegs (s : State) (l : Launch) : List Word :=
  ((List.range 22).map fun i => BitVec.ofNat 32 (Memory.le s.mem (l.argpa + 4 * i) 4))
    ++ [BitVec.ofNat 32 l.argva, BitVec.ofNat 32 (l.argva / 2 ^ 32)]

/-- The cores of a spot. -/
def Spot.cids (p : Spot) : List Nat := p.groups.map fun g => (p.die * 8 + p.cluster) * 8 + g.core

/-- Place the launch's next gang (R27, R29, R31, R336): every strand and the context are set up together. -/
def State.placeGang (s : State) (id : Nat) (l : Launch) (k : Kernel) (p : Spot) : State :=
  let gid := s.uid
  let args := s.argRegs l
  let base := (p.die * 8 + p.cluster) * 8
  let ix := (List.range p.groups.length).zip p.groups
  let strands := ix.flatMap fun (g, x) => ((List.range x.strands.length).zip x.strands).map fun (i, q, slot, rb) => (g, x.core, i, q, slot, rb)
  let ths := ((List.range strands.length).zip strands).map fun (n, g, core, i, q, slot, rb) =>
    ((base + core) * 64 + q * 16 + slot,
     Thread.start false (gid + 1 + n) p.die p.cluster core q slot l.space id gid g i rb k.regs (k.stext + 4) args)
  let ctx := Thread.start true (gid + 1 + strands.length) p.die p.cluster 0 0 p.ctx l.space id gid 0 0 0 0 (k.qtext + 4) args
  let s := { s with
    uid := gid + 2 + strands.length
    threads := SMap.put (ths.foldl (fun m (t : Nat × Thread) => SMap.put m t.1 t.2) s.threads) (ctxBase + (p.die * 8 + p.cluster) * 16 + p.ctx) ctx
    gangs := SMap.put s.gangs gid
      { launch := id, index := l.next, die := p.die, cluster := p.cluster, ctx := p.ctx,
        groups := p.groups.map fun (x : GSpot) => { core := x.core, scratch := x.scratch, bars := gid * 32, live := k.strands },
        size := k.scratch, nbars := k.barriers, queue := [], nextCmd := 0, ctxEnded := false, efault := none, failed := none,
        killed := false, counts := true } }
  let s := s.updLaunch id fun l => { l with
    next := l.next + 1, live := l.live + 1, e := l.prio, ageFrom := s.cycle, blocking := false
    startAt := if l.used.isEmpty then s.cycle else l.startAt
    used := p.cids.foldl (fun u c => insertAsc c u) l.used }
  let s := s.updRes fun r => { r with lastAt := SMap.put r.lastAt l.e id }
  let s := ((List.filter (fun (v : Nat × Launch) => v.2.drainBy == some id) s.res.launches).map (fun v => v.1)).foldl (fun (s : State) v => s.liftDrain v) s
  match s.job? l.job with
  | some jb => s.startUnit l.job (jb.nodeUnit l.node)
  | none => s

/-- Has the launch a gang to place (R333, R337)? -/
def Launch.waits (l : Launch) : Bool := l.ready && !l.dropped && l.drainAt.isNone && l.next < l.total

/-- Launches in the order of a placement opportunity: levels downward, within a level round-robin by %launch (R333). -/
def State.visitOrder (s : State) : List Nat :=
  let ls := s.res.launches.filter fun l => l.2.waits
  (sortAsc (ls.map fun l => l.2.e)).reverse.flatMap fun e =>
    let ids := (ls.filter fun l => l.2.e == e).map (·.1)
    let last := SMap.getD s.res.lastAt e 0
    ids.filter (last < ·) ++ ids.filter (· ≤ last)

/-- The first thing that a placement opportunity does: a move towards a launch's residency, the writing back of the cores that a gang
is to use (R113), or a gang placed. A launch whose next gang fits nowhere is passed over. -/
def State.placeAct (s : State) : List Nat → Option State
  | [] => none
  | id :: rest =>
    match s.launch? id, s.kernelOf id with
    | some l, some k =>
      if !l.resident then
        match s.residencyMove id l with
        | some s => some s
        | none => State.placeAct s rest
      else match s.gangSpot k (s.diesFor l) with
        | none => State.placeAct s rest
        | some p =>
          if (s.flushBlocked p.cids).isEmpty then some ((s.flush p.cids true).placeGang id l k p)
          else if s.flushUnasked p.cids then some (s.flushAsk p.cids) else none
    | _, _ => State.placeAct s rest

/-- GANG_PLACEMENT (R333, R335, R336). -/
def execGangPlacement (s : State) : Host.Outcome State Fault Refusal := .next ((s.placeAct s.visitOrder).getD s)

/-! ## Aging (R332, R334) -/

/-- Has a full AGE interval of a launch passed, while it was ready, without a gang placed? A drain changes nothing in this. -/
def State.ageDue (s : State) (l : Launch) : Bool :=
  l.ready && !l.dropped && decide (l.next < l.total) && l.age != 0 && l.ageFrom + l.age * usCycles ≤ s.cycle

/-- The victim of a blocking launch's drain: with running groups on its dies, of the lowest level below its own, posted last (R334). -/
def State.victim (s : State) (b : Launch) : Option Nat :=
  let runs (v : Nat) : Bool := s.gangs.any fun g =>
    g.2.launch == v && b.dies.testBit g.2.die && g.2.groups.any fun x => decide (0 < x.live)
  let cs := s.res.launches.filter fun v => v.2.e < b.e && runs v.1
  cs.foldl (fun o v => match o with
    | some w => if (v.2.e ≤ (match s.launch? w with
        | some x => x.e
        | none => 256) : Bool) then some v.1 else some w
    | none => some v.1) none

/-- AGE_INTERVAL_EXPIRY (R332, R334): the level rises to CEIL; then the launch becomes blocking; then a victim is drained, one at a
time. -/
def execAgeIntervalExpiry (launch : Nat) (s : State) : Host.Outcome State Fault Refusal :=
  .next (match s.launch? launch with
    | none => s
    | some l =>
      if !s.ageDue l then s
      else
        let s := s.updLaunch launch fun l => { l with ageFrom := s.cycle }
        if l.e < l.ceil then s.updLaunch launch fun l => { l with e := l.e + 1 }
        else if !l.waits then s
        else if !l.blocking then s.updLaunch launch fun l => { l with blocking := true }
        else if s.res.launches.any fun v => v.2.drainBy == some launch then s
        else match s.victim l with
          | some v => s.startDrain v (some launch)
          | none => s)

/-! ## Completion of nodes -/

/-- Is every event of a launch node over: its gangs placed and ended, its remote writes acknowledged, its entries completed (R113,
R326)? -/
def State.launchOver (s : State) (j n : Nat) (l : Launch) : Bool :=
  l.ready && !l.dropped && l.next == l.total && s.quiet j n
    && !s.fab.qps.any fun q => q.2.queue.any fun e => e.node == nodeKey j n

/-- The addresses of a range at which its pages begin, up to the first address with one of bits [63:48] set (R372). -/
def rangeStarts (va len : Nat) : List Nat :=
  if len = 0 then [] else if 2 ^ 48 ≤ va then [va] else (span (va / 65536) (min (va + len - 1) (2 ^ 48) / 65536)).map fun p => max va (p * 65536)
/-- The lowest faulting address of a copy's ranges, with the INFO of PERM (R372). -/
def State.copyDenied (s : State) (space src dst len : Nat) : Option (Nat × Nat) :=
  let bad (a : Acc) (va : Nat) : List (Nat × Nat) := (rangeStarts va len).filterMap fun v => (s.denied space v a).map fun i => (v, i)
  (bad .load src ++ bad .store dst).foldl (fun o x => match o with
    | some y => if x.1 < y.1 then some x else some y
    | none => some x) none

/-- The next piece of a copy node: to the next 4 KiB boundary of its destination (R331). -/
def nodePiece (dst len progress : Nat) : Nat := min (len - progress) (4096 - (dst + progress) % 4096)
/-- The lines of a piece, with those it writes. -/
def State.pieceLines (s : State) (space src dst n : Nat) : List (Nat × Bool) :=
  let wr := (s.pieces space dst n).map fun p => lineOf p.1
  let rd := ((s.pieces space src n).map fun p => lineOf p.1).filter fun l => !wr.contains l
  wr.map (fun l => (l, true)) ++ rd.map fun l => (l, false)
/-- Must a piece wait for a page's migration: one that it writes is frozen, or what it reads is not to be read now (R346)? -/
def State.pieceFrozen (s : State) (space src dst n : Nat) : Bool :=
  (rangeStarts dst n).any (fun v => match s.page? space v with
    | some p => p.mig != 0
    | none => false)
  || (s.pieces space src n).any fun p => s.frozenRead space (src + p.2.1)

/-- A copy node fails with PERM (R372). -/
def State.copyFail (s : State) (j n : Nat) (va info : Nat) : State :=
  (s.record { s.nodeRec codePERM j n with addr := va, info := info }).endNode j n false (some .failed) codePERM

/-- The next move of a copy node: its checks, a piece, or its end (R326, R331, R372). -/
def State.copyMove (s : State) (j n space src dst len : Nat) (x : Node) : State :=
  let k := nodePiece dst len x.progress
  match s.copyDenied space (if x.progress = 0 then src else src + x.progress) (if x.progress = 0 then dst else dst + x.progress)
      (if x.progress = 0 then len else k) with
  | some (va, i) => s.copyFail j n va i
  | none =>
    if len ≤ x.progress then s.nodeFinal j n .complete 0
    else
      let a := src + x.progress
      let b := dst + x.progress
      if s.pieceFrozen space a b k then s
      else
        let lines := s.pieceLines space a b k
        match s.homeAccess (nodeAgent j n) lines with
        | (s, false) => s
        | (s, true) =>
          let (bs, bad) := s.readPieces (s.pieces space a k)
          let s := if bad then s else s.writePieces (nodeKey j n) (s.pieces space b k) bs
          let s := s.homeDone (nodeAgent j n) lines
          if bad then
            (s.markPois space (a + s.sectorAt space a k)).rollback j n { s.nodeRec codePOISON j n with addr := s.sectorPa space a k }
          else s.updNode j n fun x => { x with progress := x.progress + k }

/-- A collective node fails with a fault of one of its entries. -/
def State.collFail (s : State) (j n : Nat) (f : FInfo) : State :=
  (s.record { s.nodeRec f.code j n with addr := f.addr, info := f.info, aux0 := f.aux0, aux1 := f.aux1 }).endNode j n false
    (some .failed) f.code
/-- Has a collective node an entry to post, and is there room for it (R171)? -/
def State.collRoom (s : State) (space : Nat) (h : Word) : Bool :=
  match s.queueOf space h with
  | .inr (_, _, _, q) => q.queue.length < queueSize || q.refused
  | .inl _ => true
/-- A collective node posts its next entry as `colpost` would, with the endpoint of die 0 as its source (R326). -/
def State.collPost (s : State) (j n space : Nat) (h : Word) (va : Nat) (x : Node) : State :=
  let a := va + 32 * x.posted
  match s.queueOf space h with
  | .inl f => s.collFail j n f
  | .inr (peer, pqp, qp, q) =>
    if q.refused then s.collFail j n { capPerm h with aux0 := qp, aux1 := q.nextPos % 65536 }
    else if a % 32 ≠ 0 then s.collFail j n { code := codeALIGN, addr := a, info := 1 }
    else match s.denied space a .load with
      | some i => s.collFail j n { code := codePERM, addr := a, info := i }
      | none =>
        if queueSize ≤ q.queue.length || s.frozenRead space a then s
        else
          let pa := (s.pa? space a).getD 0
          let lines := [(lineOf pa, false)]
          match s.homeAccess (nodeAgent j n) lines with
          | (s, false) => s
          | (s, true) =>
            let s := s.homeDone (nodeAgent j n) lines
            let e := Memory.le s.mem pa 32
            if s.poisoned pa 32 then (s.markPois space a).collFail j n { code := codePOISON, addr := pa }
            else if !s.entryOk space e then s.collFail j n (capPerm h)
            else (s.postEntry qp e (nodeKey j n) (s.endpoint 0) peer pqp (acceptedBy space h)).updNode j n fun x =>
              { x with posted := x.posted + 1 }

/-- NODE_COMPLETE (R329): a node whose work is over takes its final STATE; before that a launch's cores are written back (R113; log 83
for a node that fails or is cancelled), a copy node moves on, a collective node posts its entries (R326, R372). -/
def execNodeComplete (job node : Nat) (s : State) : Host.Outcome State Fault Refusal :=
  .next (match s.job? job, s.node? job node with
    | some jb, some x =>
      if !x.ready || jb.nodeDone node then s
      else match x.ending with
      | some e => if s.quiet job node && s.endBlocked x e then s.flushAsk (s.usedBy x) else s.settleEnd job node
      | none => match x.kind with
        | .launch id =>
          (match s.launch? id with
           | some l =>
             if !s.launchOver job node l then s
             else if (s.flushBlocked l.used).isEmpty then (s.flush l.used false).nodeFinal job node .complete 0
             else s.flushAsk l.used
           | none => s)
        | .copy src dst len => s.copyMove job node jb.space src dst len x
        | .coll h n va =>
          if x.posted < n then s.collPost job node jb.space h va x
          else if s.quiet job node then s.nodeFinal job node .complete 0 else s
        | .service _ => s
    | _, _ => s)

/-- Would NODE_COMPLETE change anything? -/
def State.nodeMoves (s : State) (j n : Nat) : Bool :=
  match s.job? j, s.node? j n with
  | some jb, some x =>
    if !x.ready || jb.nodeDone n then false
    else match x.ending with
    | some e => s.quiet j n && (if e.undo then s.homeTry (undoAgent j n) ((s.undoLines (nodeKey j n) x).map fun l => (l, true))
        else !s.endBlocked x e || s.flushUnasked (s.usedBy x))
    | none => match x.kind with
      | .launch id =>
        (match s.launch? id with
         | some l => s.launchOver j n l && ((s.flushBlocked l.used).isEmpty || s.flushUnasked l.used)
         | none => false)
      | .copy src dst len =>
        len ≤ x.progress
        || (let k := nodePiece dst len x.progress
            let a := src + x.progress
            let b := dst + x.progress
            (s.copyDenied jb.space a b k).isSome
            || (!s.pieceFrozen jb.space a b k && s.homeTry (nodeAgent j n) (s.pieceLines jb.space a b k)))
      | .coll h c va =>
        if x.posted < c then
          s.collRoom jb.space h
          && (match s.pa? jb.space (va + 32 * x.posted) with
              | some pa => !s.frozenRead jb.space (va + 32 * x.posted) && s.homeTry (nodeAgent j n) [(lineOf pa, false)]
              | none => true)
        else s.quiet j n
      | .service _ => false
  | _, _ => false

end Sys2Proof.Machine
end

