-- ==== Sys2Proof/Machine/Calls.lean ====
section
/-!
DEFINITION. The Resident's system calls (R345 to R348, R138, R161, R169). A call of a space is performed when no call of the space
waits before it, and one that must wait for work to end goes on with the event of the same call.
-/
namespace Sys2Proof.Machine

/-! ## The call and its result -/

/-- What an attempt of a call comes to: its status and value, or what is left of it to be tried again, with a mark that its wait keeps. -/
inductive Ran where
  | done (s : State) (status value : Nat)
  | wait (s : State) (rest : Instr) (mark : Nat)
  deriving DecidableEq, Repr

/-- Statuses of a call (R348). -/
def clOK : Nat := 0
def clINVALID : Nat := 1
def clBUSY : Nat := 2
def clNOSPACE : Nat := 3

/-- One attempt: the call's first has no mark. -/
def State.attempt (s : State) (sp : Nat) (k : Option Nat → State → Ran) : State :=
  match k (SMap.find? s.res.begun sp) s with
  | .done s st v => (s.unreserveAll (callAgent sp)).updRes fun r => { r with callStatus := st, callValue := v, begun := SMap.del r.begun sp }
  | .wait s rest m => s.updRes fun r => { r with calls := rest :: r.calls, begun := SMap.put r.begun sp m }

/-- A call of a process of a space (R348): it waits behind the calls of its space that wait. The harts run in RUN only (R368). -/
def State.call (s : State) (i : Instr) (k : Option Nat → State → Ran) : Host.Outcome State Fault Refusal :=
  let sp := callSpace i
  .next (if s.mod.power != .run then s
    else if s.res.again then (s.updRes fun r => { r with again := false, calls := dropCall sp r.calls }).attempt sp k
    else if sp = 0 ∨ 65535 < sp then s.updRes fun r => { r with callStatus := clINVALID, callValue := 0 }
    else if s.res.calls.any fun j => callSpace j == sp then s.updRes fun r => { r with calls := r.calls ++ [i] }
    else s.attempt sp k)

/-- An argument that is not valid. -/
def Ran.invalid (s : State) : Ran := .done s clINVALID 0

/-! ## Ranges -/

/-- A range of whole 64 KiB pages below 2^48 (R348; a range of no page is invalid). -/
def rangeOk (va size : Nat) : Bool := va % 65536 == 0 && size % 65536 == 0 && size != 0 && decide (va + size ≤ 2 ^ 48)
/-- The pages of a range. -/
def rangePages (va size : Nat) : List Nat := (List.range (size / 65536)).map (· + va / 65536)
/-- Has every page of a range an entry? -/
def State.mapped (s : State) (space va size : Nat) : Bool := (rangePages va size).all fun p => (s.pte? space (p * 65536)).isSome
/-- Change the bits of every entry of a range. -/
def State.editPages (s : State) (space va size : Nat) (f : Nat → Nat) : State :=
  (rangePages va size).foldl (fun s p => match s.pte? space (p * 65536) with
    | some (a, e) => s.pokeRaw a 8 (f e)
    | none => s) s
/-- Bits of an entry replaced: `n` of them from bit `lo`. -/
def setBits (lo n x e : Nat) : Nat := e - e / 2 ^ lo % 2 ^ n * 2 ^ lo + x * 2 ^ lo
/-- A flag as a number. -/
def bit (b : Bool) : Nat := if b then 1 else 0

/-- Absent entries for pages, with the tables they need. -/
def State.makeEntries (s : State) (space e : Nat) : List Nat → Option State
  | [] => some s
  | p :: r => (s.ensureEntry space (p * 65536)).bind fun (a, s) => State.makeEntries (s.pokeRaw a 8 e) space e r

/-- MAP (R348): absent entries for the range; a page that is present is not mapped again. -/
def execMap (space va size : Nat) (r w x hw : Bool) (home : Nat) (s : State) : Host.Outcome State Fault Refusal :=
  s.call (.map space va size r w x hw home) fun _ s =>
    if !rangeOk va size || implBase < va + size || 1 < home || (rangePages va size).any fun p => s.presentPage space p then .invalid s
    else match s.makeEntries space (home * 128 + bit hw * 64 + bit x * 32 + bit w * 16 + bit r * 8 + 2) (rangePages va size) with
      | some s => .done s clOK 0
      | none => .done s clNOSPACE 0

/-- UNMAP (R342, R348): busy while a page of the range is leased. -/
def execUnmap (space va size : Nat) (s : State) : Host.Outcome State Fault Refusal :=
  s.call (.unmap space va size) fun _ s =>
    if !rangeOk va size || !s.mapped space va size then .invalid s
    else if (rangePages va size).any fun p => match s.pte? space (p * 65536) with
      | some (_, e) => e.testBit 2
      | none => false
    then .done s clBUSY 0
    else .done (s.editPages space va size fun e => setBits 0 1 0 e) clOK 0

/-- PROTECT (R342, R348). The pages that the Resident maps for itself keep their permissions (R169, R328, R329). -/
def execProtect (space va size : Nat) (r w x : Bool) (s : State) : Host.Outcome State Fault Refusal :=
  s.call (.protect space va size r w x) fun _ s =>
    if !rangeOk va size || implBase < va + size || !s.mapped space va size then .invalid s
    else .done (s.editPages space va size fun e => setBits 3 3 (bit r + 2 * bit w + 4 * bit x) e) clOK 0

/-! ## Recalling a page (R138, R346) -/

/-- Is a line one of the 64 KiB page at a physical address? -/
def linePage (base line : Nat) : Bool := decide (base / 128 ≤ line) && decide (line < base / 128 + 512)
/-- Is a line of the page on its way into or out of a cache? -/
def State.pageMoving (s : State) (base : Nat) : Bool :=
  s.cores.any (fun c => c.2.l1.any fun l => linePage base l.1 && l.2.moving)
  || s.peers.any (fun l => linePage base l.1 && l.2.moving)
  || s.msgs.any fun m => match msgWay m with
      | some (_, _, l) => linePage base l
      | none => false
/-- The lines of the page that a cache holds coherently, or for which a transaction is in service. -/
def State.pageHeld (s : State) (base : Nat) : List Nat :=
  (s.homes.filter fun h => linePage base h.1 && (h.2.cur.isSome || h.2.owner.isSome || !h.2.sharers.isEmpty || h.2.st != .HI)).map (·.1)
/-- The lines of the page of which some L1 holds dirty bytes. -/
def State.pageDirty (s : State) (base : Nat) : List Nat :=
  sortAsc (s.cores.flatMap fun c => (c.2.l1.filter fun l => linePage base l.1 && l.2.dirty != 0).map (·.1))
/-- What a recall of a page's held lines takes from other agents, which ask again: no two wait for each other. -/
def State.pageKept (s : State) (agent base : Nat) (held : List Nat) : List (Nat × Nat) :=
  s.homes.filterMap fun h => match h.2.reserved with
    | some a => if linePage base h.1 && (a == agent || held.contains h.1) then some (a, h.1) else none
    | none => none
/-- Would an attempt to recall the page change anything? -/
def State.recallMoves (s : State) (agent base : Nat) : Bool :=
  let held := s.pageHeld base
  !(s.pageKept agent base held).isEmpty
  || (!s.pageMoving base && (if held.isEmpty then (s.pageDirty base).all (fun l => !s.advanced l)
      else held.any fun l => !s.homeAskedFor agent l 4))
/-- Merge what every L1 holds dirty of a line, in ascending core order: one version event (R118, R138). -/
def State.mergeAll (s : State) (line : Nat) : State :=
  let s := (List.range 128).foldl (fun (s : State) c => if (s.l1 c line).dirty = 0 then s else s.mergeBytes line (s.l1 c line)) s
  (s.wrote line).settle [line]
/-- STEP 2 of R138: what caches hold coherently is recalled; then every L1 writes back its dirty bytes and drops its lines, in ascending
core order. Answers whether no cache holds the page. -/
def State.recallPage (s : State) (agent base : Nat) : State × Bool :=
  let s := (s.pageKept agent base (s.pageHeld base)).foldl (fun s x => s.unreserve x.1 x.2) s
  let held := s.pageHeld base
  if s.pageMoving base then (s, false)
  else if !held.isEmpty then (held.foldl (fun s l => s.askHome agent l 4) s, false)
  else if (s.pageDirty base).any fun l => s.advanced l then (s, false)
  else
    let s := (s.pageDirty base).foldl State.mergeAll s
    ({ s with cores := s.cores.foldl (fun m (c : Nat × Core) =>
        SMap.set Core.reset m c.1 { c.2 with l1 := c.2.l1.filter fun l => !linePage base l.1 }) s.cores }, true)

/-- SETMODE, page by page (R138): the page is marked transitioning, recalled, and changes its mode. -/
def execSetmode (space va size : Nat) (hw : Bool) (s : State) : Host.Outcome State Fault Refusal :=
  s.call (.setmode space va size hw) fun mark s =>
    if mark.isNone && (!rangeOk va size || !s.mapped space va size) then .invalid s
    else if size = 0 then .done s clOK 0
    else
      let next : Instr := .setmode space (va + 65536) (size - 65536) hw
      match s.pte? space va with
      | none => .wait s next 0
      | some (a, e) =>
        if e.testBit 6 == hw then .wait s next 0
        else if e % 2 = 0 then .wait (s.pokeRaw a 8 (setBits 6 1 (bit hw) e)) next 0
        else match (s.pokeRaw a 8 (setBits 10 1 1 e)).recallPage (callAgent space) (e / 4096 % 2 ^ 40 * 4096) with
          | (s, false) => .wait s (.setmode space va size hw) 0
          | (s, true) => .wait (s.pokeRaw a 8 (setBits 6 1 (bit hw) (setBits 10 1 0 e))) next 0

/-! ## Migration (R346) -/

/-- A number in one page, moved with it to another. -/
def movedTo (base new pa : Nat) : Nat := if base ≤ pa ∧ pa < base + 65536 then pa - base + new else pa
/-- An act of the hub whose address has moved. -/
def HubAct.moved (f : Nat → Nat) : HubAct → HubAct
  | .write pa bs => .write (f pa) bs
  | x => x
/-- What goes to a line's new home: the recorded release, and the accesses of cores that have their place there. -/
def Home.carried (h : Home) : Home :=
  { Home.reset with rel := h.rel, queue := h.queue.filter (fun r => decide (r.src < 128)), reserved := h.reserved.filter (fun a => decide (a < 128)) }
/-- The page's lines at their old homes, with the queues of the accesses of cores, which go on at the new ones. -/
def State.moveHomes (s : State) (base new : Nat) : State :=
  let old := s.homes.filter fun h => linePage base h.1
  let s := old.foldl (fun (s : State) h =>
    { s with homes := SMap.set Home.reset (SMap.del s.homes h.1) (movedTo base new (h.1 * 128) / 128) h.2.carried }) s
  old.foldl (fun s h => s.homeRun (movedTo base new (h.1 * 128) / 128)) s
/-- STEPS 4 and 5 of R346: the page's bytes, as its caches and HBM4E give them, its poison, the records of who wrote them, its monitors and
the Resident's own addresses move to a new frame; version records are discarded. -/
def State.movePage (s : State) (base new : Nat) : State :=
  let at' := movedTo base new
  let s := (List.range 512).foldl (fun (s : State) i => if (s.home (base / 128 + i)).present then s else s.readHbmLine (base / 128 + i)) s
  let s := s.poke new (Memory.bytes s.mem base 65536)
  let s := { s with
    poison := sortAsc (s.poison.map fun q => at' (q * 32) / 32)
    hbmErrs := s.hbmErrs.filter fun x => at' (x.1 * 32) == x.1 * 32
    writers := s.writers.foldl (fun (m : SMap Nat) (w : Nat × Nat) => if at' w.1 = w.1 then m else SMap.put (SMap.del m w.1) (at' w.1) w.2) s.writers
    monitors := s.monitors.map fun (m : Monitor) => { m with pa := at' m.pa }
    hubActs := s.hubActs.map (HubAct.moved at')
    fab := { s.fab with qps := s.fab.qps.map fun (q : Nat × QPair) => (q.1, { q.2 with block := at' q.2.block }) }
    res := { s.res with
      launches := s.res.launches.map fun (l : Nat × Launch) => (l.1, { l.2 with argpa := at' l.2.argpa })
      jobs := s.res.jobs.map fun (j : Nat × Job) => (j.1, { j.2 with nodes := j.2.nodes.map fun (n : Node) =>
        { n with undo := n.undo.map (fun (u : Nat × Byte) => (at' u.1, u.2)), logged := n.logged.map at' } }) } }
  s.moveHomes base new
/-- Has the old home still something to forward: packets queued for the page, or accesses of cores that had their place at a line of it
(R346)? -/
def State.forwarding (s : State) (space va base : Nat) : Bool :=
  (s.fab.frozen.any fun p => p.hdr.space == space && decide (p.hdr.va < va + 65536) && decide (va < p.hdr.va + packetBytes p))
  || s.homes.any fun h => linePage base h.1 && (h.2.reserved.any (fun a => a < 128) || h.2.queue.any fun r => r.src < 128)

/-- MIGRATE, page by page (R346): frozen, recalled, copied and switched; what was queued is forwarded and performed at the new home, and
then the page is free. An absent page only changes its home die. -/
def execMigrate (space va size : Nat) (s : State) : Host.Outcome State Fault Refusal :=
  s.call (.migrate space va size) fun mark s =>
    if mark.isNone && (!rangeOk va size || !s.mapped space va size) then .invalid s
    else if size = 0 then .done s clOK 0
    else
      let same : Instr := .migrate space va size
      let next : Instr := .migrate space (va + 65536) (size - 65536)
      match s.pte? space va with
      | none => .wait s next 0
      | some (a, e) =>
        let die := 1 - e / 128 % 2
        let base := e / 4096 % 2 ^ 40 * 4096
        if e % 2 = 0 then .wait (s.pokeRaw a 8 (setBits 7 1 die e)) next 0
        else if e / 256 % 4 = 2 then
          (if s.forwarding space va base then .wait s same 0 else .wait (s.pokeRaw a 8 (setBits 8 2 0 e)) next 0)
        else match (s.pokeRaw a 8 (setBits 8 2 1 e)).recallPage (callAgent space) base with
          | (s, false) => .wait s same 0
          | (s, true) => match s.allocFrame die with
            | none => .done (s.pokeRaw a 8 (setBits 8 2 0 e)) clNOSPACE 0
            | some (f, s) => .wait ((s.movePage base f).pokeRaw a 8 (setBits 7 1 die (setBits 8 2 2 (setBits 12 40 (f / 4096) e)))) same 0

/-! ## Pagers (R345) -/

/-- REGPAGER (R345): an overlapping registration is refused. -/
def execRegpager (space va size proc : Nat) (s : State) : Host.Outcome State Fault Refusal :=
  s.call (.regpager space va size proc) fun _ s =>
    if !rangeOk va size || (s.space space).pagers.any fun p => p.1 < va + size && va < p.1 + p.2.1 then .invalid s
    else .done (s.updSpace space fun x => { x with pagers := x.pagers ++ [(va, size, proc)] }) clOK 0

/-- The launches that wait for an upcall's page fail with LEASEOUT (R345), under a drain or not. -/
def State.upcallFails (s : State) (u : Upcall) (status : Nat) : State :=
  let s := s.updRes fun r => { r with upcalls := r.upcalls.filter fun x => x.token != u.token }
  ((s.res.launches.filter fun l => l.2.ready && !l.2.dropped && !l.2.resident && l.2.space == u.space
      && (pagesOf l.2.ranges).contains (u.va / 65536)).map fun l => l.1).foldl (fun (s : State) id =>
    s.residencyFail id codeLEASEOUT u.va 0 status) s

/-- A call that reads a range of its space at the homes (R132, R345): it waits for what the read lacks. -/
def State.callRead (s : State) (space va n : Nat) (i : Instr) (denied : Ran) (k : List Byte → Ran) : Ran :=
  match s.readSpace (callAgent space) space va n with
  | .ok bs => k bs
  | .error .denied => denied
  | .error l => .wait (s.readAsk (callAgent space) l) i 0

/-- SUPPLY (R345): the buffer is copied into a fresh frame of the page's home die, its poison with it. -/
def execSupply (space token buf status : Nat) (s : State) : Host.Outcome State Fault Refusal :=
  s.call (.supply space token buf status) fun _ s =>
    match s.res.upcalls.find? fun u => u.token == token && u.space == space with
    | none => .invalid s
    | some u =>
      if status ≠ 0 then .done (s.upcallFails u status) clOK 0
      else s.callRead space buf 65536 (.supply space token buf status) (.invalid s) fun bs =>
          match s.supplyPage space (u.va / 65536) bs with
          | none => .done s clNOSPACE 0
          | some t =>
            let bad := (List.range 2048).filter fun i => (List.range 32).any fun j => match s.pa? space (buf + 32 * i + j) with
              | some pa => s.poisoned pa 1
              | none => false
            let first := ((t.pa? space u.va).getD 0) / 32
            .done { t with
              poison := bad.foldl (fun l i => insertAsc (first + i) l) t.poison
              res := { t.res with upcalls := t.res.upcalls.filter fun x => x.token != token } } clOK 0

/-- PAGER_TIMEOUT_EXPIRY (R345). -/
def execPagerTimeoutExpiry (token : Nat) (s : State) : Host.Outcome State Fault Refusal :=
  .next (match s.res.upcalls.find? fun u => u.token == token && u.since + u.limit ≤ s.cycle with
    | some u => s.upcallFails u 0xFFFF
    | none => s)

/-- PIN (R343, R345, R348). -/
def execPin (space va size : Nat) (s : State) : Host.Outcome State Fault Refusal :=
  s.call (.pin space va size) fun _ s =>
    let ps := rangePages va size
    if !rangeOk va size || !s.mapped space va size then .invalid s
    else if s.res.upcalls.any fun u => u.space == space && ps.contains (u.va / 65536) then .done s clBUSY 0
    else
      let s := s.callIn space ps
      if ps.all fun p => s.presentPage space p then .done (s.hold space 0 ps) clOK 0
      else if s.res.upcalls.any fun u => u.space == space && ps.contains (u.va / 65536) then .done s clBUSY 0
      else .done s clNOSPACE 0

/-- UNPIN (R343, R348). -/
def execUnpin (space va size : Nat) (s : State) : Host.Outcome State Fault Refusal :=
  s.call (.unpin space va size) fun _ s =>
    if !rangeOk va size then .invalid s
    else
      let mine := (rangePages va size).filter fun p => s.res.holders.contains (space, p, 0)
      .done (mine.foldl (fun (s : State) p =>
        let rest := s.res.holders.filter (· ≠ (space, p, 0))
        let s := s.updRes fun r => { r with holders := rest }
        if implBase ≤ p * 65536 || rest.any fun h => h.1 == space && h.2.1 == p then s
        else match s.pte? space (p * 65536) with
          | some (a, e) => s.pokeRaw a 8 (setBits 2 1 0 e)
          | none => s) s) clOK 0

/-! ## Capability tables (R161, R347) -/

/-- Is an entry one that the table may hold (R347)? A queue pair must be one of the space's. -/
def State.capBodyOk (s : State) (space : Nat) : CapBody → Bool
  | .window dest dspace base len _ _ _ allow =>
    decide (dest ≤ 1023) && decide (1 ≤ dspace ∧ dspace ≤ 65535) && base % 4096 == 0 && decide (base < 2 ^ 64) && len != 0
      && len % 4096 == 0 && decide (len < 2 ^ 64) && decide (allow < 2 ^ 48)
  | .queuePair peer pqp lqp allow =>
    decide (peer ≤ 1023) && decide (pqp ≤ 4095) && decide (allow < 2 ^ 48) && (match s.qpair? lqp with
      | some q => q.space == space
      | none => false)

/-- The 32 bytes of a slot's entry (R347). -/
def Cap.bytes (c : Cap) : List Byte :=
  match c.body with
  | none => leBytes 1 0 ++ leBytes 1 c.gen ++ leBytes 30 0
  | some (.window dest sp base len r w a allow) =>
    leBytes 1 1 ++ leBytes 1 c.gen ++ leBytes 2 (bit r + 2 * bit w + 4 * bit a) ++ leBytes 2 dest ++ leBytes 2 sp ++ leBytes 8 base
      ++ leBytes 8 len ++ leBytes 6 allow ++ leBytes 2 0
  | some (.queuePair peer pqp lqp allow) =>
    leBytes 1 2 ++ leBytes 1 c.gen ++ leBytes 2 0 ++ leBytes 2 peer ++ leBytes 2 pqp ++ leBytes 8 lqp ++ leBytes 8 0 ++ leBytes 6 allow
      ++ leBytes 2 0
/-- The address of a slot's entry, where the space has a table (R347; the entries themselves are the records of State, log 100). -/
def State.capAddr (s : State) (space slot : Nat) : Option Nat := (s.space space).capTable.map (· + 32 * slot)
/-- The capability table of a space, in 2 MiB of device memory outside every space, made where it is missing (R347). -/
def State.ensureTable (s : State) (space : Nat) : Option State :=
  match (s.space space).capTable with
  | some _ => some s
  | none => (s.allocTable 512).map fun (a, s) => s.updSpace space fun x => { x with capTable := some a }
/-- CAPSET (R347, R348): the value is the handle (R158). -/
def execCapset (space slot : Nat) (body : CapBody) (s : State) : Host.Outcome State Fault Refusal :=
  s.call (.capset space slot body) fun _ s =>
    let c := s.cap space slot
    if (s.space space).capSlots ≤ slot || c.retired || !s.capBodyOk space body then .invalid s
    else if c.body.isSome then .done s clBUSY 0
    else match s.ensureTable space with
      | none => .done s clNOSPACE 0
      | some s => .done (s.updCap space slot fun c => { c with body := some body }) clOK (c.gen * 65536 + slot)

/-- Cancel the unfired entries of a queue. -/
def State.cancelUnfired (s : State) (qp : Nat) : State :=
  match s.qpair? qp with
  | some q => s.setQp qp { q with queue := q.queue.filter fun e => e.fired }
  | none => s
/-- Is a transfer that was accepted under a generation of a slot still on its way: a packet, a standard access, a collective entry, or a
`colpost` in a region queue (R161)? -/
def State.transfers (s : State) (g : Nat × Nat × Nat) : Bool :=
  s.fab.src.any (fun e => e.retry.any fun r => r.gen == some g) || s.fab.std.any (fun a => a.gen == some g)
  || s.fab.qps.any (fun (q : Nat × QPair) => q.2.queue.any fun e => e.gen == some g)
  || s.gangs.any fun x => x.2.queue.any fun c => match c.op with
      | .colpost h _ _ => acceptedBy (s.spaceOf x.2) h == some g
      | _ => false
/-- Has a queue pair an entry that it held before a position: those that had fired when its capability was revoked (R161)? -/
def State.firedBefore (s : State) (body : Option CapBody) (mark : Nat) : Bool :=
  match body with
  | some (.queuePair _ _ lqp _) => (s.qpair? lqp).any fun q => q.queue.any fun e => decide (e.pos < mark)
  | _ => false
/-- Does a revocation of a slot still wait (R161)? -/
def State.revokeWaits (s : State) (space slot mark : Nat) : Bool :=
  s.transfers (space, slot, (s.cap space slot).gen - 1) || s.firedBefore (s.cap space slot).body mark
/-- Phase 1 of a revocation: the generation advances, and the unfired entries of a queue pair go. -/
def State.revokeOne (s : State) (space slot : Nat) : State :=
  (match (s.cap space slot).body with
   | some (.queuePair _ _ lqp _) => s.cancelUnfired lqp
   | _ => s).updCap space slot fun c => { c with gen := c.gen + 1 }
/-- The position that the next entry of a slot's queue pair would take. -/
def State.nextOf (s : State) : Option CapBody → Nat
  | some (.queuePair _ _ lqp _) => ((s.qpair? lqp).map (·.nextPos)).getD 0
  | _ => 0

/-- CAPREVOKE (R161): the generation advances at once; the slot is empty, or retired, when the transfers accepted under the old one
have ended. Until then GEN 256 stands for a slot that is to be retired. -/
def execCaprevoke (space slot : Nat) (s : State) : Host.Outcome State Fault Refusal :=
  s.call (.caprevoke space slot) fun mark s =>
    let c := s.cap space slot
    if mark.isNone && ((s.space space).capSlots ≤ slot || c.retired || c.body.isNone) then .invalid s
    else
      let n := mark.getD (s.nextOf c.body)
      let s := if mark.isNone then s.revokeOne space slot else s
      if s.revokeWaits space slot n then .wait s (.caprevoke space slot) n
      else .done (s.updCap space slot fun c =>
        if 255 < c.gen then { gen := 255, retired := true, body := none } else { c with body := none }) clOK 0

/-- An allowance raised (R348). -/
def raised (allow bytes : Nat) : Nat := if allow = unlimited then allow else min (allow + bytes) (unlimited - 1)
/-- CAPALLOW (R160, R348). -/
def execCapallow (space slot bytes : Nat) (s : State) : Host.Outcome State Fault Refusal :=
  s.call (.capallow space slot bytes) fun _ s =>
    match (s.cap space slot).body with
    | some (.window d sp b l r w a allow) =>
      .done (s.updCap space slot fun c => { c with body := some (.window d sp b l r w a (raised allow bytes)) }) clOK 0
    | some (.queuePair p q l allow) => .done (s.updCap space slot fun c => { c with body := some (.queuePair p q l (raised allow bytes)) }) clOK 0
    | none => .invalid s

/-! ## Queue pairs and chunk buffers (R169) -/

/-- QPALLOC (R169, R348): the lowest free queue pair, with a counter block of its own. -/
def execQpalloc (space : Nat) (s : State) : Host.Outcome State Fault Refusal :=
  s.call (.qpalloc space) fun _ s =>
    match firstFrom (fun n => (s.qpair? n).isNone) 4096 0, s.residentPages space 256 false with
    | some n, some (va, s) =>
      let q : QPair := { space := space, queue := [], nextPos := 0, ctrs := [], refused := false, block := (s.pa? space va).getD 0,
                         blockVa := va }
      .done (s.updFab fun b => { b with qps := SMap.put b.qps n q }) clOK n
    | _, _ => .done s clNOSPACE 0

/-- A queue pair as QPRESET leaves it: no entry, every counter 0, `colpost` accepted (R176). -/
def State.resetQp (s : State) (n : Nat) (q : QPair) : State :=
  let zero : List Byte := List.replicate 128 0
  ((s.setQp n { q with queue := [], ctrs := [], refused := false }).residentWrite q.block zero).residentWrite (q.block + 128) zero

/-- QPRESET (R348): unfired entries are cancelled, and those that have fired are waited for. -/
def execQpreset (space qp : Nat) (s : State) : Host.Outcome State Fault Refusal :=
  s.call (.qpreset space qp) fun _ s =>
    match (s.cancelUnfired qp).qpair? qp with
    | none => .invalid s
    | some q =>
      if q.space ≠ space then .invalid s
      else if q.queue.isEmpty then .done (s.resetQp qp q) clOK 0
      else .wait (s.cancelUnfired qp) (.qpreset space qp) 0

/-- QPFREE (R348). -/
def execQpfree (space qp : Nat) (s : State) : Host.Outcome State Fault Refusal :=
  s.call (.qpfree space qp) fun _ s =>
    match (s.cancelUnfired qp).qpair? qp with
    | none => .invalid s
    | some q =>
      if q.space ≠ space then .invalid s
      else if (s.space space).caps.any (fun (c : Nat × Cap) => match c.2.body with
        | some (.queuePair _ _ lqp _) => lqp == qp
        | _ => false)
      then .done s clBUSY 0
      else if q.queue.isEmpty then
        .done ((s.resetQp qp q).updFab fun b => { b with qps := SMap.del b.qps qp }) clOK 0
      else .wait (s.cancelUnfired qp) (.qpfree space qp) 0

/-- CHUNKSET (R169, R348): the lowest room in the hub's 64 MiB; the allocation reads as zeros (log 3). -/
def execChunkset (space bytes : Nat) (s : State) : Host.Outcome State Fault Refusal :=
  s.call (.chunkset space bytes) fun _ s =>
    if bytes % 65536 ≠ 0 then .invalid s
    else if s.fab.qps.any (fun (q : Nat × QPair) => q.2.space == space && !q.2.queue.isEmpty) then .done s clBUSY 0
    else
      let clear (s : State) (b n : Nat) : State :=
        s.updFab fun f => { f with chunk := f.chunk.filter fun c => !(decide (b ≤ c.1) && decide (c.1 < b + n))
                                   chunkPois := f.chunkPois.filter fun w => !(decide (b ≤ 8 * w) && decide (8 * w < b + n)) }
      let s0 := s
      let s := match (s.space space).chunk with
        | some (b, n) => clear s b n
        | none => s
      if bytes = 0 then .done (s.updSpace space fun x => { x with chunk := none }) clOK 0
      else
        let used := s.res.spaces.filterMap fun (x : Nat × Space) => if x.1 = space then none else x.2.chunk
        match freeRun used bytes (2 ^ 26) 65536 with
        | some b => .done ((clear s b bytes).updSpace space fun x => { x with chunk := some (b, bytes) }) clOK 0
        | none => .done s0 clNOSPACE 0

/-! ## The translator's call (R306) -/

/-- MAPEXEC (R306, R348): the translator's object is loaded without being lowered again, and its status is that of the load. -/
def execMapexec (space va size token : Nat) (s : State) : Host.Outcome State Fault Refusal :=
  s.call (.mapexec space va size token) fun _ s =>
    if !s.res.translators.any fun t => t.token == token && t.space == space then .invalid s
    else
      let ends (st : Nat) : Ran := .done (s.endTranslator token st []) st 0
      s.callRead space va size (.mapexec space va size token) (ends ldMALFORMED) fun b =>
        match s.loadObj space b with
        | .ends st => ends st
        | .relower st _ => ends st
        | .done s hs => .done (s.endTranslator token ldOK hs) ldOK 0

end Sys2Proof.Machine
end

