-- ==== Sys2Proof/Machine/Splits.lean ====
section
/-!
DEFINITION. Divergence and reconvergence of a strand's splits: the table, deferred sets and join records (R33 to R40), and the
two events of a split that is not issuing, SPLIT_PARK and STALL_COUNT_EXPIRY (R38, R196).
-/
namespace Sys2Proof.Machine

/-! ## Entries -/

/-- The free entries of a thread, ascending. A context has one entry, which it holds. -/
def Thread.freeEntries (x : Thread) : List Nat := (List.range x.splits.length).filter fun e => !(x.split e).valid

/-- A split that starts in an entry, with the results its lanes have pending written first (R189); its signature is new (R233). -/
def Thread.startSplit (x : Thread) (e pc : Nat) (m : Mask) (top : Option Nat) (inH : Bool) (queue : List DSet) : Thread :=
  x.updSplit e fun _ =>
    { Split.reset with valid := true, pc := pc, mask := m, top := top, inH := inH, queue := queue, stall := x.drainAt m }

/-- A divided part takes an entry of its own; results pending in its lanes stay as they are (R35). -/
def Thread.branchInto (x : Thread) (e pc : Nat) (m : Mask) (top : Option Nat) (inH : Bool) : Thread :=
  x.updSplit e fun _ => { Split.reset with valid := true, pc := pc, mask := m, top := top, inH := inH }

/-- Sets go to the head of an entry's deferred queue, in their order (R37). -/
def Thread.defer (x : Thread) (e : Nat) (ds : List DSet) : Thread := x.updSplit e fun p => { p with queue := ds ++ p.queue }

/-- The record of a number. -/
def Thread.record (x : Thread) (r : Nat) : JoinRec :=
  x.recs.getD r { used := false, addr := 0, recorded := 0, parked := 0, inH := 0, count := 0, below := none }
/-- Change a record. -/
def Thread.updRec (x : Thread) (r : Nat) (f : JoinRec → JoinRec) : Thread := { x with recs := updAt x.recs r f }
/-- The member count of a top record rises (R35, R36). -/
def Thread.addMembers (x : Thread) (top : Option Nat) (n : Nat) : Thread :=
  match top with
  | some r => x.updRec r fun j => { j with count := j.count + n }
  | none => x

/-! ## Dividing -/

/-- Divide the split of an entry by a branch: the taken lanes go to the target (R35). Answers the entries made. -/
def Thread.branch (x : Thread) (e target npc : Nat) (taken : Mask) : Thread × List Nat :=
  let p := x.split e
  let rest := p.mask &&& ~~~taken
  if taken = 0 then (x.updSplit e fun p => { p with pc := npc }, [])
  else if rest = 0 then (x.updSplit e fun p => { p with pc := target }, [])
  else
    let x := (x.addMembers p.top 1).updSplit e fun p => { p with pc := npc, mask := rest }
    match x.freeEntries with
    | f :: _ => (x.branchInto f target taken p.top p.inH, [f])
    | [] => (x.defer e [{ pc := target, mask := taken, top := p.top, inH := p.inH }], [])

/-- Groups of lanes by target, ascending (R36). -/
def groupLanes (ls : List Nat) (tgt : Nat → Nat) : List (Nat × Mask) :=
  (sortAsc (ls.map tgt)).map fun t => (t, maskOf fun l => ls.contains l && tgt l == t)

/-- Divide the split of an entry by groups of targets (R36, steps 2 to 6): `gs` ascending and not empty. Answers the entries
made. -/
def Thread.divide (x : Thread) (e npc : Nat) (gs : List (Nat × Mask)) : Thread × List Nat :=
  let p := x.split e
  let rest := gs.foldl (fun m g => m &&& ~~~g.2) p.mask
  let free := x.freeEntries
  let set (g : Nat × Mask) : DSet := { pc := g.1, mask := g.2, top := p.top, inH := p.inH }
  let k := gs.length
  if rest = 0 then
    let m := min k (free.length + 1)
    let x := x.addMembers p.top (k - 1)
    let own := (gs.take (m - 1)).zip free
    let x := own.foldl (fun x g => x.branchInto g.2 g.1.1 g.1.2 p.top p.inH) x
    let x := match (gs.drop (m - 1)).head? with
      | some g => x.updSplit e fun p => { p with pc := g.1, mask := g.2 }
      | none => x
    (x.defer e ((gs.drop m).map set), own.map (·.2))
  else
    let x := (x.addMembers p.top k).updSplit e fun p => { p with pc := npc, mask := rest }
    match free.getLast? with
    | none => (x.defer e (gs.map set), [])
    | some hi =>
      let m := min k free.length
      let own := (gs.take (m - 1)).zip free
      let x := own.foldl (fun x g => x.branchInto g.2 g.1.1 g.1.2 p.top p.inH) x
      let x := match (gs.drop (m - 1)).head? with
        | some g => x.branchInto hi g.1 g.2 p.top p.inH
        | none => x
      (x.defer hi ((gs.drop m).map set), own.map (·.2) ++ [hi])

/-! ## Joining -/

/-- A join record of the split: a free one, of 16 (R34). -/
def Thread.joinat (x : Thread) (e addr : Nat) : Option Thread :=
  (x.recs.findIdx? fun r => !r.used).map fun r =>
    let p := x.split e
    (x.updRec r fun _ => { used := true, addr := addr, recorded := p.mask, parked := 0, inH := 0, count := 1, below := p.top }).updSplit e
      fun p => { p with top := some r }

/-- What the end of a membership comes to: nothing, a fused split in the entry, or a mask that differs (R38 to R40). -/
inductive Left where
  | gone (x : Thread)
  | fused (x : Thread)
  | mismatch (addr : Nat)
  deriving DecidableEq, Repr

/-- One membership of a record ends: with the last the members fuse in the entry that was freed, or, where none is left, the
membership of the record below ends too (R38, R40). The entry keeps its deferred queue. Where the last membership ends by `exit`,
the spec names no entry for the fusion: it takes the one that the exit has freed, and its queue stays behind the fused split (DESIGN
CHOICE, log 90). The fused split is in the handler where a parked lane is (R45; log 32). -/
def Thread.leaveRec (e : Nat) (queue : List DSet) : Nat → Thread → Option Nat → Left
  | 0, x, _ => .gone x
  | _, x, none => .gone x
  | n + 1, x, some r =>
    let j := x.record r
    let x := x.updRec r fun j => { j with count := j.count - 1 }
    if 1 < j.count then .gone x
    else if j.parked != j.recorded then .mismatch j.addr
    else
      let x := x.updRec r fun _ => { used := false, addr := 0, recorded := 0, parked := 0, inH := 0, count := 0, below := none }
      if j.parked = 0 then Thread.leaveRec e queue n x j.below
      else .fused (x.startSplit e j.addr j.parked j.below (j.inH != 0) queue)

/-- The head of a freed entry's queue starts in it, or it is free (R37). -/
def Thread.nextSet (x : Thread) (e : Nat) (queue : List DSet) : Thread :=
  match queue with
  | d :: r => x.startSplit e d.pc d.mask d.top d.inH r
  | [] => x.updSplit e fun _ => Split.reset

/-- The split of an entry leaves it, with one membership of its top record (R37 to R40), or the masks differ. -/
def Thread.leaveEntry (x : Thread) (e : Nat) : Sum Nat Thread :=
  let p := x.split e
  match Thread.leaveRec e p.queue 17 (x.updSplit e fun _ => Split.reset) p.top with
  | .gone x => .inr (x.nextSet e p.queue)
  | .fused x => .inr x
  | .mismatch a => .inl a

/-- The split of an entry parks in its top record (R38). -/
def Thread.park (x : Thread) (e : Nat) : Sum Nat Thread :=
  let p := x.split e
  match p.top with
  | some r => (x.updRec r fun j => { j with parked := j.parked ||| p.mask, inH := if p.inH then j.inH ||| p.mask else j.inH }).leaveEntry e
  | none => .inr x

/-- The records of a chain, from the top downward. -/
def Thread.chain (x : Thread) : Nat → Option Nat → List Nat
  | 0, _ => []
  | _, none => []
  | n + 1, some r => r :: x.chain n (x.record r).below

/-- Lanes exit: they leave the split, the recorded masks of its chain and the watch entries (R40, R126). -/
def Thread.exitLanes (x : Thread) (e : Nat) (m : Mask) : Thread :=
  let x := (x.chain 17 (x.split e).top).foldl (fun (x : Thread) r => x.updRec r fun j => { j with recorded := j.recorded &&& ~~~m }) x
  let x := x.updSplit e fun p => { p with mask := p.mask &&& ~~~m }
  { x with loupe := (x.loupe.map fun w => { w with mask := w.mask &&& ~~~m }).filter fun w => w.mask != 0 }

/-- Exited lanes wait for no data: the loads under way lose them (R40). -/
def State.exitOps (s : State) (uid : Nat) (m : Mask) : State :=
  if s.ops.isEmpty then s
  else
    let loads (o : MOp) : Bool := o.x.uid == uid && !o.block && !o.dests.isEmpty && !(match o.instr with
      | .atom .. | .atomAddS32 .. => true
      | _ => false)
    let rest := s.ops.map fun o => if loads o then { o with act := o.act &&& ~~~m, lanes := o.lanes &&& ~~~m } else o
    { s with ops := rest.filter fun o => !(loads o && o.lanes == 0) }.wakeOps ((rest.filter fun (o : MOp) => o.x.uid == uid).map MOp.id)

/-- Has no lane of the strand remained (R40)? -/
def Thread.over (x : Thread) : Bool :=
  x.splits.all (fun p => !p.valid && p.queue.isEmpty) && x.recs.all fun j => !j.used || j.parked == 0

/-! ## Consequences -/

/-- A fusion found masks that differ: SIGNET, and the work ends (R39, R363). -/
def State.maskFault (s : State) (t addr : Nat) : State :=
  s.failThread t { s.threadRec codeSIGNET t addr with addr := addr }

/-- The state after a thread's entry has been left: the strand may have ended, or its handler be free again (R40, R45, R46). -/
def State.afterLeave (s : State) (t : Nat) (r : Sum Nat Thread) : State :=
  match r with
  | .inl addr => s.maskFault t addr
  | .inr x =>
    if x.over then ((s.setThread t x).endThread t).gangCheck x.gang
    else (s.setThread t x).handlerFree t

/-! ## Events -/

/-- May a split park: it is about to issue at the join address of its top record (R38)? -/
def Thread.parks (x : Thread) (e : Nat) : Bool :=
  let p := x.split e
  p.valid && p.wait.isNone && p.held.isNone && !x.seq
  && (match p.top with
      | some r => (x.record r).addr == p.pc
      | none => false)

/-- SPLIT_PARK (R38); the scope check of a wake-up still to report comes first (R117). -/
def execSplitPark (t e : Nat) (s : State) : Host.Outcome State Fault Refusal :=
  .next (match s.thread? t with
    | none => s
    | some x =>
      if !x.parks e then s
      else match (if s.trapsMix x.launch then (x.split e).mix else none) with
        | some (va, r, a, pc) => s.failThread t { s.threadRec codeSCOPEMIX t pc with addr := va, info := r, aux0 := a }
        | none => (s.reportWake t e).afterLeave t (x.park e))

/-- STALL_COUNT_EXPIRY (R196): the split may issue again. -/
def execStallCountExpiry (t e : Nat) (s : State) : Host.Outcome State Fault Refusal :=
  .next (s.updSplit t e fun p => if p.stall ≤ s.cycle then { p with stall := 0 } else p)

end Sys2Proof.Machine
end

