-- ==== Sys2Proof/Machine/Control.lean ====
section
/-!
DEFINITION. Branches, calls, joins, exits, the trap handler's instructions, window and region, signatures, named barriers,
streams, placeholders and copies of a strand (R225 to R238).
-/
namespace Sys2Proof.Machine

/-! ## Targets -/

/-- The address a number of words from the instruction's own (R198, R225). -/
def Ctx.label {w : Nat} (c : Ctx) (disp : BitVec w) : Nat := wrap 48 ((c.pc : Int) + 4 * disp.toInt)
/-- The address of a `brx` table: a byte displacement from the instruction's word (R195, R226). -/
def Ctx.tableAt (c : Ctx) (ext : BitVec 32) : Nat := wrap 48 ((c.pc : Int) + ext.toInt)
/-- TARGET at an address (R197). -/
def targetFault (a : Nat) : Done := .fault { code := codeTARGET, addr := a }

/-- A transfer of the participating lanes to one target (R35, R225). -/
def branchTo (c : Ctx) (target : Nat) (m : Mask) (s : State) : Done :=
  match s.thread? c.t with
  | some x => let (x, made) := x.branch c.e target c.npc m; .jump (s.setThread c.t x) made (m != c.act)
  | none => .fall s
/-- A transfer of lanes to their own targets (R36). -/
def divideTo (c : Ctx) (ls : List Nat) (tgt : Nat → Nat) (s : State) : Done :=
  if ls.isEmpty then .fall s
  else match s.thread? c.t with
    | some x =>
      let (x, made) := x.divide c.e c.npc (groupLanes ls tgt)
      .jump (s.setThread c.t x) made ((groupLanes ls tgt).foldl (fun m g => m &&& ~~~g.2) c.act != 0)
    | none => .fall s

/-! ## Branches (R225 to R228) -/

/-- `bra` (R225). -/
def execBra (pg : Guard) (disp : BitVec 21) (s : State) : Host.Outcome State Fault Refusal :=
  issue (.bra pg disp) s fun c s =>
    let a := c.label disp
    if !s.isCode c.x a then targetFault a else c.afterTarget (.bra pg disp) (branchTo c a c.lanes s)

/-- A table entry, read through the instruction path (R226). -/
def State.tableEntry (s : State) (space va : Nat) : Option Nat := (s.pa? space va).map fun pa => Memory.le s.mem pa 4
/-- Is a table entry poisoned, which the read of it consumes (R354)? -/
def State.tableBad (s : State) (space va : Nat) : Bool := (s.pa? space va).any fun pa => s.poisoned pa 4

/-- `brx` (R36, R226): TARGET for the lanes in range, by the entries that are there; then poison that it reads; then PERM for an entry
whose page is absent, as of a fetch, and POISON for one that is poisoned; then BRXRANGE (R216; log 80). -/
def execBrx (pg : Guard) (a : Reg) (n1 : BitVec 12) (tab : BitVec 32) (s : State) : Host.Outcome State Fault Refusal :=
  issue (.brx pg a n1 tab) s fun c s =>
    let n := n1.toNat + 1
    let ls := lanesOf c.lanes
    let good := ls.filter fun l => (c.x.get a l).toNat < n
    let ent (l : Nat) : Nat := (c.tableAt tab + 4 * (c.x.get a l).toNat) % 2 ^ 48
    let tgt (l : Nat) : Nat := ((s.textOf c.x).1 + (s.tableEntry c.x.space (ent l)).getD 0) % 2 ^ 48
    let there := good.filter fun l => (s.tableEntry c.x.space (ent l)).isSome && !s.tableBad c.x.space (ent l)
    match there.find? fun l => !s.isCode c.x (tgt l) with
    | some l => targetFault (tgt l)
    | none => c.afterTarget (.brx pg a n1 tab) <|
      match good.find? fun l => (s.tableEntry c.x.space (ent l)).isNone, good.find? fun l => s.tableBad c.x.space (ent l) with
      | some l, _ => .fault { code := codePERM, addr := ent l, info := 1 }
      | none, some l => .failed (s.markPois c.x.space (ent l)) { code := codePOISON, addr := s.sectorPa c.x.space (ent l) 4 }
      | none, none =>
        if good.length < ls.length then
          .fault { code := codeBRXRANGE, info := (maskOf fun l => hasLane c.lanes l && n ≤ (c.x.get a l).toNat).toNat }
        else divideTo c ls tgt s

/-- The first register of the link pair, as a destination (R227). -/
def Ctx.link (c : Ctx) (i : Nat) : PDst := if c.x.seq then .k (20 + i) else .v (c.x.winBase + 30 + i)
/-- The link pair's value in a lane. -/
def Ctx.linkAt (c : Ctx) (l : Nat) : Nat :=
  let r (i : Nat) : Word := if c.x.seq then c.x.kreg (20 + i) else c.x.vreg (c.x.winBase + 30 + i) l
  (r 0).toNat + 2 ^ 32 * ((r 1).toNat % 65536)

/-- `call` (R227). -/
def execCall (pg : Guard) (disp : BitVec 21) (s : State) : Host.Outcome State Fault Refusal :=
  issue (.call pg disp) s fun c s =>
    let a := c.label disp
    if !s.isCode c.x a then targetFault a
    else c.afterTarget (.call pg disp) <|
      let s := (s.write c 0 (c.link 0) c.lanes fun _ => BitVec.ofNat 32 c.npc).writeHi c 0 (c.link 1) c.lanes
        fun _ => BitVec.ofNat 32 (c.npc / 2 ^ 32)
      branchTo c a c.lanes s

/-- `ret` (R227). -/
def execRet (pg : Guard) (s : State) : Host.Outcome State Fault Refusal :=
  issue (.ret pg) s fun c s =>
    match (lanesOf c.lanes).find? fun l => !s.isCode c.x (c.linkAt l) with
    | some l => targetFault (c.linkAt l)
    | none => c.afterTarget (.ret pg) (divideTo c (lanesOf c.lanes) c.linkAt s)

/-- `joinat` (R34, R228). -/
def execJoinat (disp : BitVec 21) (s : State) : Host.Outcome State Fault Refusal :=
  issue (.joinat disp) s fun c s =>
    let a := c.label disp
    if !s.isCode c.x a then targetFault a
    else match (s.thread? c.t).bind fun x => x.joinat c.e a with
      | some x => .fall (s.setThread c.t x)
      | none => .fault { code := codeJOINDEPTH }

/-- `exit` (R40, R228): a context ends its stream (R77). -/
def execExit (pg : Guard) (s : State) : Host.Outcome State Fault Refusal :=
  issue (.exit pg) s fun c s =>
    if c.lanes = 0 then .fall s
    else if c.x.seq then .ends ((s.endThread c.t).gangCheck c.x.gang)
    else match s.thread? c.t with
      | none => .fall s
      | some x =>
        let y := x.exitLanes c.e c.lanes
        let s := s.exitOps x.uid c.lanes
        if (y.split c.e).mask = 0 then .ends (s.afterLeave c.t (y.leaveEntry c.e)) else .fall (s.setThread c.t y)

/-! ## The handler, yielding, nothing (R229, R230) -/

/-- `trap` (R229). -/
def execTrap (pg : Guard) (imm : BitVec 16) (s : State) : Host.Outcome State Fault Refusal :=
  issue (.trap pg imm) s fun c s =>
    if c.lanes = 0 then .fall s else .fault { code := codeTRAPINSN, pc := some c.npc, info := imm.toNat }
/-- `eret` (R46, R229): outside the handler it is illegal, where a lane participates. -/
def execEret (pg : Guard) (s : State) : Host.Outcome State Fault Refusal :=
  issue (.eret pg) s fun c s => if c.lanes = 0 then .fall s else .jump (s.returnHandler c.t c.e) [] false
/-- `yield` (R230). -/
def execYield (pg : Guard) (s : State) : Host.Outcome State Fault Refusal :=
  issue (.yield pg) s fun c s =>
    if c.lanes = 0 then .fall s
    else if c.x.seq then .fall (s.setCluster c.x.clus { s.cluster c.x.clus with pass := some c.x.slot })
    else .fall (s.updThread c.t fun x => { x with yielding := true })
/-- `nop` (R230). -/
def execNop (pg : Guard) (s : State) : Host.Outcome State Fault Refusal :=
  issue (.nop pg) s fun _ s => .fall s

/-! ## Window and region (R231, R232) -/

/-- A strand's region ends, and its place in the operand buffer is free (R25). -/
def State.endRegion (s : State) (t : Nat) : State :=
  match s.thread? t with
  | some x =>
    let s := if x.staged then s.setQuad (t / 16) { s.quad (t / 16) with places := (s.quad (t / 16)).places - 1 } else s
    s.setThread t { x with region := none, staged := false }
  | none => s

/-- `winb` (R17, R231). -/
def execWinb (pg : Guard) (n : BitVec 4) (s : State) : Host.Outcome State Fault Refusal :=
  issue (.winb pg n) s fun c s =>
    if c.lanes = 0 then .fall s
    else if c.x.regs ≤ 32 * n.toNat then .fault { code := codeREGRANGE, info := 32 * n.toNat }
    else .fall ((s.endRegion c.t).updThread c.t fun x => { x with winBase := 32 * n.toNat })

/-- The register number of a range field. -/
def rangeFirst (f : Reg) : Nat :=
  match f with
  | .v n => n.val
  | _ => 0
/-- The absolute index of the lowest register of a range that fails its bound (R25, R351). -/
def Ctx.rangeBad (c : Ctx) (f : Reg) (len : Nat) : Option Nat :=
  (((List.range len).map (· + rangeFirst f)).find? fun r => 96 ≤ r || c.x.regs ≤ c.x.winBase + r).map (· + c.x.winBase)

/-- `rgn` (R25, R232): at most four strands of a quadrant have their regions staged. -/
def execRgn (f1 : Reg) (l1 : BitVec 6) (f2 : Reg) (l2 : BitVec 5) (s : State) : Host.Outcome State Fault Refusal :=
  issue (.rgn f1 l1 f2 l2) s fun c s =>
    match c.rangeBad f1 l1.toNat, c.rangeBad f2 l2.toNat with
    | some n, _ => .fault { code := codeREGRANGE, info := n }
    | none, some n => .fault { code := codeREGRANGE, info := n }
    | none, none =>
      let s := s.endRegion c.t
      if l1 = 0 ∧ l2 = 0 then .fall s
      else
        let q := s.quad (c.t / 16)
        let room : Bool := q.places < 4
        let s := if room then s.setQuad (c.t / 16) { q with places := q.places + 1 } else s
        .fall (s.updThread c.t fun x => { x with
          region := some (x.winBase + rangeFirst f1, l1.toNat, x.winBase + rangeFirst f2, l2.toNat), staged := room })

/-! ## Signatures (R233) -/

/-- `sigchk` (R233, R363). -/
def execSigchk (imm : BitVec 16) (s : State) : Host.Outcome State Fault Refusal :=
  issue (.sigchk imm) s fun c s =>
    if s.signetOn c.x.launch && c.sp.sig != imm then .fault { code := codeSIGNET, info := c.sp.sig.toNat + 65536 * imm.toNat }
    else .fall s

/-! ## Named barriers (R234) -/

/-- A barrier as a group starts it. -/
def Bar.reset : Bar := { arr := 0, cnt := 0, ph := false }
/-- The number on its core of a group's barrier, its group's first barrier plus x. -/
def State.barKey (s : State) (x : Thread) (n : Nat) : Nat :=
  ((s.gang? x.gang).bind fun g => g.groups[x.group]?.map fun p => p.bars + n).getD n
/-- A barrier of a strand's group. -/
def State.barOf (s : State) (x : Thread) (n : Nat) : Bar := SMap.getD (s.core x.cid).bars (s.barKey x n) Bar.reset
/-- Replace it. -/
def State.setBar (s : State) (x : Thread) (n : Nat) (b : Bar) : State :=
  s.updCore x.cid fun c => { c with bars := SMap.set Bar.reset c.bars (s.barKey x n) b }

/-- The waits on a barrier that its phase has ended: the splits resume, and AV is cleared (R234). -/
def State.wakeBar (s : State) (x : Thread) (n : Nat) : State :=
  let ph := (s.barOf x n).ph
  (s.threads.filter fun t => !t.2.seq && t.2.gang == x.gang && t.2.group == x.group).foldl (fun (s : State) (t, y) =>
    (List.range 4).foldl (fun (s : State) e =>
      if (y.split e).valid && (y.split e).wait == some (.bar n (!ph)) then
        (s.resume t e).updThread t fun z => { z with av := z.av &&& ~~~((1 : BitVec 32) <<< n) }
      else s) s) s

/-- An arrival (R234): ARR, CNT and PH of the barrier, AP and AV of the strand. -/
def State.barArrive (s : State) (c : Ctx) (n : Nat) (b : Word) : State :=
  let old := s.barOf c.x n
  let cnt := if old.arr = 0 then max (b.toNat % 4096) 1 else old.cnt
  let s := s.updThread c.t fun x => { x with
    av := x.av ||| ((1 : BitVec 32) <<< n), ap := if old.ph then x.ap ||| ((1 : BitVec 32) <<< n) else x.ap &&& ~~~((1 : BitVec 32) <<< n) }
  if old.arr + 1 = cnt then s.setBar c.x n { arr := 0, cnt := cnt, ph := !old.ph }
  else s.setBar c.x n { old with arr := old.arr + 1, cnt := cnt }

/-- A wait (R234): it ends at once where the phase has already passed its target. -/
def State.barWait (s : State) (c : Ctx) (n : Nat) : State :=
  match s.thread? c.t with
  | none => s
  | some x =>
    let ph := (s.barOf c.x n).ph
    let target := if x.av.getLsbD n then x.ap.getLsbD n else ph
    if ph != target then s.setThread c.t { x with av := x.av &&& ~~~((1 : BitVec 32) <<< n) }
    else s.updSplit c.t c.e fun p => { p with wait := some (.bar n target) }

/-- The barrier that an instruction names, uniform (R234). -/
def Ctx.barNo (c : Ctx) (a : Reg) : Nat := (c.x.get a (lowLane c.lanes)).toNat

/-- `bar.arv` (R234): it waits for the watches of the split's lanes; group scope takes no cache action. -/
def execBarArv (pg : Guard) (a b : Reg) (s : State) : Host.Outcome State Fault Refusal :=
  issue (.barArv pg a b) s fun c s =>
    if c.lanes = 0 then .fall s
    else relBefore c (some .grp) c.act c.part s fun s _ =>
      .fall ((s.barArrive c (c.barNo a) (c.x.get b (lowLane c.lanes))).wakeBar c.x (c.barNo a))
/-- `bar.wait` (R234). -/
def execBarWait (pg : Guard) (a : Reg) (s : State) : Host.Outcome State Fault Refusal :=
  issue (.barWait pg a) s fun c s => if c.lanes = 0 then .fall s else .fall (s.barWait c (c.barNo a))
/-- `bar.sync` (R234): an arrival, then a wait; the waits that the arrival ends come last, since they clear AV. -/
def execBarSync (pg : Guard) (a b : Reg) (s : State) : Host.Outcome State Fault Refusal :=
  issue (.barSync pg a b) s fun c s =>
    if c.lanes = 0 then .fall s
    else relBefore c (some .grp) c.act c.part s fun s _ =>
      .fall (((s.barArrive c (c.barNo a) (c.x.get b (lowLane c.lanes))).barWait c (c.barNo a)).wakeBar c.x (c.barNo a))

/-! ## Streams (R235, R236) -/

/-- A stream read from its 48-byte block (R235), or none where a reserved field or an extent is wrong. -/
def streamOf (ndim x : Nat) : Option Stream :=
  let base := x % 2 ^ 64
  let ext (j : Nat) : Nat := x / 2 ^ (64 + 64 * j) % 2 ^ 32
  let str (j : Nat) : Word := BitVec.ofNat 32 (x / 2 ^ (96 + 64 * j))
  if base / 2 ^ 48 ≠ 0 ∨ x / 2 ^ 320 % 2 ^ 64 ≠ 0 ∨ (List.range (ndim + 1)).any (fun j => ext j == 0) then none
  else some { base := base, ndim := ndim, ext := (List.range 4).map ext, str := (List.range 4).map str, idx := [0, 0, 0, 0],
              ended := [false, false, false, false] }

/-- Bind or replace a stream. -/
def State.setStream (s : State) (t n : Nat) (g : Stream) : State :=
  s.updThread t fun x => { x with streams := setAt x.streams n (some g) }

/-- `gbind` (R235): the block is read as `ldk` reads, in three parts of 16 bytes. -/
def execGbind (pg : Guard) (n : Fin 8) (a : Reg) (s : State) : Host.Outcome State Fault Refusal :=
  issue (.gbind pg n a) s fun c s =>
    if c.lanes = 0 then .fall s
    else
      let one : Ctx := { c with lanes := 1 <<< lowLane c.lanes }
      let d := c.x.get64 a (lowLane c.lanes)
      let blk := (d.extractLsb' 0 48).toNat
      let ndim := (d.extractLsb' 48 2).toNat
      match ([blk, blk + 16, blk + 32].filterMap fun p => s.gcheck one (fun _ => BitVec.ofNat 64 p) 16 16 .load).head? with
      | some f => .fault f
      | none =>
        let three : Ctx := { c with lanes := 7 }
        goAccess three 16 (fun l => blk + 16 * l) false (fun s r => s.getShared c.x.cid c.op r)
          (readLanes three 16 (fun l => blk + 16 * l) none) c.part s fun s p =>
            match p.bad with
            | some va => s.consumed c va 16
            | none =>
              let x := (List.range 3).foldr (fun i r => SMap.getD p.vals i 0 + 2 ^ 128 * r) 0
              match (if d.extractLsb' 50 14 != 0 then none else streamOf ndim x) with
              | some g => .fall (s.setStream c.t n.val g)
              | none => .failed s { code := codeSTREAM, info := n.val }

/-- STREAM for a stream that a field names without reading it, where it is not bound (R236). -/
def Ctx.bound (c : Ctx) (n : Fin 8) : Option Stream := c.x.streams.getD n.val none

/-- `gstat` (R236). -/
def execGstat (pg : Guard) (pd n : Fin 8) (s : State) : Host.Outcome State Fault Refusal :=
  issue (.gstat pg pd n) s fun c s =>
    match c.bound n with
    | none => .fault { code := codeSTREAM, info := n.val }
    | some g => .fall ((List.range 4).foldl (fun s j =>
        s.write c 0 (.p (pd.val + j)) c.lanes fun _ => if j ≤ g.ndim && g.ended.getD j false then 1 else 0) s)

/-- `gloop` (R236): the end flag is cleared and no lane branches, so that no label is checked; else the participating lanes branch as by
`bra`. -/
def execGloop (pg : Guard) (n : Fin 8) (dim : BitVec 2) (disp : BitVec 16) (s : State) : Host.Outcome State Fault Refusal :=
  issue (.gloop pg n dim disp) s fun c s =>
    let a := c.label disp
    match c.bound n with
    | none => .fault { code := codeSTREAM, info := n.val }
    | some g =>
      if g.ndim < dim.toNat then .fault { code := codeSTREAM, info := n.val }
      else if g.ended.getD dim.toNat false then
        c.afterTarget (.gloop pg n dim disp) (.fall (s.setStream c.t n.val { g with ended := setAt g.ended dim.toNat false }))
      else if !s.isCode c.x a then targetFault a
      else c.afterTarget (.gloop pg n dim disp) (branchTo c a c.lanes s)

/-! ## Placeholders and copies (R83, R237, R238) -/

/-- Does a split that waits at an instruction leave a bundle which marks its strand yielding only when it resumes at a label (R194)? -/
def Ctx.leavesAt (c : Ctx) (lab : Nat) : Bool := c.yh && lab / 32 != c.pc / 32 && c.npc / 32 == c.pc / 32
/-- The split resumes at a label at once, when its lanes' pending results have been written (R189, R237, R238). -/
def Ctx.resumeNow (c : Ctx) (lab : Nat) (s : State) : State :=
  s.updSplit c.t c.e fun p => { p with pc := lab, stall := max p.stall (c.x.drainAt p.mask) }

/-- `rgwait` (R83, R237): the split waits until the earliest matching placeholder of its group is ready, and resumes at the
label. -/
def execRgwait (pg : Guard) (a : Reg) (disp : BitVec 14) (s : State) : Host.Outcome State Fault Refusal :=
  issue (.rgwait pg a disp) s fun c s =>
    let lab := c.label disp
    if c.lanes = 0 then .fall s
    else if !s.isCode c.x lab then targetFault lab
    else c.afterTarget (.rgwait pg a disp) <|
      let d := c.x.get64 a (lowLane c.lanes)
      if ((s.gang? c.x.gang).bind fun g => g.placeholder? c.x.group d).any fun q => q.started then
        .jump ((c.resumeNow lab s).acquireAt c .cls) [] false
      else .fall (s.updSplit c.t c.e fun p => { p with wait := some (.region d lab (c.leavesAt lab)) })

/-- `rgdone` (R83, R237). -/
def execRgdone (pg : Guard) (a : Reg) (s : State) : Host.Outcome State Fault Refusal :=
  issue (.rgdone pg a) s fun c s =>
    if c.lanes = 0 then .fall s
    else relBefore c (some .cls) c.act c.part s fun s _ =>
      let d := c.x.get64 a (lowLane c.lanes)
      match (s.gang? c.x.gang).bind fun g => ((g.placeholder? c.x.group d).filter fun q => q.started).map fun q => (g, q) with
      | some (g, q) =>
        let s := s.setGang c.x.gang { g with queue := g.queue.map fun y => if y.id = q.id then { y with count := y.count + 1 } else y }
        .fall ((s.queueSettle c.x.gang).gangCheck c.x.gang)
      | none => .failed s { code := codeREGION, info := (d.extractLsb' 0 32).toNat }

/-- The first faulting address of a source range under the checks of `ld`, 16 bytes at a time (R238). -/
def State.rangeCheck (s : State) (c : Ctx) (src : Nat) : Nat → Option FInfo
  | 0 => none
  | n + 1 =>
    match s.gcheck { c with lanes := 1 <<< lowLane c.lanes } (fun _ => BitVec.ofNat 64 src) 16 16 .load with
    | some f => some f
    | none => s.rangeCheck c (src + 16) n

/-- `cpy.y` (R238): the split waits, and the copy lands later (COPY_LANDED); with nothing to copy it resumes at the label. -/
def execCpyY (pg : Guard) (d a b : Reg) (lab : BitVec 32) (s : State) : Host.Outcome State Fault Refusal :=
  issue (.cpyY pg d a b lab) s fun c s =>
    let label := c.label lab
    if c.lanes = 0 then .fall s
    else if !s.isCode c.x label then targetFault label
    else c.afterTarget (.cpyY pg d a b lab) <|
      let l := lowLane c.lanes
      let dst := (c.x.get d l).toNat
      let src := (c.x.get64 a l).toNat
      let len := (c.x.get b l).toNat
      if dst % 16 ≠ 0 ∨ src % 16 ≠ 0 ∨ len % 16 ≠ 0 then
        .fault { code := codeALIGN, addr := if dst % 16 ≠ 0 then dst else if src % 16 ≠ 0 then src else len, info := c.lanes.toNat }
      else if !s.scratchOk c.x dst len then .fault { code := codeSCRATCHRANGE, addr := dst }
      else match s.rangeCheck c src (len / 16) with
        | some f => .fault f
        | none =>
          if len = 0 then .jump (c.resumeNow label s) [] false
          else .fall (s.updSplit c.t c.e fun p => { p with wait := some (.copy dst src len label c.pc (c.leavesAt label)) })

/-- A word that is no instruction raises ILLEGAL with the word (R215, R351). -/
def execIllegal (w : Word) (s : State) : Host.Outcome State Fault Refusal :=
  issue (.illegal w) s fun _ _ => .fault { code := codeILLEGAL, info := w.toNat }

end Sys2Proof.Machine
end

