-- ==== Sys2Proof/Machine/Float.lean ====
section
/-!
DEFINITION. The floating-point instructions (R239 to R249).
-/
namespace Sys2Proof.Machine

/-! ## Shapes -/

/-- An FP32 result of class C from a and b, under the control word read at the issue (R240, R249). -/
def float2 (f : RMode → Bool → Nat → Nat → Nat) (d a b : Reg) (c : Ctx) (s : State) : Done :=
  .fall (s.put c 6 d fun l => BitVec.ofNat 32 (f c.x.rm c.x.ftz (c.x.get a l).toNat (c.x.get b l).toNat))
/-- A result of a latency from a alone, as an encoding. -/
def float1 (lat : Nat) (f : Nat → Nat) (d a : Reg) (c : Ctx) (s : State) : Done :=
  .fall (s.put c lat d fun l => BitVec.ofNat 32 (f (c.x.get a l).toNat))
/-- A correctly rounded function of a: class V, to nearest even, without flush (R247). -/
def floatFn (f : FVal → Nat) (d a : Reg) (c : Ctx) (s : State) : Done := float1 0 (fun x => f (fp32.value x)) d a c s
/-- The two elements of packed halves, each on its own (R61, R248). -/
def halves (f : Nat → Nat → Nat) (a b : Word) : Word :=
  BitVec.ofNat 32 (f (a.toNat % 65536) (b.toNat % 65536) + 65536 * f (a.toNat / 65536) (b.toNat / 65536))
/-- The element format of a packed-half instruction. -/
def halfFmt (bf : Bool) : FFmt := if bf then bf16 else fp16
/-- A packed-half result of class C (R248). -/
def half2 (bf : Bool) (f : FFmt → RMode → Bool → Nat → Nat → Nat) (d a b : Reg) (c : Ctx) (s : State) : Done :=
  .fall (s.put c 6 d fun l => halves (f (halfFmt bf) c.x.rm c.x.ftz) (c.x.get a l) (c.x.get b l))

/-- `fscale`: a × 2^b (R240, R241). -/
def fscaleBits (mode : RMode) (ftz : Bool) (a : Nat) (b : Word) : Nat :=
  fp32.flush ftz (fp32.round mode false ((fp32.value (fp32.flush ftz a)).scale b.toInt))
/-- `frint` by a mode (R245). -/
def frintBits (mode : RMode) (ftz : Bool) (a : Nat) : Nat := fp32.round mode false ((fp32.value (fp32.flush ftz a)).toIntegral mode)

/-! ## FP32 arithmetic (R240 to R246) -/

/-- `fadd` (R240, R241). -/
def execFadd (pg : Guard) (d a b : Reg) (s : State) : Host.Outcome State Fault Refusal :=
  issue (.fadd pg d a b) s (float2 (fun m z x y => fp32.op m z (FVal.add m) x y) d a b)
/-- `fsub`: a + (−b) (R240). -/
def execFsub (pg : Guard) (d a b : Reg) (s : State) : Host.Outcome State Fault Refusal :=
  issue (.fsub pg d a b) s (float2 (fun m z x y => fp32.op m z (fun u v => FVal.add m u v.negate) x y) d a b)
/-- `fmul` (R240). -/
def execFmul (pg : Guard) (d a b : Reg) (s : State) : Host.Outcome State Fault Refusal :=
  issue (.fmul pg d a b) s (float2 (fun m z x y => fp32.op m z FVal.mul x y) d a b)
/-- `ffma`: one rounding of a × b + d (R240). -/
def execFfma (pg : Guard) (d a b : Reg) (s : State) : Host.Outcome State Fault Refusal :=
  issue (.ffma pg d a b) s fun c s =>
    .fall (s.put c 6 d fun l =>
      BitVec.ofNat 32 (fp32.fma c.x.rm c.x.ftz (c.x.get a l).toNat (c.x.get b l).toNat (c.x.get d l).toNat))
/-- `fdiv`: class V (R240). -/
def execFdiv (pg : Guard) (d a b : Reg) (s : State) : Host.Outcome State Fault Refusal :=
  issue (.fdiv pg d a b) s fun c s =>
    .fall (s.put c 0 d fun l => BitVec.ofNat 32 (fp32.op c.x.rm c.x.ftz FVal.div (c.x.get a l).toNat (c.x.get b l).toNat))
/-- `sqrt`: class V (R240). -/
def execSqrt (pg : Guard) (d a : Reg) (s : State) : Host.Outcome State Fault Refusal :=
  issue (.sqrt pg d a) s fun c s =>
    .fall (s.put c 0 d fun l => BitVec.ofNat 32
      (fp32.flush c.x.ftz (fp32.round c.x.rm false (fp32.value (fp32.flush c.x.ftz (c.x.get a l).toNat)).sqrt)))
/-- `fscale` (R240, R241). -/
def execFscale (pg : Guard) (d a b : Reg) (s : State) : Host.Outcome State Fault Refusal :=
  issue (.fscale pg d a b) s fun c s =>
    .fall (s.put c 6 d fun l => BitVec.ofNat 32 (fscaleBits c.x.rm c.x.ftz (c.x.get a l).toNat (c.x.get b l)))
/-- `fmin` (R242). -/
def execFmin (pg : Guard) (d a b : Reg) (s : State) : Host.Outcome State Fault Refusal :=
  issue (.fmin pg d a b) s (float2 (fun _ z x y => fp32.pick z false x y) d a b)
/-- `fmax` (R242). -/
def execFmax (pg : Guard) (d a b : Reg) (s : State) : Host.Outcome State Fault Refusal :=
  issue (.fmax pg d a b) s (float2 (fun _ z x y => fp32.pick z true x y) d a b)
/-- `fabs`: class A (R243). -/
def execFabs (pg : Guard) (d a : Reg) (s : State) : Host.Outcome State Fault Refusal :=
  issue (.fabs pg d a) s (float1 2 (fun x => if fp32.isNan x then fp32.nan else fp32.mag x) d a)
/-- `fneg`: class A (R243). -/
def execFneg (pg : Guard) (d a : Reg) (s : State) : Host.Outcome State Fault Refusal :=
  issue (.fneg pg d a) s (float1 2 (fun x => if fp32.isNan x then fp32.nan else fp32.signed (!fp32.neg x) (fp32.mag x)) d a)
/-- `fcmp` (R244). -/
def execFcmp (cc : FCmp) (pg : Guard) (pd : Fin 8) (a b : Reg) (s : State) : Host.Outcome State Fault Refusal :=
  issue (.fcmp cc pg pd a b) s fun c s =>
    .fall (s.putP c 6 pd fun l => fcmpHolds cc c.x.ftz (c.x.get a l).toNat (c.x.get b l).toNat)
/-- `frint` (R245): by its suffix, or by the control word. -/
def execFrint (rm : Option RMode) (pg : Guard) (d a : Reg) (s : State) : Host.Outcome State Fault Refusal :=
  issue (.frint rm pg d a) s fun c s =>
    .fall (s.put c 6 d fun l => BitVec.ofNat 32 (frintBits (rm.getD c.x.rm) c.x.ftz (c.x.get a l).toNat))
/-- `fclass` (R246). -/
def execFclass (pg : Guard) (d a : Reg) (s : State) : Host.Outcome State Fault Refusal :=
  issue (.fclass pg d a) s fun c s =>
    .fall (s.put c 6 d fun l => BitVec.ofNat 32 (2 ^ classBit c.x.ftz (c.x.get a l).toNat))

/-! ## Correctly rounded functions (R247) -/

/-- `rcp` (R247). -/
def execRcp (pg : Guard) (d a : Reg) (s : State) : Host.Outcome State Fault Refusal :=
  issue (.rcp pg d a) s (floatFn fRcp d a)
/-- `rsq` (R247). -/
def execRsq (pg : Guard) (d a : Reg) (s : State) : Host.Outcome State Fault Refusal :=
  issue (.rsq pg d a) s (floatFn fRsq d a)
/-- `exp2` (R247). -/
def execExp2 (pg : Guard) (d a : Reg) (s : State) : Host.Outcome State Fault Refusal :=
  issue (.exp2 pg d a) s (floatFn fExp2 d a)
/-- `log2` (R247). -/
def execLog2 (pg : Guard) (d a : Reg) (s : State) : Host.Outcome State Fault Refusal :=
  issue (.log2 pg d a) s (floatFn fLog2 d a)
/-- `sinpi` (R247). -/
def execSinpi (pg : Guard) (d a : Reg) (s : State) : Host.Outcome State Fault Refusal :=
  issue (.sinpi pg d a) s (floatFn fSinpi d a)
/-- `cospi` (R247). -/
def execCospi (pg : Guard) (d a : Reg) (s : State) : Host.Outcome State Fault Refusal :=
  issue (.cospi pg d a) s (floatFn fCospi d a)
/-- `tanh` (R247). -/
def execTanh (pg : Guard) (d a : Reg) (s : State) : Host.Outcome State Fault Refusal :=
  issue (.tanh pg d a) s (floatFn fTanh d a)

/-! ## Packed halves (R248) -/

/-- `hadd2` (R248). -/
def execHadd2 (bf : Bool) (pg : Guard) (d a b : Reg) (s : State) : Host.Outcome State Fault Refusal :=
  issue (.hadd2 bf pg d a b) s (half2 bf (fun f m z x y => f.op m z (FVal.add m) x y) d a b)
/-- `hmul2` (R248). -/
def execHmul2 (bf : Bool) (pg : Guard) (d a b : Reg) (s : State) : Host.Outcome State Fault Refusal :=
  issue (.hmul2 bf pg d a b) s (half2 bf (fun f m z x y => f.op m z FVal.mul x y) d a b)
/-- `hfma2`: d is read, one rounding (R248). -/
def execHfma2 (bf : Bool) (pg : Guard) (d a b : Reg) (s : State) : Host.Outcome State Fault Refusal :=
  issue (.hfma2 bf pg d a b) s fun c s =>
    .fall (s.put c 6 d fun l =>
      let g (i : Nat) : Nat :=
        (halfFmt bf).fma c.x.rm c.x.ftz ((c.x.get a l).toNat / 65536 ^ i % 65536) ((c.x.get b l).toNat / 65536 ^ i % 65536)
          ((c.x.get d l).toNat / 65536 ^ i % 65536)
      BitVec.ofNat 32 (g 0 + 65536 * g 1))
/-- `hmin2` (R248). -/
def execHmin2 (bf : Bool) (pg : Guard) (d a b : Reg) (s : State) : Host.Outcome State Fault Refusal :=
  issue (.hmin2 bf pg d a b) s (half2 bf (fun f _ z x y => f.pick z false x y) d a b)
/-- `hmax2` (R248). -/
def execHmax2 (bf : Bool) (pg : Guard) (d a b : Reg) (s : State) : Host.Outcome State Fault Refusal :=
  issue (.hmax2 bf pg d a b) s (half2 bf (fun f _ z x y => f.pick z true x y) d a b)

/-! ## The float control word (R249) -/

/-- `setfpc`: acts once when a lane participates; a result still pending keeps the word it read (R249). -/
def execSetfpc (rm : RMode) (ftz : Bool) (pg : Guard) (s : State) : Host.Outcome State Fault Refusal :=
  issue (.setfpc rm ftz pg) s fun c s =>
    if c.lanes = 0 then .fall s else .fall (s.updThread c.t fun x => { x with rm := rm, ftz := ftz })

end Sys2Proof.Machine
end

