-- ==== Sys2Proof/Machine/Integer.lean ====
section
/-!
DEFINITION. Integer and logic instructions, selects, moves, compares and 64-bit pair operations (R217 to R224).
-/
namespace Sys2Proof.Machine

/-! ## The values (R218 to R220, R224) -/

/-- Clamp an integer to the range of a type (R218, R220). -/
def clamp32 (sg : Bool) (x : Int) : Word :=
  if sg then (if x > 0x7FFFFFFF then 0x7FFFFFFF else if x < -0x80000000 then 0x80000000 else BitVec.ofInt 32 x)
  else (if x > 0xFFFFFFFF then 0xFFFFFFFF else if x < 0 then 0 else BitVec.ofInt 32 x)
/-- A word's value under a type. -/
def valOf (sg : Bool) (x : Word) : Int := if sg then x.toInt else (x.toNat : Int)
/-- The exact 64-bit product (R218). -/
def wideMul (sg : Bool) (a b : Word) : DWord := BitVec.ofInt 64 (valOf sg a * valOf sg b)
/-- Quotient toward zero (R219). -/
def divWord (sg : Bool) (a b : Word) : Word :=
  if b = 0 then 0xFFFFFFFF
  else if sg && a == 0x80000000 && b == 0xFFFFFFFF then 0x80000000
  else BitVec.ofInt 32 ((valOf sg a).tdiv (valOf sg b))
/-- Remainder with the sign of a (R219). -/
def remWord (sg : Bool) (a b : Word) : Word :=
  if b = 0 then a
  else if sg && a == 0x80000000 && b == 0xFFFFFFFF then 0
  else BitVec.ofInt 32 ((valOf sg a).tmod (valOf sg b))
/-- The lesser under a type. -/
def minWord (sg : Bool) (a b : Word) : Word := if valOf sg b < valOf sg a then b else a
/-- The greater under a type. -/
def maxWord (sg : Bool) (a b : Word) : Word := if valOf sg a < valOf sg b then b else a
/-- Number of set bits. -/
def popWord (a : Word) : Word := BitVec.ofNat 32 (laneCount a)
/-- Zero bits below the lowest set bit; 32 when there is none (R218). -/
def ctzWord (a : Word) : Word := BitVec.ofNat 32 ((firstFrom (fun i => a.getLsbD i) 32 0).getD 32)
/-- Zero bits above the highest set bit; 32 when there is none. -/
def clzWord (a : Word) : Word := BitVec.ofNat 32 ((firstFrom (fun i => a.getLsbD (31 - i)) 32 0).getD 32)
/-- Bit i is bit 31 − i of a. -/
def revWord (a : Word) : Word := maskOf fun i => a.getLsbD (31 - i)
/-- Shift left by an unsigned count; 0 from 32 on (R220). -/
def shlWord (a : Word) (n : Nat) : Word := if 32 ≤ n then 0 else a <<< n
/-- Shift right with zero fill. -/
def shrWord (a : Word) (n : Nat) : Word := if 32 ≤ n then 0 else a >>> n
/-- Shift right with sign fill. -/
def sarWord (a : Word) (n : Nat) : Word := a.sshiftRight (if 31 < n then 31 else n)
/-- The bits that a bit field covers: POS and n (R219), or none. -/
def bitField (b : Word) : Option (Nat × Nat) :=
  let pos := (b.extractLsb' 0 8).toNat
  let len := (b.extractLsb' 8 8).toNat
  if len = 0 ∨ 32 ≤ pos then none else some (pos, min len (32 - pos))
/-- Extract a bit field (R219). -/
def bfxWord (sg : Bool) (a b : Word) : Word :=
  match bitField b with
  | none => 0
  | some (pos, n) =>
    let x := a.toNat / 2 ^ pos % 2 ^ n
    if sg then BitVec.ofInt 32 (signExt n x) else BitVec.ofNat 32 x
/-- Insert a bit field (R219). -/
def bfiWord (d a b : Word) : Word :=
  match bitField b with
  | none => d
  | some (pos, n) =>
    let m : Word := (BitVec.ofNat 32 (2 ^ n - 1)) <<< pos
    (d &&& ~~~m) ||| ((a <<< pos) &&& m)
/-- One byte of `bmix`: its six-bit field F (R219). -/
def mixByte (a d : Word) (f : BitVec 6) : Byte :=
  let y := byteAt (if f.getLsbD 2 then d else a) (f.extractLsb' 0 2).toNat
  match (f.extractLsb' 3 2).toNat with
  | 0 => y
  | 1 => ~~~y
  | 2 => if y.getLsbD 7 then 0xFF else 0
  | _ => 0
/-- Byte mixing (R219). -/
def mixWord (d a b : Word) : Word :=
  mixByte a d (b.extractLsb' 18 6) ++ mixByte a d (b.extractLsb' 12 6) ++ mixByte a d (b.extractLsb' 6 6)
    ++ mixByte a d (b.extractLsb' 0 6)
/-- 64-bit shifts by an unsigned count; 0 from 64 on (R224). -/
def shlPair (a : DWord) (n : Nat) : DWord := if 64 ≤ n then 0 else a <<< n
/-- 64-bit shift right with zero fill. -/
def shrPair (a : DWord) (n : Nat) : DWord := if 64 ≤ n then 0 else a >>> n

/-! ## Shapes -/

/-- One result of a latency from a and b, per participating lane (R217). -/
def alu2 (lat : Nat) (f : Word → Word → Word) (d a b : Reg) (c : Ctx) (s : State) : Done :=
  .fall (s.put c lat d fun l => f (c.x.get a l) (c.x.get b l))
/-- One result from a. -/
def alu1 (lat : Nat) (f : Word → Word) (d a : Reg) (c : Ctx) (s : State) : Done :=
  .fall (s.put c lat d fun l => f (c.x.get a l))
/-- One result from d, a and b. -/
def alu3 (lat : Nat) (f : Word → Word → Word → Word) (d a b : Reg) (c : Ctx) (s : State) : Done :=
  .fall (s.put c lat d fun l => f (c.x.get d l) (c.x.get a l) (c.x.get b l))

/-! ## The instructions (R218) -/

/-- `iadd` (R218): class A. -/
def execIadd (pg : Guard) (d a b : Reg) (s : State) : Host.Outcome State Fault Refusal :=
  issue (.iadd pg d a b) s (alu2 2 (fun x y => x + y) d a b)
/-- `isub` (R218). -/
def execIsub (pg : Guard) (d a b : Reg) (s : State) : Host.Outcome State Fault Refusal :=
  issue (.isub pg d a b) s (alu2 2 (fun x y => x - y) d a b)
/-- `iaddi` (R218): the immediate is sign-extended. -/
def execIaddi (pg : Guard) (d a : Reg) (i : BitVec 7) (s : State) : Host.Outcome State Fault Refusal :=
  issue (.iaddi pg d a i) s (alu1 2 (fun x => x + i.signExtend 32) d a)
/-- `imul` (R218): class B. -/
def execImul (pg : Guard) (d a b : Reg) (s : State) : Host.Outcome State Fault Refusal :=
  issue (.imul pg d a b) s (alu2 4 (fun x y => x * y) d a b)
/-- `imad` (R218): d is also read. -/
def execImad (pg : Guard) (d a b : Reg) (s : State) : Host.Outcome State Fault Refusal :=
  issue (.imad pg d a b) s (alu3 4 (fun z x y => x * y + z) d a b)
/-- `imulhi` (R218): bits [63:32] of the exact product. -/
def execImulhi (sg : Bool) (pg : Guard) (d a b : Reg) (s : State) : Host.Outcome State Fault Refusal :=
  issue (.imulhi sg pg d a b) s (alu2 4 (fun x y => (wideMul sg x y).extractLsb' 32 32) d a b)
/-- `imulw` (R218): the exact product in a pair. -/
def execImulw (sg : Bool) (pg : Guard) (d a b : Reg) (s : State) : Host.Outcome State Fault Refusal :=
  issue (.imulw sg pg d a b) s fun c s => .fall (s.put64 c 4 d fun l => wideMul sg (c.x.get a l) (c.x.get b l))
/-- `iadd.sat` (R218, R220). -/
def execIaddSat (sg : Bool) (pg : Guard) (d a b : Reg) (s : State) : Host.Outcome State Fault Refusal :=
  issue (.iaddSat sg pg d a b) s (alu2 2 (fun x y => clamp32 sg (valOf sg x + valOf sg y)) d a b)
/-- `isub.sat` (R218, R220). -/
def execIsubSat (sg : Bool) (pg : Guard) (d a b : Reg) (s : State) : Host.Outcome State Fault Refusal :=
  issue (.isubSat sg pg d a b) s (alu2 2 (fun x y => clamp32 sg (valOf sg x - valOf sg y)) d a b)
/-- `idiv` (R219): class V. -/
def execIdiv (sg : Bool) (pg : Guard) (d a b : Reg) (s : State) : Host.Outcome State Fault Refusal :=
  issue (.idiv sg pg d a b) s (alu2 0 (divWord sg) d a b)
/-- `irem` (R219). -/
def execIrem (sg : Bool) (pg : Guard) (d a b : Reg) (s : State) : Host.Outcome State Fault Refusal :=
  issue (.irem sg pg d a b) s (alu2 0 (remWord sg) d a b)
/-- `imin` (R218). -/
def execImin (sg : Bool) (pg : Guard) (d a b : Reg) (s : State) : Host.Outcome State Fault Refusal :=
  issue (.imin sg pg d a b) s (alu2 2 (minWord sg) d a b)
/-- `imax` (R218). -/
def execImax (sg : Bool) (pg : Guard) (d a b : Reg) (s : State) : Host.Outcome State Fault Refusal :=
  issue (.imax sg pg d a b) s (alu2 2 (maxWord sg) d a b)
/-- `iabs` (R218, R220): the most negative value stays. -/
def execIabs (pg : Guard) (d a : Reg) (s : State) : Host.Outcome State Fault Refusal :=
  issue (.iabs pg d a) s (alu1 2 (fun x => if x.getLsbD 31 then 0 - x else x) d a)
/-- `ineg` (R218). -/
def execIneg (pg : Guard) (d a : Reg) (s : State) : Host.Outcome State Fault Refusal :=
  issue (.ineg pg d a) s (alu1 2 (fun x => 0 - x) d a)
/-- `not` (R218). -/
def execNot (pg : Guard) (d a : Reg) (s : State) : Host.Outcome State Fault Refusal :=
  issue (.not pg d a) s (alu1 2 (fun x => ~~~x) d a)
/-- `and` (R218). -/
def execAnd (pg : Guard) (d a b : Reg) (s : State) : Host.Outcome State Fault Refusal :=
  issue (.and pg d a b) s (alu2 2 (fun x y => x &&& y) d a b)
/-- `or` (R218). -/
def execOr (pg : Guard) (d a b : Reg) (s : State) : Host.Outcome State Fault Refusal :=
  issue (.or pg d a b) s (alu2 2 (fun x y => x ||| y) d a b)
/-- `xor` (R218). -/
def execXor (pg : Guard) (d a b : Reg) (s : State) : Host.Outcome State Fault Refusal :=
  issue (.xor pg d a b) s (alu2 2 (fun x y => x ^^^ y) d a b)
/-- `andn` (R218): a AND NOT b. -/
def execAndn (pg : Guard) (d a b : Reg) (s : State) : Host.Outcome State Fault Refusal :=
  issue (.andn pg d a b) s (alu2 2 (fun x y => x &&& ~~~y) d a b)
/-- `shl` (R218, R220). -/
def execShl (pg : Guard) (d a b : Reg) (s : State) : Host.Outcome State Fault Refusal :=
  issue (.shl pg d a b) s (alu2 2 (fun x y => shlWord x y.toNat) d a b)
/-- `shr` (R218, R220). -/
def execShr (pg : Guard) (d a b : Reg) (s : State) : Host.Outcome State Fault Refusal :=
  issue (.shr pg d a b) s (alu2 2 (fun x y => shrWord x y.toNat) d a b)
/-- `sar` (R218, R220). -/
def execSar (pg : Guard) (d a b : Reg) (s : State) : Host.Outcome State Fault Refusal :=
  issue (.sar pg d a b) s (alu2 2 (fun x y => sarWord x y.toNat) d a b)
/-- `shli` (R218). -/
def execShli (pg : Guard) (d a : Reg) (n : BitVec 5) (s : State) : Host.Outcome State Fault Refusal :=
  issue (.shli pg d a n) s (alu1 2 (fun x => shlWord x n.toNat) d a)
/-- `shri` (R218). -/
def execShri (pg : Guard) (d a : Reg) (n : BitVec 5) (s : State) : Host.Outcome State Fault Refusal :=
  issue (.shri pg d a n) s (alu1 2 (fun x => shrWord x n.toNat) d a)
/-- `sari` (R218). -/
def execSari (pg : Guard) (d a : Reg) (n : BitVec 5) (s : State) : Host.Outcome State Fault Refusal :=
  issue (.sari pg d a n) s (alu1 2 (fun x => sarWord x n.toNat) d a)
/-- `popc` (R218): class V. -/
def execPopc (pg : Guard) (d a : Reg) (s : State) : Host.Outcome State Fault Refusal :=
  issue (.popc pg d a) s (alu1 0 popWord d a)
/-- `clz` (R218). -/
def execClz (pg : Guard) (d a : Reg) (s : State) : Host.Outcome State Fault Refusal :=
  issue (.clz pg d a) s (alu1 0 clzWord d a)
/-- `ctz` (R218). -/
def execCtz (pg : Guard) (d a : Reg) (s : State) : Host.Outcome State Fault Refusal :=
  issue (.ctz pg d a) s (alu1 0 ctzWord d a)
/-- `brev` (R218). -/
def execBrev (pg : Guard) (d a : Reg) (s : State) : Host.Outcome State Fault Refusal :=
  issue (.brev pg d a) s (alu1 0 revWord d a)
/-- `bfx` (R219): class B. -/
def execBfx (sg : Bool) (pg : Guard) (d a b : Reg) (s : State) : Host.Outcome State Fault Refusal :=
  issue (.bfx sg pg d a b) s (alu2 4 (bfxWord sg) d a b)
/-- `bfi` (R219): reads d. -/
def execBfi (pg : Guard) (d a b : Reg) (s : State) : Host.Outcome State Fault Refusal :=
  issue (.bfi pg d a b) s (alu3 4 bfiWord d a b)
/-- `bmix` (R219): reads d. -/
def execBmix (pg : Guard) (d a b : Reg) (s : State) : Host.Outcome State Fault Refusal :=
  issue (.bmix pg d a b) s (alu3 4 mixWord d a b)

/-! ## Selects and moves (R221, R222) -/

/-- `sel` (R221): every active lane takes a where its guard is true, else b. -/
def execSel (pg : Guard) (d a b : Reg) (s : State) : Host.Outcome State Fault Refusal :=
  issue (.sel pg d a b) s fun c s => .fall (s.put c 2 d fun l => if c.x.guardAt pg l then c.x.get a l else c.x.get b l)
/-- `mov` (R222). -/
def execMov (pg : Guard) (d a : Reg) (s : State) : Host.Outcome State Fault Refusal :=
  issue (.mov pg d a) s (alu1 2 (fun x => x) d a)
/-- `movi` (R222). -/
def execMovi (pg : Guard) (d : Reg) (i : BitVec 14) (s : State) : Host.Outcome State Fault Refusal :=
  issue (.movi pg d i) s fun c s => .fall (s.put c 2 d fun _ => i.signExtend 32)
/-- `movh` (R222): bits [31:14] of every active lane. -/
def execMovh (d : Reg) (h : BitVec 18) (s : State) : Host.Outcome State Fault Refusal :=
  issue (.movh d h) s fun c s => .fall (s.put c 2 d fun l => h ++ (c.x.get d l).extractLsb' 0 14)

/-- A special register in a lane (R30). -/
def State.special (s : State) (c : Ctx) (sel l : Nat) : Word :=
  let x := c.x
  let g := (s.gang? x.gang).getD { launch := 0, index := 0, die := 0, cluster := 0, ctx := 0, groups := [], size := 0, nbars := 0,
                                   queue := [], nextCmd := 0, ctxEnded := true, efault := none, failed := none, killed := false, counts := false }
  let (nx, ny, nz) := match s.launch? x.launch with
    | some y => (y.nx, y.ny, y.nz)
    | none => (0, 0, 0)
  match sel with
  | 0x00 => BitVec.ofNat 32 l
  | 0x01 => c.act
  | 0x02 => BitVec.ofNat 32 x.strand
  | 0x03 => BitVec.ofNat 32 (match s.kernelOf x.launch with
      | some k => k.strands
      | none => 0)
  | 0x04 => BitVec.ofNat 32 (if x.seq then 0 else x.group)
  | 0x05 => BitVec.ofNat 32 g.groups.length
  | 0x06 => BitVec.ofNat 32 (g.index % nx)
  | 0x07 => BitVec.ofNat 32 (g.index / nx % ny)
  | 0x08 => BitVec.ofNat 32 (g.index / (nx * ny))
  | 0x09 => BitVec.ofNat 32 nx
  | 0x0A => BitVec.ofNat 32 ny
  | 0x0B => BitVec.ofNat 32 nz
  | 0x0C => BitVec.ofNat 32 x.launch
  | 0x0D => BitVec.ofNat 32 x.quad
  | 0x0E => BitVec.ofNat 32 x.core
  | 0x0F => BitVec.ofNat 32 x.cluster
  | 0x10 => BitVec.ofNat 32 x.die
  | 0x11 => BitVec.ofNat 32 (s.fab.eps.getD x.die 0)
  | 0x12 => BitVec.ofNat 32 x.winBase
  | 0x13 => BitVec.ofNat 32 x.regs
  | 0x14 => (match s.launch? x.launch with
      | some y => if y.drainAt.isSome then 1 else 0
      | none => 0)
  | 0x18 => x.fault.setWidth 32
  | 0x19 => BitVec.ofNat 32 x.faultpc
  | 0x1A => BitVec.ofNat 32 (x.faultpc / 2 ^ 32)
  | 0x1B => x.faultinfo
  | _ => 0

/-- `movs` (R222, R30). -/
def execMovs (pg : Guard) (d : Reg) (sel : BitVec 8) (s : State) : Host.Outcome State Fault Refusal :=
  issue (.movs pg d sel) s fun c s => .fall (s.put c 2 d fun l => s.special c sel.toNat l)

/-! ## Compares (R223) -/

/-- `icmp` (R223). -/
def execIcmp (cc : Cmp) (sg : Bool) (pg : Guard) (pd : Fin 8) (a b : Reg) (s : State) : Host.Outcome State Fault Refusal :=
  issue (.icmp cc sg pg pd a b) s fun c s => .fall (s.putP c 2 pd fun l => cmpHolds cc sg (c.x.get a l) (c.x.get b l))
/-- `icmpi` (R223): the immediate is sign-extended, whatever the type. -/
def execIcmpi (cc : Cmp) (sg : Bool) (pg : Guard) (pd : Fin 8) (a : Reg) (i : BitVec 7) (s : State) :
    Host.Outcome State Fault Refusal :=
  issue (.icmpi cc sg pg pd a i) s fun c s => .fall (s.putP c 2 pd fun l => cmpHolds cc sg (c.x.get a l) (i.signExtend 32))

/-! ## 64-bit pairs (R224) -/

/-- `add64` (R224). -/
def execAdd64 (pg : Guard) (d a b : Reg) (s : State) : Host.Outcome State Fault Refusal :=
  issue (.add64 pg d a b) s fun c s => .fall (s.put64 c 2 d fun l => c.x.get64 a l + c.x.get64 b l)
/-- `sub64` (R224). -/
def execSub64 (pg : Guard) (d a b : Reg) (s : State) : Host.Outcome State Fault Refusal :=
  issue (.sub64 pg d a b) s fun c s => .fall (s.put64 c 2 d fun l => c.x.get64 a l - c.x.get64 b l)
/-- `lea` (R224): d plus a scaled by a power of two. -/
def execLea (pg : Guard) (d a : Reg) (n : BitVec 5) (s : State) : Host.Outcome State Fault Refusal :=
  issue (.lea pg d a n) s fun c s => .fall (s.put64 c 2 d fun l => c.x.get64 d l + ((c.x.get a l).setWidth 64 <<< n.toNat))
/-- `shl64` (R224). -/
def execShl64 (pg : Guard) (d a b : Reg) (s : State) : Host.Outcome State Fault Refusal :=
  issue (.shl64 pg d a b) s fun c s => .fall (s.put64 c 2 d fun l => shlPair (c.x.get64 a l) (c.x.get b l).toNat)
/-- `shr64` (R224). -/
def execShr64 (pg : Guard) (d a b : Reg) (s : State) : Host.Outcome State Fault Refusal :=
  issue (.shr64 pg d a b) s fun c s => .fall (s.put64 c 2 d fun l => shrPair (c.x.get64 a l) (c.x.get b l).toNat)

end Sys2Proof.Machine
end

