-- ==== Sys2Proof/Machine/ModuleEv.lean ====
section
/-!
DEFINITION. The module: boot (R365), power (R368), cooling and capping (R369), identity and attestation (R366, R367), telemetry (R371),
the patrol scrub (R358), the spare lane (R362) and the error counters (R364).
-/
namespace Sys2Proof.Machine

/-! ## Images (R365) -/

/-- "FRIM". -/
def imageMagic : Nat := 0x4D495246
/-- The bytes of an image that its signature covers: header bytes 0 to 15, then 80 to 255, then the body. -/
def ImageSlot.signed (x : ImageSlot) : List Byte :=
  leBytes 4 x.magic ++ leBytes 4 x.version ++ leBytes 8 x.size ++ leBytes 64 x.digest.toNat ++ x.reserved ++ x.body
/-- Do the header's fields hold values of R365? -/
def ImageSlot.formed (x : ImageSlot) : Bool :=
  x.magic == imageMagic && decide (1 ≤ x.version) && decide (x.version < 2 ^ 32) && x.size % 4096 == 0 && x.size == x.body.length
    && x.digest == Config.sha512 x.body && x.reserved == List.replicate 112 0
/-- May the boot ROM start the image of a slot: it is one, its signature holds, and its version is not below the floor? -/
def imageValid (floor : Nat) : Option ImageSlot → Bool
  | some x => ImageSlot.formed x && Config.ed25519Verify Config.vendorKey (ImageSlot.signed x) x.sig && decide (floor ≤ x.version)
  | none => false
/-- The slot that boot starts, true for B: the valid one of the higher version, A when they are equal. -/
def bootSlot (floor : Nat) (a b : Option ImageSlot) : Option Bool :=
  match imageValid floor a, imageValid floor b with
  | true, true => match a, b with
    | some x, some y => some (x.version < y.version)
    | _, _ => some false
  | true, false => some false
  | false, true => some true
  | false, false => none
/-- The image that boot starts. -/
def bootChoice (floor : Nat) (a b : Option ImageSlot) : Option ImageSlot := (bootSlot floor a b).bind fun x => if x then b else a

/-- The bytes that a certificate of the image key binds: its public half, DIGEST and VERSION (R367). -/
def certBytes (key : BitVec 256) (digest : BitVec 512) (version : Nat) : List Byte :=
  leBytes 32 (Config.ed25519Public key).toNat ++ leBytes 64 digest.toNat ++ leBytes 4 version

/-! ## The spare lane (R362) -/

/-- A lane of a quadrant has failed: the spare replaces it, and a second one retires the core. -/
def State.laneFails (s : State) (core quad lane : Nat) : State :=
  let c := s.core core
  if c.retired || c.spare.getD quad none == some lane then s
  else
    (if (c.spare.getD quad none).isNone ∧ lane < 32 then s.setCore core { c with spare := setAt c.spare quad (some lane), excluded := false }
     else s.setCore core { c with retired := true, excluded := false }).count (coreDie core) laneIx 1
/-- Is a group resident on a core? -/
def State.occupied (s : State) (core : Nat) : Bool :=
  s.gangs.any fun (g : Nat × Gang) => (g.2.die * 8 + g.2.cluster) * 8 ≤ core && g.2.groups.any fun x => (g.2.die * 8 + g.2.cluster) * 8 + x.core == core
/-- The self-test that follows a remap, which may find a second defective lane (R362; log 98). -/
def State.laneTested (s : State) (core : Nat) : State :=
  if (s.core core).retired then s
  else match Config.laneTest s.choice with
    | some (q, l) => if q < 4 ∧ l ≤ 32 then State.laneFails { s with choice := s.choice + 1 } core q l else { s with choice := s.choice + 1 }
    | none => { s with choice := s.choice + 1 }
/-- SPARE_LANE_REMAP (R362): a lane is marked defective, as by a self-test that the Resident asks for. The core leaves placement, and the
remap waits until no group is resident on it. -/
def execSpareLaneRemap (core quad lane : Nat) (s : State) : Host.Outcome State Fault Refusal :=
  let i : Instr := .spareLaneRemap core quad lane
  .next (if s.mod.power == .off || 128 ≤ core || 4 ≤ quad || 32 < lane then s
    else
      let first := !s.res.again
      let s := (if first then s else s.updRes fun r => { r with again := false, calls := dropCall (callSpace i) r.calls })
      if s.occupied core || (first && s.res.calls.any fun j => callSpace j == callSpace i) then
        (s.updCore core fun c => { c with excluded := true }).updRes fun r =>
          { r with calls := if first then r.calls ++ [i] else i :: r.calls }
      else
        let s := (s.laneFails core quad lane).laneTested core
        if s.res.calls.any fun j => callSpace j == callSpace i then s.updCore core fun c => { c with excluded := !c.retired } else s)

/-! ## Power (R368) -/

/-- What power off leaves: fuses, flash and identity, and what belongs to this model. -/
def State.unpowered (s : State) : State :=
  let m := s.mod
  { State.reset with
    inputs := s.inputs, choice := s.choice, uid := s.uid
    mod := { Module.reset with slotA := m.slotA, slotB := m.slotB, floor := m.floor, flashEpoch := m.flashEpoch, serial := m.serial,
                               stepping := m.stepping, running := m.running, deviceCert := m.deviceCert } }
/-- POWER_REMOVED (R368). -/
def execPowerRemoved (s : State) : Host.Outcome State Fault Refusal := .next s.unpowered
/-- THERMAL_TRIP (R369): a sensor of a die, 2 being the hub, reads 115 °C. -/
def execThermalTrip (die : Nat) (s : State) : Host.Outcome State Fault Refusal := .next (if die < 3 then s.unpowered else s)

/-- The epoch of the next boot (R321). -/
def nextEpoch (e : Nat) : Nat := if 0xFFFFFFFF ≤ e then 1 else e + 1

/-- The Resident comes up with an image: the keys of R367, stations and ports trained or left down, lanes tested, the harts released
(R365). Ports follow the 18 stations in `down`. -/
def State.bringUp (s : State) (x : ImageSlot) (down badLanes : List Nat) : State :=
  let key := Config.deriveKey Config.deviceSecret (some x.digest)
  let e := nextEpoch s.mod.flashEpoch
  let s := s.updMod fun m => { m with
    flashEpoch := e, version := x.version, digest := x.digest, imageKey := key
    imageCert := Config.ed25519Sign (Config.deriveKey Config.deviceSecret none) (certBytes key x.digest x.version)
    harts := m.harts.map (fun h => { h with held := false }), port := Config.portOf x.digest % 4
    ports := (List.range 4).map fun n => if down.contains (18 + n) then { up := false, linkdown := 1 } else { up := true, linkdown := 0 } }
  let s := (s.updRes fun r => { r with epoch := e }).updFab fun b => { b with
    stations := (List.range 18).map fun n =>
      if down.contains n then { Station.reset with linkdown := 1 } else { Station.reset with up := true } }
  badLanes.foldl (fun s n => if n < 16384 then s.laneFails (n / 128) (n / 32 % 4) (n % 32) else s) s

/-- POWER_ON (R365): `a` and `b` are what has been written to the flash, of which the slot that ran last has kept its image; `failStep` 1 or 2
is the step of the bring-up that fails. Boot ends in RUN with the first SYNC. -/
def execPowerOn (a b : Option ImageSlot) (failStep : Nat) (down badLanes : List Nat) (s : State) : Host.Outcome State Fault Refusal :=
  .next (if s.mod.power != .off then s
    else
      let s := s.unpowered.updMod fun m => { m with
        slotA := if m.running = some false then m.slotA else a, slotB := if m.running = some true then m.slotB else b, power := .boot }
      match bootChoice s.mod.floor s.mod.slotA s.mod.slotB with
      | none => s.updMod fun m => { m with bootFail := some 0 }
      | some x =>
        let s := s.updMod fun m => { m with running := bootSlot m.floor m.slotA m.slotB }
        if failStep = 1 ∨ failStep = 2 then s.updMod fun m =>
          { m with bootFail := some failStep, harts := m.harts.map fun h => { h with held := false } }
        else s.bringUp x down badLanes)

/-! ## Cooling and capping (R369) -/

/-- D is the least of the operator's value, the thermal value and 16. -/
def Module.withDuty (m : Module) : Module := { m with duty := min (min m.cap m.thermal) 16 }
/-- Cycles of 1 ms. -/
def msCycles : Nat := 1000 * usCycles
/-- THERMAL_DUTY_STEP (R369): the hottest sensor of each die is read; at 115 °C the module trips, at 100 °C or more the value falls by 1 every
1 ms, with all below 95 °C it rises by 1 every 10 ms. -/
def execThermalDutyStep (temps : List Nat) (s : State) : Host.Outcome State Fault Refusal :=
  .next (if temps.any (fun x => decide (115 ≤ x)) then s.unpowered
    else if s.mod.power != .run then s
    else s.updMod fun m =>
      let m := { m with temps := temps }
      (if temps.any (fun x => decide (100 ≤ x)) then
        (if m.thermalAt + msCycles ≤ s.cycle then { m with thermal := max 1 (m.thermal - 1), thermalAt := s.cycle } else m)
       else if temps.all (fun x => decide (x < 95)) then
        (if m.thermalAt + 10 * msCycles ≤ s.cycle then { m with thermal := min 16 (m.thermal + 1), thermalAt := s.cycle } else m)
       else m).withDuty)
/-- OPERATOR_CAP (R369): a limit from 1,500 W to 4,500 W, converted to a duty value. -/
def execOperatorCap (watts : Nat) (s : State) : Host.Outcome State Fault Refusal :=
  .next (if s.mod.power == .off || watts < 1500 || 4500 < watts then s
    else s.updMod fun m => Module.withDuty { m with cap := max 1 (min 16 (Config.capDuty watts)) })

/-! ## Reports -/

/-- Does the Resident run? -/
def State.residentRuns (s : State) : Bool := s.mod.power != .off && s.mod.bootFail.isNone
/-- Cores in service (R366). -/
def State.coresInService (s : State) : Nat := 128 - (s.cores.filter fun c => c.2.retired).length
/-- "EVK2-1024" (R366), as the number of its bytes. -/
def partNumber : Nat := leNat [0x45, 0x56, 0x4B, 0x32, 0x2D, 0x31, 0x30, 0x32, 0x34]
/-- What an attestation report says before its signature, field by field with the field's bytes (R366, R367). -/
def State.attestation (s : State) (nonce : BitVec 256) : List (Nat × Nat) :=
  let m := s.mod
  [(9, partNumber), (8, m.serial.toNat), (1, m.stepping.toNat), (2, s.coresInService), (2, 992), (2, s.fab.eps.getD 0 0),
   (2, s.fab.eps.getD 1 0), (64, m.digest.toNat), (4, m.version), (4, m.floor), (4, s.res.epoch), (32, nonce.toNat),
   (32, (Config.ed25519Public m.imageKey).toNat), (64, m.digest.toNat), (4, m.version), (64, m.imageCert.toNat)]
/-- ATTESTATION_REPORT (R367): the report's fields and the signature over all of them by the image key. -/
def execAttestationReport (nonce : BitVec 256) (s : State) : Host.Outcome State Fault Refusal :=
  .next (if !s.residentRuns then s
    else
      let fs := s.attestation nonce
      let sig := Config.ed25519Sign s.mod.imageKey (fs.flatMap fun f => leBytes f.1 f.2)
      s.updMod fun m => { m with report := fs.map (fun f => f.2) ++ [sig.toNat] })

/-- Is the telemetry block due: one second after the last (R371)? -/
def State.telemetryDue (s : State) : Bool := s.residentRuns && s.mod.teleAt + 1000 * msCycles ≤ s.cycle
/-- TELEMETRY_BLOCK (R371), once in a second: error counters, station counters, D, the power drawn, the die temperatures, the swamping
totals. -/
def execTelemetryBlock (power : Nat) (temps : List Nat) (s : State) : Host.Outcome State Fault Refusal :=
  .next (if !s.telemetryDue then s
    else s.updMod fun m => { m with
      teleAt := s.cycle, temps := temps
      report := m.errs.flatten ++ (s.fab.stations.flatMap fun t => [t.linkdown, t.retrain, t.malformed, t.replay]) ++ [m.duty, power] ++ temps
        ++ m.swtot.flatten })

/-! ## Reliability (R358, R364) -/

/-- A sector that the scrub finds uncorrectable is poisoned and reported. -/
def State.scrubLost (s : State) (sec : Nat) : State :=
  if s.poison.contains sec then s
  else (s.poisonSector sec).record { s.blankRec codePOISON with flags := 4, addr := sec * 32 }
/-- One finding of the patrol scrub in a sector that check symbols cover: a corrected sector is counted; an uncorrectable one is lost. -/
def State.scrubFind (s : State) (f : ScrubFind) : State :=
  if 2 ^ 35 ≤ f.sector ∨ s.poison.contains f.sector ∨ !s.sectorCoded f.sector then s
  else if f.uncorrectable then s.scrubLost f.sector
  else s.count (homeDie (f.sector * 32)) ceHbm 1
/-- The scrub reads a sector whose codeword holds errors (R355, R358): a corrected one is rewritten. -/
def State.scrubRead (s : State) (sec : Nat) : State :=
  match readSector (Memory.bytes s.mem (sec * 32) 32) (s.sectorCoded sec) (SMap.getD s.hbmErrs sec []) with
  | .lost => s.scrubLost sec
  | .corrected => { s.readHbm sec with hbmErrs := SMap.del s.hbmErrs sec }
  | _ => s.readHbm sec
/-- Has the patrol scrub's pass of this interval to end (R358)? -/
def State.scrubDue (s : State) : Bool := s.residentRuns && s.mod.scrubAt + s.res.scrubHours * hourCycles ≤ s.cycle
/-- SCRUB_PASS (R358): what the patrol has met; at the end of the interval every sector has been read. -/
def execScrubPass (finds : List ScrubFind) (s : State) : Host.Outcome State Fault Refusal :=
  .next (if !s.residentRuns then s
    else
      let s := finds.foldl State.scrubFind s
      if s.scrubDue then ((s.hbmErrs.map (·.1)).foldl State.scrubRead s).updMod fun m => { m with scrubAt := s.cycle } else s)
/-- ERROR_COUNTER_CLEAR (R364). -/
def execErrorCounterClear (unit idx : Nat) (s : State) : Host.Outcome State Fault Refusal :=
  .next (s.updMod fun m => { m with errs := updAt m.errs unit fun l => updAt l idx fun _ => 0 })

end Sys2Proof.Machine
end

