-- ==== Sys2Proof/Machine/Sequencer.lean ====
section
/-!
DEFINITION. Instructions of the sequencer contexts (R76 to R83, R278 to R295), and `brk` and `tick` (R296, R297). What a posted
command does later is in Engine.lean.
-/
namespace Sys2Proof.Machine

/-! ## Posting -/

/-- A fault decided at a posting: deferred-precise, with a number of its own in posting order (R79, R90, R287). -/
def State.failPosting (s : State) (c : Ctx) (g : Gang) (code info : Nat) : Done :=
  let f : EFault := { code := code, cmd := g.nextCmd, pc := c.pc, addr := 0, info := info, aux0 := 0, aux1 := 0, precise := false,
                      at' := s.cycle }
  .fall ((s.setGang c.x.gang { g with nextCmd := g.nextCmd + 1, efault := some (g.efault.getD f) }).gangCheck c.x.gang)
/-- The core of the package that core `n` of a context's cluster is. -/
def Thread.engineOf (x : Thread) (n : Nat) : Nat := x.clus * 8 + n
/-- Does the context's gang hold the engine (R78)? -/
def State.holds (s : State) (x : Thread) (n : Nat) : Bool := (s.core (x.engineOf n)).engine.holder == some x.gang
/-- POST a command: a full queue holds the context (R82); an engine command needs its engine (R79, R287). -/
def postCmd (op : CmdOp) (c : Ctx) (s : State) : Done :=
  match s.gang? c.x.gang with
  | none => .fall s
  | some g =>
    if 64 ≤ g.queue.length then .hold
    else
      let enter : Done := .fall (((s.setGang c.x.gang (g.post op c.pc s.cycle)).queueSettle c.x.gang).gangCheck c.x.gang)
      match op.engine with
      | none => enter
      | some n =>
        if 7 < n then s.failPosting c g codeMXCFG 0
        else if !s.holds c.x n then s.failPosting c g codeMXHELD n
        else enter
/-- A command acts when the context's guard is true (R278). -/
def whenGuard (c : Ctx) (s : State) (k : Unit → Done) : Done := if c.lanes = 0 then .fall s else k ()

/-- `mma` (R283, R284). -/
def execMma (pg : Guard) (d a : Reg) (b : Fin 12) (desc : BitVec 32) (s : State) : Host.Outcome State Fault Refusal :=
  issue (.mma pg d a b desc) s fun c s => whenGuard c s fun _ =>
    postCmd (.mma false false (c.x.get64 d 0) (c.x.get64 a 0) (c.x.kpair (2 * b.val)) desc 0 0) c s
/-- `mma.sp` (R88, R283). -/
def execMmaSp (pg : Guard) (d a : Reg) (b : Fin 12) (desc : BitVec 32) (s : State) : Host.Outcome State Fault Refusal :=
  issue (.mmaSp pg d a b desc) s fun c s => whenGuard c s fun _ =>
    postCmd (.mma true false (c.x.get64 d 0) (c.x.get64 a 0) (c.x.kpair (2 * b.val)) desc 0 0) c s
/-- `mma.ol` (R89, R283). -/
def execMmaOl (pg : Guard) (d a : Reg) (b : Fin 12) (desc : BitVec 32) (x : Reg) (s : State) : Host.Outcome State Fault Refusal :=
  issue (.mmaOl pg d a b desc x) s fun c s => whenGuard c s fun _ =>
    postCmd (.mma false true (c.x.get64 d 0) (c.x.get64 a 0) (c.x.kpair (2 * b.val)) desc (c.x.get64 x 0) (c.x.getAt x 2 0)) c s
/-- `mma.sp.ol` (R88, R89, R283). -/
def execMmaSpOl (pg : Guard) (d a : Reg) (b : Fin 12) (desc : BitVec 32) (x : Reg) (s : State) : Host.Outcome State Fault Refusal :=
  issue (.mmaSpOl pg d a b desc x) s fun c s => whenGuard c s fun _ =>
    postCmd (.mma true true (c.x.get64 d 0) (c.x.get64 a 0) (c.x.kpair (2 * b.val)) desc (c.x.get64 x 0) (c.x.getAt x 2 0)) c s
/-- `mxld` (R285). -/
def execMxld (pg : Guard) (d a : Reg) (s : State) : Host.Outcome State Fault Refusal :=
  issue (.mxld pg d a) s fun c s => whenGuard c s fun _ => postCmd (.mxld (c.x.get64 d 0) (c.x.get64 a 0)) c s
/-- `mxst` (R286). -/
def execMxst (f : MFmt) (pg : Guard) (d a : Reg) (s : State) : Host.Outcome State Fault Refusal :=
  issue (.mxst f pg d a) s fun c s => whenGuard c s fun _ => postCmd (.mxst f (c.x.get64 d 0) (c.x.get64 a 0)) c s
/-- `mxclr` (R287). -/
def execMxclr (pg : Guard) (d a : Reg) (s : State) : Host.Outcome State Fault Refusal :=
  issue (.mxclr pg d a) s fun c s => whenGuard c s fun _ => postCmd (.mxclr (c.x.get64 d 0) (c.x.get a 0).toNat) c s
/-- `cpy.in` and `cpy.out` (R289 to R292). -/
def execCpy (out : Bool) (t : CpyT) (pg : Guard) (d a x : Reg) (s : State) : Host.Outcome State Fault Refusal :=
  issue (.cpy out t pg d a x) s fun c s => whenGuard c s fun _ =>
    postCmd (.cpy out t (c.x.get64 (if out then a else d) 0) (c.x.get64 (if out then d else a) 0) (c.x.get64 x 0)) c s
/-- `gath` (R293). -/
def execGath (pg : Guard) (d a x : Reg) (s : State) : Host.Outcome State Fault Refusal :=
  issue (.gath pg d a x) s fun c s => whenGuard c s fun _ =>
    postCmd (.gath (c.x.get64 d 0) (c.x.get64 a 0) (c.x.get64 x 0)) c s
/-- `vwr` (R83, R294). -/
def execVwr (pg : Guard) (d a : Reg) (n : Fin 24) (s : State) : Host.Outcome State Fault Refusal :=
  issue (.vwr pg d a n) s fun c s => whenGuard c s fun _ =>
    postCmd (.place true (c.x.get64 d 0) (c.x.get a 0) (c.x.kreg n.val)) c s
/-- `vrd` (R83, R294). -/
def execVrd (pg : Guard) (d a : Reg) (n : Fin 24) (s : State) : Host.Outcome State Fault Refusal :=
  issue (.vrd pg d a n) s fun c s => whenGuard c s fun _ =>
    postCmd (.place false (c.x.get64 d 0) (c.x.get a 0) (c.x.kreg n.val)) c s

/-! ## Reservation, monitors, waiting (R78, R102, R282, R288, R295) -/

/-- `mxacq` (R78, R282): all the named engines, or none. -/
def execMxacq (pg : Guard) (pd : Fin 8) (a : Reg) (s : State) : Host.Outcome State Fault Refusal :=
  issue (.mxacq pg pd a) s fun c s => whenGuard c s fun _ =>
    let m := (c.x.get a 0).toNat
    match s.gang? c.x.gang with
    | none => .fall s
    | some g =>
      if 256 ≤ m ∨ m = 0 ∨ (coresOf m).any (fun n => (g.groupOn n).isNone) then .fault { code := codeMXCFG }
      else if (coresOf m).any fun n => (s.core (c.x.engineOf n)).engine.holder.isSome && !s.holds c.x n then .fall (s.putP c 0 pd fun _ => false)
      else
        .fall (((coresOf m).foldl (fun (s : State) n => s.updCore (c.x.engineOf n) fun k => { k with
          engine := { holder := some c.x.gang, release := none,
                      mon := if k.engine.holder.isSome then k.engine.mon else Engine.reset.mon } }) s).putP c 0 pd fun _ => true)
/-- `mxrel` (R78, R282): an engine is freed once the commands posted to it before have left the queue. The spec does not say which of two
`mxrel` of an engine decides while its release is pending: the model takes the later (log 96, DESIGN CHOICE). -/
def execMxrel (pg : Guard) (a : Reg) (s : State) : Host.Outcome State Fault Refusal :=
  issue (.mxrel pg a) s fun c s => whenGuard c s fun _ =>
    let m := (c.x.get a 0).toNat
    match s.gang? c.x.gang with
    | none => .fall s
    | some g =>
      if 256 ≤ m then .fault { code := codeMXCFG }
      else
        .fall (((coresOf m).foldl (fun (s : State) n => if s.holds c.x n then
            s.updCore (c.x.engineOf n) fun k => { k with engine := { k.engine with release := some g.nextCmd } } else s) s).queueSettle c.x.gang)
/-- Is a command on the engine in the queue? -/
def State.engineQueued (s : State) (x : Thread) (n : Nat) : Bool :=
  match s.gang? x.gang with
  | some g => g.queue.any fun y => y.op.engine == some n
  | none => false
/-- `mxmon` (R102, R288). -/
def execMxmon (pg : Guard) (d : Reg) (n : Fin 8) (s : State) : Host.Outcome State Fault Refusal :=
  issue (.mxmon pg d n) s fun c s => whenGuard c s fun _ =>
    if !s.holds c.x n.val then .fault { code := codeMXHELD, info := n.val }
    else if s.engineQueued c.x n.val then .hold
    else
      let mon := (s.core (c.x.engineOf n.val)).engine.mon
      .fall ((List.range 8).foldl (fun s i =>
        if i % 2 = 1 then s.writeHi c 0 (d.dst c.x.winBase i) c.lanes fun _ => mon.getD i 0
        else s.write c 0 (d.dst c.x.winBase i) c.lanes fun _ => mon.getD i 0) s)
/-- The kind of a command, as a bit number of `sqwait` (R295). -/
def CmdOp.kind : CmdOp → Nat
  | .mma .. => 0
  | .mxld .. => 1
  | .mxst .. => 2
  | .mxclr .. => 3
  | .cpy .. => 4
  | .gath .. => 5
  | .place wr _ _ _ => if wr then 6 else 7
  | .colpost .. => 8
/-- Is a command of one of the kinds in the queue? -/
def State.kindQueued (s : State) (x : Thread) (m : Nat) : Bool :=
  match s.gang? x.gang with
  | some g => g.queue.any fun y => m.testBit y.op.kind
  | none => false
/-- `sqwait` (R295). -/
def execSqwait (pg : Guard) (a : Reg) (s : State) : Host.Outcome State Fault Refusal :=
  issue (.sqwait pg a) s fun c s => whenGuard c s fun _ =>
    let m := (c.x.get a 0).toNat
    if 512 ≤ m then .fault { code := codeMXCFG }
    else if s.kindQueued c.x m then .hold
    else .fall s

/-! ## System instructions -/

/-- The stop identity of an issue (R338). -/
def Ctx.stopId (c : Ctx) : StopId :=
  { launch := c.x.launch, die := c.x.die, cluster := c.x.cluster, core := if c.x.seq then 0xFF else c.x.core,
    slot := if c.x.seq then 0x80 + c.x.slot else 16 * c.x.quad + c.x.slot, pc := c.pc, entry := if c.x.seq then 0xFF else c.e }
/-- The 16 bytes of a stop identity (R338). -/
def StopId.bytes (i : StopId) : List Byte :=
  leBytes 4 i.launch ++ leBytes 1 i.die ++ leBytes 1 i.cluster ++ leBytes 1 i.core ++ leBytes 1 i.slot ++ leBytes 6 i.pc ++ leBytes 1 i.entry
    ++ leBytes 1 0
/-- A stop identity as STOP carries it, byte by byte (R320). -/
def StopId.body (i : StopId) : List Nat := (StopId.bytes i).map (·.toNat)
/-- `brk` (R296, R338). -/
def execBrk (pg : Guard) (s : State) : Host.Outcome State Fault Refusal :=
  issue (.brk pg) s fun c s => whenGuard c s fun _ =>
    if (match s.launch? c.x.launch with
        | some l => l.debug
        | none => false)
    then .fall (((s.updSplit c.t c.e fun p => { p with stopped := true }).updRes fun r => { r with stops := r.stops ++ [c.stopId] }).tell
      opSTOP 0 0 (StopId.body c.stopId))
    else .fall s
/-- `tick` (R297). -/
def execTick (pg : Guard) (d : Reg) (s : State) : Host.Outcome State Fault Refusal :=
  issue (.tick pg d) s fun c s => whenGuard c s fun _ => .fall (s.put64 c 0 d fun _ => BitVec.ofNat 64 s.cycle)

end Sys2Proof.Machine
end

