-- ==== Sys2Proof/Machine/Sync.lean ====
section
/-!
DEFINITION. Condition monitors and fences (R106, R125, R139, R273, R274).
-/
namespace Sys2Proof.Machine

/-- `waitc` (R139, R273): the split waits while its registration travels to the word's home. -/
def execWaitc (cond : WCond) (sc : Scope) (pg : Guard) (d a : Reg) (s : State) : Host.Outcome State Fault Refusal :=
  issue (.waitc cond sc pg d a) s fun c s =>
    if c.lanes = 0 then .fall s
    else
      let ea := c.ea a 0
      match s.gcheck c ea 4 4 .load with
      | some f => .fault f
      | none =>
        let va := (ea (lowLane c.lanes)).toNat
        let m : Monitor := { id := s.uid, t := c.t, e := c.e, uid := c.x.uid, va := va, pa := (s.pa? c.x.space va).getD 0, cond := cond,
                             val := c.x.get d (lowLane c.lanes), scope := sc, registered := false, retry := 0, pc := c.pc }
        .fall ({ s with uid := s.uid + 1, monitors := s.monitors ++ [m] }.updSplit c.t c.e fun p => { p with wait := some (.mon m.id) })

/-- `fence` (R274): its lanes are every active lane of the split; the release half comes first. -/
def execFence (ord : AOrd) (sc : Scope) (pg : Guard) (s : State) : Host.Outcome State Fault Refusal :=
  issue (.fence ord sc pg) s fun c s =>
    if c.lanes = 0 then .fall s
    else relBefore c (relScope (some (ord, sc))) c.act c.part s fun s p =>
      match acqScope (some (ord, sc)) with
      | some sc => acqBefore c sc p s fun s _ => .fall s
      | none => .fall s

end Sys2Proof.Machine
end

