-- ==== Sys2Proof/Machine/Dispatch.lean ====
section
/-!
DEFINITION. The dispatch: one arm per instruction, each one call of its meaning.
-/
namespace Sys2Proof.Machine

/-- The meaning of an instruction. -/
def exec (i : Instr) (s : State) : Host.Outcome State Fault Refusal :=
  match i with
  | .iadd pg d a b => Sys2Proof.Machine.execIadd pg d a b s
  | .isub pg d a b => Sys2Proof.Machine.execIsub pg d a b s
  | .iaddi pg d a imm => Sys2Proof.Machine.execIaddi pg d a imm s
  | .imul pg d a b => Sys2Proof.Machine.execImul pg d a b s
  | .imad pg d a b => Sys2Proof.Machine.execImad pg d a b s
  | .imulhi sg pg d a b => Sys2Proof.Machine.execImulhi sg pg d a b s
  | .imulw sg pg d a b => Sys2Proof.Machine.execImulw sg pg d a b s
  | .iaddSat sg pg d a b => Sys2Proof.Machine.execIaddSat sg pg d a b s
  | .isubSat sg pg d a b => Sys2Proof.Machine.execIsubSat sg pg d a b s
  | .idiv sg pg d a b => Sys2Proof.Machine.execIdiv sg pg d a b s
  | .irem sg pg d a b => Sys2Proof.Machine.execIrem sg pg d a b s
  | .imin sg pg d a b => Sys2Proof.Machine.execImin sg pg d a b s
  | .imax sg pg d a b => Sys2Proof.Machine.execImax sg pg d a b s
  | .iabs pg d a => Sys2Proof.Machine.execIabs pg d a s
  | .ineg pg d a => Sys2Proof.Machine.execIneg pg d a s
  | .not pg d a => Sys2Proof.Machine.execNot pg d a s
  | .and pg d a b => Sys2Proof.Machine.execAnd pg d a b s
  | .or pg d a b => Sys2Proof.Machine.execOr pg d a b s
  | .xor pg d a b => Sys2Proof.Machine.execXor pg d a b s
  | .andn pg d a b => Sys2Proof.Machine.execAndn pg d a b s
  | .shl pg d a b => Sys2Proof.Machine.execShl pg d a b s
  | .shr pg d a b => Sys2Proof.Machine.execShr pg d a b s
  | .sar pg d a b => Sys2Proof.Machine.execSar pg d a b s
  | .shli pg d a sh => Sys2Proof.Machine.execShli pg d a sh s
  | .shri pg d a sh => Sys2Proof.Machine.execShri pg d a sh s
  | .sari pg d a sh => Sys2Proof.Machine.execSari pg d a sh s
  | .popc pg d a => Sys2Proof.Machine.execPopc pg d a s
  | .clz pg d a => Sys2Proof.Machine.execClz pg d a s
  | .ctz pg d a => Sys2Proof.Machine.execCtz pg d a s
  | .brev pg d a => Sys2Proof.Machine.execBrev pg d a s
  | .bfx sg pg d a b => Sys2Proof.Machine.execBfx sg pg d a b s
  | .bfi pg d a b => Sys2Proof.Machine.execBfi pg d a b s
  | .bmix pg d a b => Sys2Proof.Machine.execBmix pg d a b s
  | .sel pg d a b => Sys2Proof.Machine.execSel pg d a b s
  | .mov pg d a => Sys2Proof.Machine.execMov pg d a s
  | .movi pg d imm => Sys2Proof.Machine.execMovi pg d imm s
  | .movh d h => Sys2Proof.Machine.execMovh d h s
  | .movs pg d sel => Sys2Proof.Machine.execMovs pg d sel s
  | .icmp cc sg pg pd a b => Sys2Proof.Machine.execIcmp cc sg pg pd a b s
  | .icmpi cc sg pg pd a imm => Sys2Proof.Machine.execIcmpi cc sg pg pd a imm s
  | .add64 pg d a b => Sys2Proof.Machine.execAdd64 pg d a b s
  | .sub64 pg d a b => Sys2Proof.Machine.execSub64 pg d a b s
  | .lea pg d a sh => Sys2Proof.Machine.execLea pg d a sh s
  | .shl64 pg d a b => Sys2Proof.Machine.execShl64 pg d a b s
  | .shr64 pg d a b => Sys2Proof.Machine.execShr64 pg d a b s
  | .bra pg disp => Sys2Proof.Machine.execBra pg disp s
  | .brx pg a n1 tab => Sys2Proof.Machine.execBrx pg a n1 tab s
  | .call pg disp => Sys2Proof.Machine.execCall pg disp s
  | .ret pg => Sys2Proof.Machine.execRet pg s
  | .joinat disp => Sys2Proof.Machine.execJoinat disp s
  | .exit pg => Sys2Proof.Machine.execExit pg s
  | .trap pg imm => Sys2Proof.Machine.execTrap pg imm s
  | .eret pg => Sys2Proof.Machine.execEret pg s
  | .yield pg => Sys2Proof.Machine.execYield pg s
  | .nop pg => Sys2Proof.Machine.execNop pg s
  | .winb pg n => Sys2Proof.Machine.execWinb pg n s
  | .rgn f1 l1 f2 l2 => Sys2Proof.Machine.execRgn f1 l1 f2 l2 s
  | .sigchk imm => Sys2Proof.Machine.execSigchk imm s
  | .barArv pg a b => Sys2Proof.Machine.execBarArv pg a b s
  | .barWait pg a => Sys2Proof.Machine.execBarWait pg a s
  | .barSync pg a b => Sys2Proof.Machine.execBarSync pg a b s
  | .gbind pg n a => Sys2Proof.Machine.execGbind pg n a s
  | .gstat pg pd n => Sys2Proof.Machine.execGstat pg pd n s
  | .gloop pg n dim disp => Sys2Proof.Machine.execGloop pg n dim disp s
  | .rgwait pg a disp => Sys2Proof.Machine.execRgwait pg a disp s
  | .rgdone pg a => Sys2Proof.Machine.execRgdone pg a s
  | .cpyY pg d a b lab => Sys2Proof.Machine.execCpyY pg d a b lab s
  | .fadd pg d a b => Sys2Proof.Machine.execFadd pg d a b s
  | .fsub pg d a b => Sys2Proof.Machine.execFsub pg d a b s
  | .fmul pg d a b => Sys2Proof.Machine.execFmul pg d a b s
  | .ffma pg d a b => Sys2Proof.Machine.execFfma pg d a b s
  | .fdiv pg d a b => Sys2Proof.Machine.execFdiv pg d a b s
  | .sqrt pg d a => Sys2Proof.Machine.execSqrt pg d a s
  | .fscale pg d a b => Sys2Proof.Machine.execFscale pg d a b s
  | .fmin pg d a b => Sys2Proof.Machine.execFmin pg d a b s
  | .fmax pg d a b => Sys2Proof.Machine.execFmax pg d a b s
  | .fabs pg d a => Sys2Proof.Machine.execFabs pg d a s
  | .fneg pg d a => Sys2Proof.Machine.execFneg pg d a s
  | .fcmp cc pg pd a b => Sys2Proof.Machine.execFcmp cc pg pd a b s
  | .frint rm pg d a => Sys2Proof.Machine.execFrint rm pg d a s
  | .fclass pg d a => Sys2Proof.Machine.execFclass pg d a s
  | .rcp pg d a => Sys2Proof.Machine.execRcp pg d a s
  | .rsq pg d a => Sys2Proof.Machine.execRsq pg d a s
  | .exp2 pg d a => Sys2Proof.Machine.execExp2 pg d a s
  | .log2 pg d a => Sys2Proof.Machine.execLog2 pg d a s
  | .sinpi pg d a => Sys2Proof.Machine.execSinpi pg d a s
  | .cospi pg d a => Sys2Proof.Machine.execCospi pg d a s
  | .tanh pg d a => Sys2Proof.Machine.execTanh pg d a s
  | .hadd2 bf pg d a b => Sys2Proof.Machine.execHadd2 bf pg d a b s
  | .hmul2 bf pg d a b => Sys2Proof.Machine.execHmul2 bf pg d a b s
  | .hfma2 bf pg d a b => Sys2Proof.Machine.execHfma2 bf pg d a b s
  | .hmin2 bf pg d a b => Sys2Proof.Machine.execHmin2 bf pg d a b s
  | .hmax2 bf pg d a b => Sys2Proof.Machine.execHmax2 bf pg d a b s
  | .setfpc rm ftz pg => Sys2Proof.Machine.execSetfpc rm ftz pg s
  | .cvt toF32 ty elt pg d a => Sys2Proof.Machine.execCvt toF32 ty elt pg d a s
  | .cvtSat ty elt pg d a => Sys2Proof.Machine.execCvtSat ty elt pg d a s
  | .qmx pg d a sp => Sys2Proof.Machine.execQmx pg d a sp s
  | .qdx pg d a sp dd => Sys2Proof.Machine.execQdx pg d a sp dd s
  | .dqmx pg d a => Sys2Proof.Machine.execDqmx pg d a s
  | .dqdx pg d a => Sys2Proof.Machine.execDqdx pg d a s
  | .plane pg d a n => Sys2Proof.Machine.execPlane pg d a n s
  | .xlaneG pg d a b => Sys2Proof.Machine.execXlaneG pg d a b s
  | .xlaneRot pg d a b => Sys2Proof.Machine.execXlaneRot pg d a b s
  | .xlaneX pg d a b => Sys2Proof.Machine.execXlaneX pg d a b s
  | .ptest c pg pd ps => Sys2Proof.Machine.execPtest c pg pd ps s
  | .pmask pg d ps => Sys2Proof.Machine.execPmask pg d ps s
  | .lfold op pg d a => Sys2Proof.Machine.execLfold op pg d a s
  | .lkey pg d a => Sys2Proof.Machine.execLkey pg d a s
  | .ld w pg d a off7 ext => Sys2Proof.Machine.execLd w pg d a off7 ext s
  | .st w pg d a off7 ext => Sys2Proof.Machine.execSt w pg d a off7 ext s
  | .ldB128Signed w pg d a ext => Sys2Proof.Machine.execLdB128Signed w pg d a ext s
  | .stB128 pg d a ext => Sys2Proof.Machine.execStB128 pg d a ext s
  | .ldAcq w sc pg d a ext => Sys2Proof.Machine.execLdAcq w sc pg d a ext s
  | .stRel w sc pg d a ext => Sys2Proof.Machine.execStRel w sc pg d a ext s
  | .ldw w pg d a ext => Sys2Proof.Machine.execLdw w pg d a ext s
  | .lds w pg d a => Sys2Proof.Machine.execLds w pg d a s
  | .sts w pg d a => Sys2Proof.Machine.execSts w pg d a s
  | .ldk w pg d a ext => Sys2Proof.Machine.execLdk w pg d a ext s
  | .atomAddS32 pg d a b => Sys2Proof.Machine.execAtomAddS32 pg d a b s
  | .atom op ord pg d a v => Sys2Proof.Machine.execAtom op ord pg d a v s
  | .atoms op pg d a v => Sys2Proof.Machine.execAtoms op pg d a v s
  | .atomsBcast max sg pg d a v => Sys2Proof.Machine.execAtomsBcast max sg pg d a v s
  | .pf pg a ext => Sys2Proof.Machine.execPf pg a ext s
  | .lease pg d a => Sys2Proof.Machine.execLease pg d a s
  | .unlease pg => Sys2Proof.Machine.execUnlease pg s
  | .wchk pg pd => Sys2Proof.Machine.execWchk pg pd s
  | .waitc c sc pg d a => Sys2Proof.Machine.execWaitc c sc pg d a s
  | .fence ord sc pg => Sys2Proof.Machine.execFence ord sc pg s
  | .dqpush pg pd d a => Sys2Proof.Machine.execDqpush pg pd d a s
  | .dqpop pg pd d a => Sys2Proof.Machine.execDqpop pg pd d a s
  | .dqsteal pg pd d a => Sys2Proof.Machine.execDqsteal pg pd d a s
  | .ctradd pg d a b => Sys2Proof.Machine.execCtradd pg d a b s
  | .ctrwait pg d a b => Sys2Proof.Machine.execCtrwait pg d a b s
  | .ldf w pg d o h => Sys2Proof.Machine.execLdf w pg d o h s
  | .stf w pg d o h => Sys2Proof.Machine.execStf w pg d o h s
  | .stfUrg w pg d o h => Sys2Proof.Machine.execStfUrg w pg d o h s
  | .fencef pg d o h => Sys2Proof.Machine.execFencef pg d o h s
  | .atomf op ord pg d o h a => Sys2Proof.Machine.execAtomf op ord pg d o h a s
  | .colpost pg d a => Sys2Proof.Machine.execColpost pg d a s
  | .mxacq pg pd a => Sys2Proof.Machine.execMxacq pg pd a s
  | .mxrel pg a => Sys2Proof.Machine.execMxrel pg a s
  | .mxld pg d a => Sys2Proof.Machine.execMxld pg d a s
  | .mxst f pg d a => Sys2Proof.Machine.execMxst f pg d a s
  | .mxclr pg d a => Sys2Proof.Machine.execMxclr pg d a s
  | .sqwait pg a => Sys2Proof.Machine.execSqwait pg a s
  | .gath pg d a x => Sys2Proof.Machine.execGath pg d a x s
  | .cpy out t pg d a x => Sys2Proof.Machine.execCpy out t pg d a x s
  | .mxmon pg d c => Sys2Proof.Machine.execMxmon pg d c s
  | .vwr pg d a n => Sys2Proof.Machine.execVwr pg d a n s
  | .vrd pg d a n => Sys2Proof.Machine.execVrd pg d a n s
  | .mma pg d a b desc => Sys2Proof.Machine.execMma pg d a b desc s
  | .mmaSp pg d a b desc => Sys2Proof.Machine.execMmaSp pg d a b desc s
  | .mmaOl pg d a b desc x => Sys2Proof.Machine.execMmaOl pg d a b desc x s
  | .mmaSpOl pg d a b desc x => Sys2Proof.Machine.execMmaSpOl pg d a b desc x s
  | .brk pg => Sys2Proof.Machine.execBrk pg s
  | .tick pg d => Sys2Proof.Machine.execTick pg d s
  | .stallCountExpiry t e => Sys2Proof.Machine.execStallCountExpiry t e s
  | .splitPark t e => Sys2Proof.Machine.execSplitPark t e s
  | .monitorRegistration id => Sys2Proof.Machine.execMonitorRegistration id s
  | .monitorRetry id => Sys2Proof.Machine.execMonitorRetry id s
  | .copyLanded t e => Sys2Proof.Machine.execCopyLanded t e s
  | .commandStart gang id => Sys2Proof.Machine.execCommandStart gang id s
  | .commandComplete gang id => Sys2Proof.Machine.execCommandComplete gang id s
  | .confirm serial => Sys2Proof.Machine.execConfirm serial s
  | .watchVerdict serial strike => Sys2Proof.Machine.execWatchVerdict serial strike s
  | .watchTimeout serial => Sys2Proof.Machine.execWatchTimeout serial s
  | .leaseExpiry t => Sys2Proof.Machine.execLeaseExpiry t s
  | .getS src srv line => Sys2Proof.Machine.execGetS src srv line s
  | .getM src srv line => Sys2Proof.Machine.execGetM src srv line s
  | .upg src srv line => Sys2Proof.Machine.execUpg src srv line s
  | .putM src srv line data mask ret => Sys2Proof.Machine.execPutM src srv line data mask ret s
  | .putC src srv line => Sys2Proof.Machine.execPutC src srv line s
  | .inv dst srv line => Sys2Proof.Machine.execInv dst srv line s
  | .fwdS dst srv line => Sys2Proof.Machine.execFwdS dst srv line s
  | .fwdM dst srv line => Sys2Proof.Machine.execFwdM dst srv line s
  | .data dst srv line dat ver g ret => Sys2Proof.Machine.execData dst srv line dat ver g ret s
  | .grant dst srv line ver ret => Sys2Proof.Machine.execGrant dst srv line ver ret s
  | .invAck src srv line => Sys2Proof.Machine.execInvAck src srv line s
  | .snpData src srv line dat dirty => Sys2Proof.Machine.execSnpData src srv line dat dirty s
  | .wback dst srv line => Sys2Proof.Machine.execWback dst srv line s
  | .wbstale dst srv line => Sys2Proof.Machine.execWbstale dst srv line s
  | .abort port cls vc => Sys2Proof.Machine.execAbort port cls vc s
  | .wr port p => Sys2Proof.Machine.execWr port p s
  | .rdreq port p => Sys2Proof.Machine.execRdreq port p s
  | .rdrsp port p => Sys2Proof.Machine.execRdrsp port p s
  | .linkDown station => Sys2Proof.Machine.execLinkDown station s
  | .atomPacket port p => Sys2Proof.Machine.execAtomPacket port p s
  | .atomrsp port p => Sys2Proof.Machine.execAtomrsp port p s
  | .ack port p => Sys2Proof.Machine.execAck port p s
  | .acknowledgementTimeoutExpiry src dst cls => Sys2Proof.Machine.execAcknowledgementTimeoutExpiry src dst cls s
  | .close port p => Sys2Proof.Machine.execClose port p s
  | .closeack port p => Sys2Proof.Machine.execCloseack port p s
  | .flowIdleClose src dst cls => Sys2Proof.Machine.execFlowIdleClose src dst cls s
  | .coltrig port p => Sys2Proof.Machine.execColtrig port p s
  | .expred port p => Sys2Proof.Machine.execExpred port p s
  | .reddata port p => Sys2Proof.Machine.execReddata port p s
  | .closeResend src dst cls => Sys2Proof.Machine.execCloseResend src dst cls s
  | .packetLifetimeExpiry station idx => Sys2Proof.Machine.execPacketLifetimeExpiry station idx s
  | .entryFire qp pos => Sys2Proof.Machine.execEntryFire qp pos s
  | .localCompletion qp pos => Sys2Proof.Machine.execLocalCompletion qp pos s
  | .remoteCompletion qp pos => Sys2Proof.Machine.execRemoteCompletion qp pos s
  | .nodeComplete job node => Sys2Proof.Machine.execNodeComplete job node s
  | .gangPlacement => Sys2Proof.Machine.execGangPlacement s
  | .ageIntervalExpiry launch => Sys2Proof.Machine.execAgeIntervalExpiry launch s
  | .drainEscalation launch => Sys2Proof.Machine.execDrainEscalation launch s
  | .pagerTimeoutExpiry token => Sys2Proof.Machine.execPagerTimeoutExpiry token s
  | .illegal w => Sys2Proof.Machine.execIllegal w s
  | .flitPosition station => Sys2Proof.Machine.execFlitPosition station s
  | .map space va size r w x hw home => Sys2Proof.Machine.execMap space va size r w x hw home s
  | .unmap space va size => Sys2Proof.Machine.execUnmap space va size s
  | .protect space va size r w x => Sys2Proof.Machine.execProtect space va size r w x s
  | .setmode space va size hw => Sys2Proof.Machine.execSetmode space va size hw s
  | .migrate space va size => Sys2Proof.Machine.execMigrate space va size s
  | .regpager space va size proc => Sys2Proof.Machine.execRegpager space va size proc s
  | .supply space token buf status => Sys2Proof.Machine.execSupply space token buf status s
  | .capset space slot body => Sys2Proof.Machine.execCapset space slot body s
  | .caprevoke space slot => Sys2Proof.Machine.execCaprevoke space slot s
  | .capallow space slot bytes => Sys2Proof.Machine.execCapallow space slot bytes s
  | .pin space va size => Sys2Proof.Machine.execPin space va size s
  | .unpin space va size => Sys2Proof.Machine.execUnpin space va size s
  | .qpalloc space => Sys2Proof.Machine.execQpalloc space s
  | .qpreset space qp => Sys2Proof.Machine.execQpreset space qp s
  | .qpfree space qp => Sys2Proof.Machine.execQpfree space qp s
  | .chunkset space bytes => Sys2Proof.Machine.execChunkset space bytes s
  | .mapexec space va size token => Sys2Proof.Machine.execMapexec space va size token s
  | .scrubPass finds => Sys2Proof.Machine.execScrubPass finds s
  | .spareLaneRemap core quad lane => Sys2Proof.Machine.execSpareLaneRemap core quad lane s
  | .errorCounterClear unit idx => Sys2Proof.Machine.execErrorCounterClear unit idx s
  | .powerOn a b failStep downStations badLanes => Sys2Proof.Machine.execPowerOn a b failStep downStations badLanes s
  | .powerRemoved => Sys2Proof.Machine.execPowerRemoved s
  | .thermalTrip die => Sys2Proof.Machine.execThermalTrip die s
  | .thermalDutyStep temps => Sys2Proof.Machine.execThermalDutyStep temps s
  | .operatorCap watts => Sys2Proof.Machine.execOperatorCap watts s
  | .attestationReport nonce => Sys2Proof.Machine.execAttestationReport nonce s
  | .telemetryBlock power temps => Sys2Proof.Machine.execTelemetryBlock power temps s
  | .malformedHeaderOrFlit port f => Sys2Proof.Machine.execMalformedHeaderOrFlit port f s
  | .linkRetraining link => Sys2Proof.Machine.execLinkRetraining link s
  | .standardTransport m => Sys2Proof.Machine.execStandardTransport m s
  | .processorTimeQuota token => Sys2Proof.Machine.execProcessorTimeQuota token s
  | .load r space va size => Sys2Proof.Machine.execLoad r space va size s
  | .unload r kernel => Sys2Proof.Machine.execUnload r kernel s
  | .post r space va => Sys2Proof.Machine.execPost r space va s
  | .cancel r kind id unit => Sys2Proof.Machine.execCancel r kind id unit s
  | .drain r launch => Sys2Proof.Machine.execDrain r launch s
  | .undrain r launch => Sys2Proof.Machine.execUndrain r launch s
  | .resume r stop => Sys2Proof.Machine.execResume r stop s
  | .done r job unit => Sys2Proof.Machine.execDone r job unit s
  | .sync r => Sys2Proof.Machine.execSync r s
  | .routeTableEntry r index value => Sys2Proof.Machine.execRouteTableEntry r index value s
  | .stationArbitrationRegister r index value => Sys2Proof.Machine.execStationArbitrationRegister r index value s
  | .stationReEnable r index value => Sys2Proof.Machine.execStationReEnable r index value s
  | .acknowledgementTimeout r index value => Sys2Proof.Machine.execAcknowledgementTimeout r index value s
  | .rollbackRetries r index value => Sys2Proof.Machine.execRollbackRetries r index value s
  | .undoLogSize r index value => Sys2Proof.Machine.execUndoLogSize r index value s
  | .scrubInterval r index value => Sys2Proof.Machine.execScrubInterval r index value s
  | .pagerTimeout r index value => Sys2Proof.Machine.execPagerTimeout r index value s
  | .defaultDrainInterval r index value => Sys2Proof.Machine.execDefaultDrainInterval r index value s
  | .capabilityTableSize r index value => Sys2Proof.Machine.execCapabilityTableSize r index value s
  | .antiRollbackFloorRaise r index value => Sys2Proof.Machine.execAntiRollbackFloorRaise r index value s

end Sys2Proof.Machine
end

