-- ==== Sys2Proof/Machine/Due.lean ====
section
/-!
DEFINITION. The device's own events that a state makes happen: the forced ones, whose time has come, and those that may happen next,
among which the implementation chooses (log 1).
-/
namespace Sys2Proof.Machine

/-! ## Forced events -/

/-- An event of the first thread entry that has one. -/
def State.splitEvent (s : State) (f : Nat → Nat → Thread → Option Instr) : Option Instr :=
  s.threads.findSome? fun (c : Nat × Thread) => (List.range c.2.splits.length).findSome? fun e => f c.1 e c.2
/-- A stall that is over, and a split that stands at its join address (R38, R196). -/
def State.splitForced (s : State) (t e : Nat) (x : Thread) : Option Instr :=
  let p := x.split e
  if p.stall != 0 && decide (p.stall ≤ s.cycle) then some (.stallCountExpiry t e)
  else if p.stall == 0 && !p.stopped && x.parks e then some (.splitPark t e)
  else none
/-- A watch too long without a verdict (R122). -/
def State.threadForced (s : State) (x : Thread) : Option Instr :=
  (x.loupe.find? fun w => !w.struck && s.watchLate w.serial).map fun w => .watchTimeout w.serial
/-- Timers of the fabric (R152, R154). -/
def State.fabricForced (s : State) : Option Instr :=
  match s.fab.src.find? fun e => s.timedOut e with
  | some e => some (.acknowledgementTimeoutExpiry e.src e.dst e.cls)
  | none => match s.fab.src.find? fun e => s.idleDue e with
    | some e => some (.flowIdleClose e.src e.dst e.cls)
    | none => match s.fab.src.find? fun e => s.resendDue e with
      | some e => some (.closeResend e.src e.dst e.cls)
      | none => (List.range s.fab.stations.length).findSome? fun n =>
          let t := s.station n
          (((t.waiting ++ t.open').map (·.since) ++ t.rx.map (·.since)).findIdx? fun n => n + lifeCycles ≤ s.cycle).map fun i =>
            .packetLifetimeExpiry n i
/-- Timers of the Resident (R332, R337, R345, R358, R371). -/
def State.residentForced (s : State) : Option Instr :=
  match List.find? (fun (l : Nat × Launch) => s.escalates l.1 l.2) s.res.launches with
  | some l => some (.drainEscalation l.1)
  | none => match List.find? (fun (l : Nat × Launch) => s.ageDue l.2) s.res.launches with
    | some l => some (.ageIntervalExpiry l.1)
    | none => match s.res.upcalls.find? fun u => u.since + u.limit ≤ s.cycle with
      | some u => some (.pagerTimeoutExpiry u.token)
      | none =>
        if s.scrubDue then some (.scrubPass [])
        else if s.telemetryDue then some (.telemetryBlock (Config.power s.cycle) s.mod.temps)
        else none

/-- The first event that must happen before anything else. -/
def State.forced (s : State) : Option Instr :=
  match s.splitEvent (fun t e x => s.splitForced t e x) with
  | some i => some i
  | none => match s.leases.find? fun l => decide (l.until' ≤ s.cycle) with
    | some l => some (.leaseExpiry l.t)
    | none => match s.threads.findSome? fun (c : Nat × Thread) => s.threadForced c.2 with
      | some i => some i
      | none => match s.monitors.find? fun m => m.retry != 0 && m.retry ≤ s.cycle with
        | some m => some (.monitorRetry m.id)
        | none => match s.fabricForced with
          | some i => some i
          | none => s.residentForced

/-! ## Events that may happen -/

/-- Yielded copies that can move on (R238). -/
def State.copyDue (s : State) : List Instr :=
  s.threads.flatMap fun (c : Nat × Thread) => (List.range c.2.splits.length).filterMap fun e =>
    match (c.2.split e).wait with
    | some (.copy _ src len _ _ _) => if s.copyMoves c.2 src len then some (.copyLanded c.1 e) else none
    | _ => none
/-- Registrations on their way (R139, R141). -/
def State.monitorDue (s : State) : List Instr :=
  (s.monitors.filter fun m => !m.registered && m.retry == 0
    && (512 ≤ s.registrations (lineOf m.pa)
      || (!s.monFrozen m && (s.homeReadable (monAgent m.id) (lineOf m.pa) || !s.homeAskedFor (monAgent m.id) (lineOf m.pa) 5)))).map fun m => .monitorRegistration m.id
/-- Confirm requests and verdicts on their way (R122). -/
def State.watchDue (s : State) : List Instr :=
  s.watches.map fun q => match q.verdict with
    | none => .confirm q.serial
    | some v => .watchVerdict q.serial v
/-- Commands that can start or complete (R82). -/
def State.cmdDue (s : State) : List Instr :=
  s.gangs.flatMap fun (g : Nat × Gang) => g.2.queue.filterMap fun c =>
    if s.canStart g.2 c then some (.commandStart g.1 c.id)
    else if s.mayComplete g.2 c && ((s.failGlobal g.2 c.global.1 (if c.global.2 then .store else .load)).isSome
        || s.homeTry (gangAgent g.1) (s.cmdLines g.2 c)) then some (.commandComplete g.1 c.id)
    else none

/-- The event of a data packet at a port: a remote access or its answer (R145). -/
def accessEvent (port : Nat) (p : Packet) : Option Instr :=
  match p.hdr.opcode with
  | 1 => some (.wr port p)
  | 2 => some (.rdreq port p)
  | 3 => some (.rdrsp port p)
  | 4 => some (.atomPacket port p)
  | 5 => some (.atomrsp port p)
  | _ => none

/-- The event of a packet's operation at a port, where its operation is one of R145: of a flow's own packets, of a collective's, or of an
access. -/
def packetEvent (port : Nat) (p : Packet) : Option Instr :=
  let op := p.hdr.opcode
  if op = 6 then some (.ack port p)
  else if op = 7 then some (.close port p)
  else if op = 8 then some (.closeack port p)
  else match op with
    | 9 => some (.coltrig port p)
    | 10 => some (.expred port p)
    | 11 => some (.reddata port p)
    | _ => accessEvent port p
/-- Packets with no earlier one of their flow (R165). -/
def flowHeads : List Packet → List Packet → List Packet
  | _, [] => []
  | before, p :: r =>
    if before.any fun q => q.hdr.src == p.hdr.src && q.hdr.dst == p.hdr.dst && q.hdr.cls == p.hdr.cls then flowHeads (p :: before) r
    else p :: flowHeads (p :: before) r
/-- Would an attempt to perform a packet as an agent change anything? `frozen` says so where it has to wait for a migration; none for one that
the old home has forwarded. -/
def State.packetMoves (s : State) (agent : Nat) (p : Packet) (frozen : Option Bool) : Bool :=
  let h := p.hdr
  let n := packetBytes p
  h.chunk || decide (9 ≤ h.opcode) || s.refusedAt h.space h.va n (if h.opcode = 2 then .load else .store)
    || (if frozen.isSome && s.frozenAt p then frozen == some true
        else s.homeTry agent ((s.pieces h.space h.va n).map fun x => (lineOf x.1, h.opcode != 2)))
/-- Packets accepted and not yet performed, reads to perform again, and packets of pages that have moved, which can go on (R153, R346). -/
def State.heldPackets (s : State) : List Packet :=
  (s.fab.dst.flatMap fun e =>
    ((e.accepted.find? fun p => p.hdr.seq == (e.cum + 1) % 65536).filter fun p =>
        s.packetMoves (flowAgent e.dst e.src (clsNo e.cls) 0) p (some true)).toList
      ++ (e.again.head?.filter fun p => s.packetMoves (flowAgent e.dst e.src (clsNo e.cls) 1) p (some false)).toList)
    ++ ((s.fab.frozen.find? fun p => !s.stillFrozen p).filter fun p =>
        s.packetMoves (flowAgent p.hdr.dst p.hdr.src p.hdr.cls 2) p none).toList
/-- Events of packets and stations. -/
def State.packetDue (s : State) : List Instr :=
  ((flowHeads [] s.fab.loop).filterMap fun p => packetEvent loopPort p)
  ++ (s.heldPackets.filterMap fun p => packetEvent againPort p)
  ++ (match s.fab.stdIn with
      | p :: _ => if s.packetMoves stdAgent p (some false) then [.standardTransport .again] else []
      | [] => [])
  ++ ((List.range s.fab.stations.length).filter fun n =>
        (s.station n).up && !((s.station n).waiting.isEmpty && (s.station n).open'.isEmpty)).map fun n => .flitPosition n

/-- Would a fired entry send its next packet? -/
def State.entryMoves (s : State) (n : Nat) (q : QPair) (e : QEntry) : Bool :=
  match s.way e.src e.peer e.w.cls 1 0 with
  | .wait => false
  | .native =>
    let (a, len) := e.w.srcPart e.sent (min e.w.perPacket (e.w.len - e.sent))
    (e.w.op == 0 && e.w.zero) || e.w.sk == 1 || [a, a + len - 1].any (fun v => (s.denied q.space v .load).isSome)
      || (let ps := s.pieces q.space a len
          !(ps.any fun x => s.frozenRead q.space (a + x.2.1)) && s.homeTry (entryAgent n e.pos) (ps.map fun x => (lineOf x.1, false)))
  | _ => true
/-- Events of a queue pair: the first armed entry fires, fired ones send and complete (R172, R173). -/
def State.entryDue (s : State) (n : Nat) (q : QPair) : List Instr :=
  ((q.queue.find? fun e => !e.fired && q.armed e).map fun e => Instr.entryFire n e.pos).toList
  ++ q.queue.filterMap fun e =>
    if !e.fired then none
    else if e.sent < e.w.len then (if s.entryMoves n q e then some (.entryFire n e.pos) else none)
    else if !e.localDone then some (.localCompletion n e.pos)
    else if e.outstanding == 0 && !e.trig && (!e.w.rinc || s.way e.src e.peer .urgent 1 0 != .wait) then some (.remoteCompletion n e.pos)
    else none

/-- Can a recall of a page go on, by its entry? -/
def State.pteRecall (s : State) (space e : Nat) : Bool := s.recallMoves (callAgent space) (e / 4096 % 2 ^ 40 * 4096)
/-- Can a waiting call, remap or request go on? One that has not been attempted can. -/
def State.callMoves (s : State) (i : Instr) : Bool :=
  decide (callSpace i < 65536) && (SMap.find? s.res.begun (callSpace i)).isNone
  || match i with
  | .setmode space va size hw => size == 0 || (s.pte? space va).all fun x =>
      x.2 % 2 == 0 || x.2.testBit 6 == hw || !x.2.testBit 10 || s.pteRecall space x.2
  | .migrate space va size => size == 0 || (s.pte? space va).all fun x =>
      x.2 % 2 == 0 || x.2 / 256 % 4 == 0 || (if x.2 / 256 % 4 = 2 then !s.forwarding space va (x.2 / 4096 % 2 ^ 40 * 4096) else s.pteRecall space x.2)
  | .supply space token buf status =>
    status != 0 || !(s.res.upcalls.any fun u => u.token == token && u.space == space)
      || lackMoves s (callAgent space) (s.readSpace (callAgent space) space buf 65536)
  | .mapexec space va size token =>
    !(s.res.translators.any fun t => t.token == token && t.space == space)
      || lackMoves s (callAgent space) (s.readSpace (callAgent space) space va size)
  | .caprevoke space slot => !s.revokeWaits space slot ((SMap.find? s.res.begun space).getD 0)
  | .qpreset _ qp | .qpfree _ qp => (s.qpair? qp).all fun q => q.queue.isEmpty || q.queue.any fun e => !e.fired
  | .spareLaneRemap core _ _ => !s.occupied core
  | .load r space va size => lackMoves s (reqAgent r.seq) (s.readSpace (reqAgent r.seq) space va size)
  | .post r space va => lackMoves s (reqAgent r.seq) (s.jobRecord (reqAgent r.seq) space va)
  | _ => true
/-- The calls that wait behind no other of their space. -/
def callHeads : List Nat → List Instr → List Instr
  | _, [] => []
  | seen, i :: r => if seen.contains (callSpace i) then callHeads seen r else i :: callHeads (callSpace i :: seen) r
/-- Events of the Resident. -/
def State.residentDue (s : State) : List Instr :=
  (s.res.jobs.flatMap fun (j : Nat × Job) => ((List.range j.2.nodes.length).filter fun n => s.nodeMoves j.1 n).map fun n => .nodeComplete j.1 n)
  ++ (if (s.placeAct s.visitOrder).isSome then [.gangPlacement] else [])
  ++ (callHeads [] s.res.calls).filter fun i => s.callMoves i

/-- The oldest message that may arrive, once messages have been passed over for long (R107). -/
def State.overdue (s : State) : Option Instr :=
  match s.msgs with
  | [] => none
  | _ => if s.passed < Config.patience then none else (s.msgsDue [] s.msgs).head?
/-- The events that may happen next. -/
def State.due (s : State) : List Instr :=
  s.msgsDue [] s.msgs ++ s.copyDue ++ s.monitorDue ++ s.watchDue ++ s.cmdDue ++ s.packetDue
    ++ (s.fab.qps.flatMap fun (q : Nat × QPair) => s.entryDue q.1 q.2) ++ s.residentDue

/-- A waiting call that goes on is marked as such for its event. -/
def State.marked (s : State) (i : Instr) : State :=
  if s.res.calls.contains i then s.updRes fun r => { r with again := true } else s

end Sys2Proof.Machine
end

