-- ==== Sys2Proof/Machine/Step.lean ====
section
/-!
DEFINITION. One step of the machine: an access under way carried on, an input whose time has come, an event of the device, or the
issue of one instruction by the next quadrant or sequencer of the cycle; where none is left to issue, a cycle passes.
-/
namespace Sys2Proof.Machine

/-- A unit tries its splits or contexts in its order until one is not held by an interlock (R41). -/
def State.tryIssue (s : State) (u : Nat) : List (Nat × Nat) → Host.Outcome State Fault Refusal
  | [] => .next s
  | (t, e) :: rest =>
    match s.thread? t with
    | none => State.tryIssue s u rest
    | some x =>
      let f := s.fetch t e x
      let s1 := { s.chosen u t e with iss := some f.iss }
      match f.res with
      | .inl fault => .next (s1.raiseFetch fault)
      | .inr i =>
        match exec i s1 with
        | .next s2 => if s2.iss.isSome then State.tryIssue s u rest else .next s2
        | o => o

/-- The next unit of the cycle issues, or the cycle passes. -/
def State.issueTurn (s : State) : Host.Outcome State Fault Refusal :=
  match s.nextUnit with
  | some (u, s) => s.tryIssue u (s.order u)
  | none => .next s.tick

/-- An access under way is carried on: its instruction once more, for the lanes that are left (log 12). -/
def State.carryOn (s : State) (id : Nat) : Host.Outcome State Fault Refusal :=
  match s.op? id with
  | some m => exec m.instr { s with iss := some { m.iss with op := some id } }
  | none => .next s

/-- ONE STEP: an access that has been given its line goes on before anything else (R132). -/
def step (s : State) : Host.Outcome State Fault Refusal :=
  match s.wake with
  | id :: rest => State.carryOn { s with wake := rest } id
  | [] => stepIn s
where
  /-- With no access to carry on: an input whose time has come, or the machine's own next event. -/
  stepIn (s : State) : Host.Outcome State Fault Refusal :=
    match s.inputs with
    | (t, i) :: rest => if t ≤ s.cycle then exec i { s with inputs := rest } else stepOn s
    | [] => stepOn s
  /-- With no input to take: a forced event, a message that has been passed over for long, or one of the events that may happen, the issue of an
  instruction among them. -/
  stepOn (s : State) : Host.Outcome State Fault Refusal :=
    match s.forced with
    | some i => exec i s
    | none => match s.overdue with
      | some i => exec i { s with passed := 0 }
      | none =>
        let ds := s.due
        if ds.isEmpty then s.issueTurn
        else
          let t := { s with choice := s.choice + 1, passed := s.passed + 1 }
          match ds[Config.choose s.choice % (ds.length + 1)]? with
          | some i => exec i (t.marked i)
          | none => t.issueTurn

/-- The state with an instruction placed where the next step fetches it: a strand's, or a context's where only a context may
issue it (log 9). -/
def State.withFetchWord (s : State) (nbits w : Nat) : State :=
  s.placeWords (match decodeTableWord nbits w with
    | some i => i.place == .q
    | none => false) (tableWord w 0) (tableExts nbits w)

end Sys2Proof.Machine
end

