-- ==== Sys2Proof/Machine/Order.lean ====
section
/-!
DEFINITION. Memory Order: the scopes (R108), the events of an execution (R109), their relations (R110 to R114), the axioms that say
which executions are allowed (R115, R127), and freedom from data races (R116). A run of the machine is one total order of its accesses;
these definitions say of any set of events, however they interleaved, whether the spec allows it.
-/
namespace Sys2Proof.Machine

/-! ## Threads and scopes (R108) -/

/-- Who performs an event: a lane of a strand, a sequencer context, a hart of a hub, or, with no program order, an engine command of a
gang, a fired entry of a package's collective engine, and the completion of a graph node (R104, R109, R112, R113, R175). -/
inductive Agent where
  | lane (pkg die cluster gang group strand lane : Nat)
  | context (pkg die cluster gang : Nat)
  | hart (pkg n : Nat)
  | command (pkg die cluster gang n : Nat)
  | entry (pkg n : Nat)
  | node (pkg n : Nat)
  deriving DecidableEq, Repr

/-- Is the agent a thread, whose events have a program order (R110, R112)? -/
def Agent.threaded : Agent → Bool
  | .lane .. | .context .. | .hart .. => true
  | _ => false

/-- The instance of a scope in which a thread lies, where it can use the scope. -/
def Agent.inst (a : Agent) (sc : Scope) : Option (List Nat) :=
  match sc, a with
  | .str, .lane p d c g r s _ => some [p, d, c, g, r, s]
  | .grp, .lane p d c g r _ _ => some [p, d, c, g, r]
  | .cls, .lane p d c _ _ _ _ | .cls, .context p d c _ => some [p, d, c]
  | .die, .lane p d _ _ _ _ _ | .die, .context p d _ _ => some [p, d]
  | .pkg, .lane p _ _ _ _ _ _ | .pkg, .context p _ _ _ | .pkg, .hart p _ => some [p]
  | .dom, .lane .. | .dom, .context .. | .dom, .hart .. => some []
  | _, _ => none

/-- Does the instance of a scope that contains one thread also contain the other? -/
def Agent.contains (a : Agent) (sc : Scope) (b : Agent) : Bool :=
  match a.inst sc, b.inst sc with
  | some x, some y => x == y
  | _, _ => false

/-- A release and an acquire at inclusive scopes (R108). -/
def inclusive (a : Agent) (sa : Scope) (b : Agent) (sb : Scope) : Bool := a.contains sa b && b.contains sb a

/-! ## Events (R109) -/

/-- What an event is: a read, a write, an atomic as one event, a fence, a watched load that was struck or not; the arrival at a phase of
a group's barrier, or the end of a wait there; a copy's completion, or the resumption at its continuation label (R111); a counter's
increment, a remote completion's or another, or what a counter arms or wakes (R175); the posting of a command, an `rgdone` on one, the
end of an `rgwait` on one, the end of a `sqwait` for several (R84, R112, R295); the posting of a launch record, or the completion of a
node (R113). An engine command's reads and writes are those of its agent. -/
inductive EvKind where
  | r
  | w
  | rmw
  | f
  | wl (struck : Bool)
  | arrive (bar phase : Nat)
  | leave (bar phase : Nat)
  | copied (n : Nat)
  | resumed (n : Nat)
  | inc (remote : Bool)
  | armed
  | posting (n : Nat)
  | counted (n : Nat)
  | placed (n : Nat)
  | awaited (ns : List Nat)
  | launched (node : Nat)
  | ended (node : Nat)
  deriving DecidableEq, Repr

/-- An event: its agent, its kind, the locations (bytes, and counters by their words) that it accesses as one, its annotation (R104,
R109), the place of its instruction in its thread's program, which the two halves of a 16-byte access share, the issue of its
instruction, the same for all its lanes, where it has one (0 otherwise), and the graph node it belongs to. -/
structure Ev where
  agent : Agent
  kind : EvKind
  locs : List Nat
  ann : Option (AOrd × Scope) := none
  pos : Nat := 0
  issue : Nat := 0
  node : Option Nat := none
  deriving DecidableEq, Repr

/-- The release of `dqpush`: its write of the entry, at cluster scope (R54, R111). -/
def Ev.push (a : Agent) (pos : Nat) (entry : List Nat) : Ev := { agent := a, kind := .w, locs := entry, ann := some (.rel, .cls), pos := pos }
/-- The acquire of a `dqpop` or `dqsteal` that returns the entry. -/
def Ev.take (a : Agent) (pos : Nat) (entry : List Nat) : Ev := { agent := a, kind := .r, locs := entry, ann := some (.acq, .cls), pos := pos }
/-- The release of a bound broadcast: its update of one copy of the word, at cluster scope (R56, R111). -/
def Ev.bound (a : Agent) (pos : Nat) (copy : List Nat) : Ev := { agent := a, kind := .rmw, locs := copy, ann := some (.rel, .cls), pos := pos }
/-- The release of `fencef`: its urgent remote add to the flag, at domain scope (R111). -/
def Ev.flag (a : Agent) (pos : Nat) (flag : List Nat) : Ev := { agent := a, kind := .rmw, locs := flag, ann := some (.rel, .dom), pos := pos }
/-- The acquire of a condition monitor's wake-up: its matching read, at the scope that `waitc` names (R109, R111). -/
def Ev.wake (a : Agent) (pos : Nat) (word : List Nat) (sc : Scope) : Ev := { agent := a, kind := .r, locs := word, ann := some (.acq, sc), pos := pos }

/-- Does the event read, in the full sense: a struck watched load constrains nothing (R115, R127)? -/
def Ev.reads (e : Ev) : Bool :=
  match e.kind with
  | .r | .rmw | .wl false | .inc _ | .armed => true
  | _ => false
/-- Does it write? -/
def Ev.writes (e : Ev) : Bool :=
  match e.kind with
  | .w | .rmw | .inc _ => true
  | _ => false
/-- Is it an atomic, which a release sequence goes on through (R111, R175)? -/
def Ev.atomic (e : Ev) : Bool :=
  match e.kind with
  | .rmw | .inc _ => true
  | _ => false
/-- The scope at which the event releases (R111). -/
def Ev.rel (e : Ev) : Option Scope :=
  match e.ann with
  | some (.rel, sc) | some (.ar, sc) => some sc
  | _ => none
/-- The scope at which the event acquires (R111). -/
def Ev.acq (e : Ev) : Option Scope :=
  match e.ann with
  | some (.acq, sc) | some (.ar, sc) => some sc
  | _ => none

/-! ## Dependences (R110) -/

/-- Does an instruction read memory: is the value of its destination that of a read event? -/
def readsMemory : Instr → Bool
  | .ld .. | .ldB128Signed .. | .ldAcq .. | .ldw .. | .lds .. | .ldk .. | .atomAddS32 .. | .atom .. | .atoms .. | .dqpop .. | .dqsteal ..
  | .ldf .. | .atomf .. => true
  | _ => false
/-- Does an instruction decide what is executed after it? -/
def branches : Instr → Bool
  | .bra .. | .brx .. | .call .. | .ret .. | .gloop .. | .exit .. | .rgwait .. | .cpyY .. => true
  | _ => false
/-- For each instruction that a thread executed, each with its window base: the places of the earlier reads on whose values its address,
its data or its execution depends. `rs` says this of the registers and predicates, `ctl` of the execution of what follows. -/
def depsFrom (seq : Bool) (n : Nat) (rs : List (Loc × List Nat)) (ctl : List Nat) : List (Nat × Instr) → List (List Nat)
  | [] => []
  | (wb, i) :: rest =>
    let os := i.opnds wb seq
    let from' := ((os.filter (·.rd)).flatMap (·.locs)).flatMap (fun l => ((rs.find? fun r => r.1 == l).map (·.2)).getD []) ++ ctl
    let gives := if readsMemory i then [n] else from'
    let rs' := ((os.filter (·.wr)).flatMap (·.locs)).map (fun l => (l, gives)) ++ rs
    from' :: depsFrom seq (n + 1) rs' (if branches i then from' ++ ctl else ctl) rest

/-! ## Executions and relations (R110 to R114) -/

/-- A graph node: its graph in their order, its phase, and the nodes that it depends on (R113, R325). -/
structure ONode where
  graph : Nat
  phase : Nat
  deps : List Nat
  deriving DecidableEq, Repr

/-- An execution: its events; `rf` pairs each read with the writes it takes its bytes from; `co` gives the writes of each location in
their order; `fo` orders the `.ar` fences; `code` holds the instructions that each thread executed, each with its window base; `cmds`
the commands that were posted, with their agents; `nodes` the graph nodes. -/
structure Exec where
  events : List Ev
  rf : List (Nat × Nat)
  co : List (Nat × List Nat)
  fo : List Nat := []
  code : List (Agent × List (Nat × Instr)) := []
  cmds : List (Agent × CmdOp) := []
  nodes : List ONode := []
  deriving DecidableEq, Repr

namespace Exec
variable (x : Exec)

/-- An event by its number. -/
def ev (i : Nat) : Ev := x.events.getD i { agent := .hart 0 0, kind := .f, locs := [] }
/-- The numbers of the events. -/
def ids : List Nat := List.range x.events.length
/-- All pairs of events that a test accepts. -/
def pairs (p : Nat → Nat → Bool) : List (Nat × Nat) := x.ids.flatMap fun i => (x.ids.filter (p i)).map fun j => (i, j)

/-- Program order (R110). -/
def po (i j : Nat) : Bool := (x.ev i).agent.threaded && (x.ev i).agent == (x.ev j).agent && decide ((x.ev i).pos < (x.ev j).pos)
/-- What each instruction of an event's thread depends on. -/
def deps (i : Nat) : List (List Nat) :=
  let a := (x.ev i).agent
  match x.code.find? fun c => c.1 == a with
  | some c => depsFrom (match a with
      | .context .. => true
      | _ => false) 0 [] [] c.2
  | none => []
/-- Dependence (R110): from a read to a later event of its thread whose address, data or execution depends on the value read. -/
def dep (i j : Nat) : Bool := x.po i j && (x.ev i).reads && ((x.deps j).getD (x.ev j).pos []).contains (x.ev i).pos

/-- The writes of a location, in coherence order. -/
def order (l : Nat) : List Nat := ((x.co.find? fun c => c.1 == l).map (·.2)).getD []
/-- The place of a write in the order of a location. -/
def place (l i : Nat) : Nat := (x.order l).idxOf i
/-- Coherence order at a location. -/
def coAt (l i j : Nat) : Bool := (x.order l).contains i && (x.order l).contains j && decide (x.place l i < x.place l j)
/-- The writes that a read takes bytes from. -/
def sources (r : Nat) : List Nat := (x.rf.filter fun p => p.2 == r).map (·.1)
/-- The write that a read takes one byte from, or none for the initial value: the last, in coherence order, of the writes that it takes
bytes from and that write this one, so that it takes from one write all the bytes which no later one of them has written (R104; log 101). -/
def source (r l : Nat) : Option Nat := ((x.order l).filter fun w => (x.sources r).contains w).getLast?
/-- From-read at a location (R110): to every write after the one read, and from the initial value to every write; an atomic is not
before its own write. -/
def frAt (l r w : Nat) : Bool :=
  (x.ev r).reads && (x.ev r).locs.contains l && (x.order l).contains w && r != w
    && (match x.source r l with
        | some v => x.coAt l v w
        | none => true)

/-- The release sequence of a write at a location (R111): the write, then every atomic after it with only atomics between. -/
def releaseSeq (l v : Nat) : List Nat :=
  v :: ((x.order l).drop (x.place l v + 1)).takeWhile fun i => (x.ev i).atomic
/-- The writes for which an event stands as the release: its own, or for a fence every later write of its thread (R111). -/
def released (i : Nat) : List Nat :=
  if (x.ev i).rel.isNone then [] else if (x.ev i).kind == .f then x.ids.filter fun j => x.po i j && (x.ev j).writes
  else if (x.ev i).writes then [i] else []
/-- The reads for which an event stands as the acquire (R111). -/
def acquired (i : Nat) : List Nat :=
  if (x.ev i).acq.isNone then [] else if (x.ev i).kind == .f then x.ids.filter fun j => x.po j i && (x.ev j).reads
  else if (x.ev i).reads then [i] else []
/-- Are the scopes of a release and an acquire inclusive? -/
def inScope (i j : Nat) : Bool :=
  match (x.ev i).rel, (x.ev j).acq with
  | some a, some b => inclusive (x.ev i).agent a (x.ev j).agent b
  | _, _ => false
/-- Does `j` read, at one of its locations, from the release sequence of the write `v` there? -/
def readsFrom (v j : Nat) : Bool :=
  (x.ev v).locs.any fun l => (x.ev j).locs.contains l && (match x.source j l with
    | some u => (x.releaseSeq l v).contains u
    | none => false)
/-- Are two events of one group (R108)? -/
def sameGroup (i j : Nat) : Bool := (x.ev i).agent.contains .grp (x.ev j).agent
/-- Synchronises-with (R111, R175): an annotated access or fence with another, which deque operations, bound broadcasts, monitors'
wake-ups and flagged fences are too; every arrival of a barrier's phase with every end of a wait for it; a copy's completion with the
resumption; a counter's increment with what it, or a later value, arms or wakes. -/
def sw (i j : Nat) : Bool :=
  (i != j && x.inScope i j && (x.released i).any fun v => (x.acquired j).any fun r => x.readsFrom v r)
  || (match (x.ev i).kind, (x.ev j).kind with
      | .arrive b n, .leave b' n' => b == b' && n == n' && x.sameGroup i j
      | .copied n, .resumed n' => n == n' && x.sameGroup i j
      | .inc _, .armed => x.readsFrom i j
      | _, _ => false)

/-- Is `j` reached from `i` by at most `n` edges? -/
def reach (edge : Nat → Nat → Bool) : Nat → Nat → Nat → Bool
  | 0, i, j => edge i j
  | n + 1, i, j => edge i j || x.ids.any fun k => edge i k && reach edge n k j
/-- The transitive closure of an edge relation over the events. -/
def closure (edge : Nat → Nat → Bool) (i j : Nat) : Bool := x.reach edge x.events.length i j
/-- No event reaches itself. -/
def acyclic (edge : Nat → Nat → Bool) : Bool := x.ids.all fun i => !x.closure edge i i

/-! ### Engine and launch edges (R84, R112, R113, R295) -/

/-- The command that an event belongs to. -/
def cmdOf (i : Nat) : Option Nat := (List.range x.cmds.length).find? fun n => (x.cmds.getD n (.hart 0 0, .mxclr 0 0)).1 == (x.ev i).agent
/-- The footprints of a command. -/
def cmdOp (n : Nat) : CmdOp := (x.cmds.getD n (.hart 0 0, .mxclr 0 0)).2
/-- Does R82 make command `d` wait for command `c`, which the same context posted before it? -/
def waits (c d : Nat) : Bool :=
  conflicts (x.cmdOp c) (x.cmdOp d) && (x.pairs x.po).any fun (p, q) => (x.ev p).kind == .posting c && (x.ev q).kind == .posting d
/-- Does it so, directly or through others, or are they one command? -/
def waitsFor : Nat → Nat → Nat → Bool
  | 0, c, d => c == d
  | n + 1, c, d => c == d || (List.range x.cmds.length).any fun e => x.waits c e && waitsFor n e d
/-- Does command `c` come before command `d` completes? -/
def cmdBefore (c d : Nat) : Bool := x.waitsFor x.cmds.length c d
/-- Is an event before the completion of command `n`: one of its own, or program-ordered before an `rgdone` that it counts (R84)? -/
def beforeEnd (i n : Nat) : Bool := x.cmdOf i == some n || x.ids.any fun d => x.po i d && (x.ev d).kind == .counted n
/-- Is event `j`, for an event `i`, after the completion of command `n`: of a later command that waits for it (R84); after an `rgwait` on
a placeholder that waits for it, where `i` writes (R84; log 101); or after a `sqwait` that covers it (R295)? -/
def afterEnd (i n j : Nat) : Bool :=
  (match x.cmdOf j with
   | some d => n != d && x.cmdBefore n d
   | none => false)
  || x.ids.any fun b => x.po b j && (match (x.ev b).kind with
      | .placed m => (x.ev i).writes && n != m && x.cmdBefore n m
      | .awaited ns => ns.any fun m => x.cmdBefore n m
      | _ => false)
/-- Engine order (R84, R112, R295): from every event before a posting to the events of the command, and through the completions of
commands. -/
def ef (i j : Nat) : Bool :=
  (match x.cmdOf j with
   | some d => x.ids.any fun p => x.po i p && (x.ev p).kind == .posting d
   | none => false)
  || (List.range x.cmds.length).any fun n => x.beforeEnd i n && x.afterEnd i n j

/-- Does node `m` follow node `n`: by a dependence, or in a later graph or phase (R113)? -/
def follows (n m : Nat) : Bool :=
  let a := x.nodes.getD n { graph := 0, phase := 0, deps := [] }
  let b := x.nodes.getD m { graph := 0, phase := 0, deps := [] }
  b.deps.contains n || decide (a.graph < b.graph) || (a.graph == b.graph && decide (a.phase < b.phase))
/-- Launch order (R113): from the posting of a launch to its events, from a node's events to its completion, and from that to the events
of the nodes that follow. -/
def lo (i j : Nat) : Bool :=
  (match (x.ev i).kind, (x.ev j).node with
   | .launched n, some m => n == m
   | .ended n, some m => x.follows n m
   | _, _ => false)
  || (match (x.ev i).node, (x.ev j).kind with
      | some n, .ended m => n == m
      | _, _ => false)

/-- The order within a fired entry: its firing is an acquire for its reads, and its completions are releases, the local one of its reads
and the remote one of its writes too (R173, R175). -/
def within (i j : Nat) : Bool :=
  !(x.ev i).agent.threaded && (x.ev i).agent == (x.ev j).agent && (match (x.ev i).kind, (x.ev j).kind with
    | .armed, .armed => false
    | .armed, _ => true
    | .r, .inc _ => true
    | .w, .inc true | .rmw, .inc true => true
    | _, _ => false)

/-- One edge of happens-before. -/
def hbEdge (i j : Nat) : Bool := x.po i j || x.sw i j || x.ef i j || x.lo i j || x.within i j
/-- Happens-before (R114). -/
def hb (i j : Nat) : Bool := x.closure x.hbEdge i j

/-! ## Well-formed executions -/

/-- A write enters the orders of all its bytes at one point, and the lanes of one instruction enter a byte's order in ascending lane order
(R104). -/
def enters (i j : Nat) : Bool :=
  let ls := (x.ev i).locs.filter fun l => (x.ev j).locs.contains l
  ls.all (fun l => ls.all fun l' => x.coAt l i j == x.coAt l' i j)
  && ((x.ev i).issue == 0 || (x.ev i).issue != (x.ev j).issue || (match (x.ev i).agent, (x.ev j).agent with
      | .lane _ _ _ _ _ _ a, .lane _ _ _ _ _ _ b => decide (b ≤ a) || ls.all fun l => x.coAt l i j
      | _, _ => true))
/-- The relations fit the events (R104, R110): a read takes bytes from writes of its locations, from each at least one; the coherence
order of a location holds its writes once each and no other event; the orders of the bytes of two writes agree. -/
def formed : Bool :=
  x.rf.all (fun p => (x.ev p.1).writes && ((x.ev p.2).reads || (x.ev p.2).kind == .wl true)
    && (x.ev p.2).locs.any fun l => x.source p.2 l == some p.1)
  && x.co.all (fun c => c.2.all (fun i => decide (i < x.events.length) && (x.ev i).writes && (x.ev i).locs.contains c.1 && c.2.count i == 1))
  && x.ids.all (fun i => !(x.ev i).writes || (x.ev i).locs.all fun l => (x.order l).contains i)
  && x.ids.all (fun i => !(x.ev i).writes || x.ids.all fun j => !(x.ev j).writes || x.enters i j)

/-! ## The axioms (R115) -/

/-- The locations of the execution. -/
def locations : List Nat := (x.events.flatMap (·.locs)).eraseDups
/-- One edge of what Coherence forbids a cycle of, at a location. -/
def comEdge (l i j : Nat) : Bool :=
  (x.hb i j && (x.ev i).locs.contains l && (x.ev j).locs.contains l && ((x.ev i).reads || (x.ev i).writes)
      && ((x.ev j).reads || (x.ev j).writes))
  || ((x.ev j).reads && (x.ev j).locs.contains l && x.source j l == some i)
  || x.coAt l i j || x.frAt l i j
/-- Coherence. -/
def coherence : Bool := x.locations.all fun l => x.acyclic (x.comEdge l)
/-- Atomicity: no write of the location between the one that an atomic reads and its own. -/
def atomicity : Bool :=
  x.ids.all fun u => !(x.ev u).atomic || (x.ev u).locs.all fun l => (x.order l).all fun w =>
    !(x.coAt l w u && (match x.source u l with
      | some v => x.coAt l v w
      | none => true))
/-- Causality. -/
def causality : Bool := x.ids.all fun i => !x.hb i i
/-- No thin air. -/
def noThinAir : Bool := x.acyclic fun i j => x.dep i j || x.rf.contains (i, j)
/-- Is an event an `.ar` fence? -/
def isArFence (i : Nat) : Bool :=
  match (x.ev i).kind, (x.ev i).ann with
  | .f, some (.ar, _) => true
  | _, _ => false
/-- Two `.ar` fences at inclusive scopes. -/
def arPair (i j : Nat) : Bool := i != j && x.isArFence i && x.isArFence j && x.inScope i j
/-- The order of fences. -/
def foLt (i j : Nat) : Bool := x.fo.contains i && x.fo.contains j && decide (x.fo.idxOf i < x.fo.idxOf j)
/-- A write known before a fence: its thread's, or one that its thread has read. -/
def knownBefore (w f : Nat) : Bool :=
  (x.ev w).writes && (x.po w f || x.ids.any fun r => x.po r f && (x.ev r).reads && (x.sources r).contains w)
/-- Fence order. -/
def fenceOrder : Bool :=
  (x.pairs x.arPair).all fun (i, j) =>
    (x.foLt i j != x.foLt j i) && (!x.hb i j || x.foLt i j)
    && (!x.foLt i j || x.ids.all fun w => !x.knownBefore w i || x.ids.all fun q =>
          !(x.po j q && (x.ev q).reads) || (x.ev w).locs.all fun l => !(x.ev q).locs.contains l
            || (match x.source q l with
                | some v => v == w || x.coAt l w v
                | none => false))
/-- Watch: the write that a confirmed watched load reads is not after it. -/
def watch : Bool :=
  x.ids.all fun i => (x.ev i).kind != .wl false || (x.sources i).all fun w => !x.hb i w

/-- The execution is allowed (R115). -/
def allowed : Bool := x.formed && x.coherence && x.atomicity && x.causality && x.noThinAir && x.fenceOrder && x.watch

/-! ## Data races (R116) -/

/-- Two accesses of different threads to one location, one of them a write. -/
def conflict (i j : Nat) : Bool :=
  i != j && (x.ev i).agent != (x.ev j).agent && ((x.ev i).writes || (x.ev j).writes) && (x.ev i).locs.any fun l => (x.ev j).locs.contains l
/-- The events lie in one total order, that of their numbers, consistent with po, rf and co. -/
def inOrder : Bool :=
  (x.pairs x.po).all (fun p => decide (p.1 < p.2))
  && x.rf.all (fun p => decide (p.1 < p.2)) && x.co.all (fun c => (List.range c.2.length).all fun i => c.2.getD i 0 < c.2.getD (i + 1) x.events.length)
/-- Every conflict is ordered by happens-before. -/
def raceFree : Bool := (x.pairs x.conflict).all fun (i, j) => x.hb i j || x.hb j i
/-- The execution is sequentially consistent: in some order of its events that agrees with program order, every read takes the value of
the last earlier write to its locations. -/
def SeqConsistent : Prop :=
  ∃ at' : Nat → Nat, (∀ i j, at' i = at' j → i = j) ∧ (∀ i j, x.po i j = true → at' i < at' j)
    ∧ ∀ r l, (x.ev r).reads = true → l ∈ (x.ev r).locs →
        (∀ w, x.source r l = some w → at' w < at' r ∧ ∀ v ∈ x.order l, v ≠ w → at' v < at' r → v ≠ r → at' v < at' w)
        ∧ (x.source r l = none → ∀ v ∈ x.order l, v ≠ r → at' r < at' v)

end Exec

/-- A program, as the set of its executions, is data-race-free at inclusive scopes (R116). -/
def DataRaceFree (p : Exec → Prop) : Prop := ∀ x, p x → x.formed = true → x.inOrder = true → x.raceFree = true

end Sys2Proof.Machine
end

