-- ==== Sys2Proof/Safety.lean ====
section
/-!
DEFINITION. The terms in which statements speak of a run: when an instruction issues and performs its own effect, what it is to
complete, what it leaves unchanged, and the invariants of the machine.
-/
namespace Sys2Proof

/-- Is a row an event of the device, an input or a request, and no instruction word that a split issues? -/
def Instr.event (i : Instr) : Bool :=
  match i with
  | .illegal _ => false
  | _ => !i.hasWord

end Sys2Proof

namespace Sys2Proof.Machine

/-! ## Issue and completion -/

/-- Instruction `i` is at issue in `s` as `c` and performs its own effect: a split issues it for the first time, no interlock holds it
(R201), and none of the common faults of R216 applies. -/
def State.issues (s : State) (i : Instr) (c : Ctx) : Prop :=
  s.ctx? i = some c ∧ c.e < c.x.splits.length ∧ c.again = false ∧ s.interlocked c i = false ∧ s.commonFault c i = none

/-- Thread `y` is thread `x` after its entry `c.e` has moved on to the next instruction in issue order: the streams that the
instruction names have advanced once (R23), the entry's pc is the next address, its stall count runs (R196), its signature has
counted the word or starts again (R233), and the strand is yielding where it leaves a bundle that says so (R194). -/
def Ctx.movesOn (c : Ctx) (s : State) (i : Instr) (x y : Thread) : Prop :=
  y = { x with streams := (x.advanceAll (opndStreams (c.opnds i))).streams, splits := y.splits,
               yielding := x.yielding || leavesBundle c c.npc }
  ∧ y.splits.length = x.splits.length
  ∧ (∀ e, e ≠ c.e → y.split e = x.split e)
  ∧ y.split c.e = { x.split c.e with pc := c.npc, stall := max (x.split c.e).stall (stallUntil s.cycle c.stall),
                                     sig := nextSig (s.signetOn c.x.launch) i c (x.split c.e).sig true }

/-- `i` completes in `s'` and moves on: the next state is `s'` but for the issuer latch, now empty, and the issuing thread, which
has moved on from its record in `s'`. -/
def CompletesIn (i : Instr) (s : State) (c : Ctx) (s' : State) : Prop :=
  ∃ x y, s'.thread? c.t = some x ∧ exec i s = .next { s' with iss := none, threads := SMap.put s'.threads c.t y }
    ∧ c.movesOn s i x y

/-- `i` completes and moves on, having changed its own thread only, by `f`: every other field of the state, and with them every byte
of memory, of every cache and of every scratchpad, is as before. -/
def Completes (i : Instr) (s : State) (c : Ctx) (f : Thread → Thread) : Prop :=
  ∃ y, exec i s = .next { s with iss := none, threads := SMap.put s.threads c.t y } ∧ c.movesOn s i (f c.x) y

/-- `i` performs its effect, which comes to `d`: with `.fall s'` it completes in `s'` and moves on to the next instruction in issue
order, with `.jump s' …` it completes in `s'` with its own addresses, with `.ends s'` its entry is gone, with `.later s' …` it has
issued and its access is under way from `s'`, and with `.hold` it waits at issue. -/
def Ends (i : Instr) (s : State) (c : Ctx) (d : Done) : Prop := exec i s = .next (s.close i c d)

/-- `i` takes an exception: its effect is not performed. -/
def Raises (i : Instr) (s : State) (c : Ctx) (f : FInfo) : Prop := exec i s = .next (s.raise c f)

/-! ## Results -/

/-- A thread with one result written: at once for latency 0 (class V), else pending until `lat` cycles after the issue (R201). -/
def Ctx.result (c : Ctx) (s : State) (lat : Nat) (d : PDst) (m : Mask) (f : Nat → Word) (x : Thread) : Thread :=
  if lat = 0 then x.now d m (destVals d m f) else x.later (s.cycle + lat) c.act d m (destVals d m f)

/-- A thread with the upper half of a pair written, which the lower half's result has made whole: in a pair of k registers the word
that both halves lie in keeps no poison (R353). -/
def Ctx.resultHi (c : Ctx) (s : State) (lat : Nat) (d : PDst) (m : Mask) (f : Nat → Word) (x : Thread) : Thread :=
  if lat = 0 then x.now d m (hiVals d m f) else x.later (s.cycle + lat) c.act d m (hiVals d m f)

/-- `i` writes register `d` with `f` of each participating lane, `lat` cycles after the issue, and nothing else. -/
def Result (i : Instr) (s : State) (c : Ctx) (lat : Nat) (d : Reg) (f : Nat → Word) : Prop :=
  Completes i s c (c.result s lat (d.dst c.x.winBase 0) c.lanes f)

/-- `i` writes the pair `d` with `f` of each participating lane, low half first in the pair (R18), and nothing else. -/
def Result64 (i : Instr) (s : State) (c : Ctx) (lat : Nat) (d : Reg) (f : Nat → DWord) : Prop :=
  Completes i s c fun x =>
    c.resultHi s lat (d.dst c.x.winBase 1) c.lanes (fun l => (f l).extractLsb' 32 32)
      (c.result s lat (d.dst c.x.winBase 0) c.lanes (fun l => (f l).extractLsb' 0 32) x)

/-- `i` writes predicate `p` with `f` of each participating lane, and nothing else; a write to p0 is discarded (R19). -/
def ResultP (i : Instr) (s : State) (c : Ctx) (lat : Nat) (p : Fin 8) (f : Nat → Bool) : Prop :=
  Completes i s c (c.result s lat (.p p.val) c.lanes fun l => if f l then 1 else 0)

/-! ## Invariants -/

/-- The memory keeps its canonical form. -/
def State.memoryOk (s : State) : Prop := Memory.wf s.mem = true

end Sys2Proof.Machine
end

