-- ==== Sys2Proof/Certificates/Slice0/Obligations.lean ====
section
/-!
DEFINITION. The statements for the provers. Helper predicates of the statements come first; each obligation's docstring names the
rules of spec/ it formalises.
-/
namespace Sys2Proof.Spec
open Sys2Proof.Machine

/-! ## Shapes of results -/

/-- `mk pg d a b` writes d with `f a b` in each participating lane, `lat` cycles after its issue. -/
def Alu2 (mk : Guard → Reg → Reg → Reg → Instr) (lat : Nat) (f : Word → Word → Word) : Prop :=
  ∀ (s : State) (c : Ctx) (pg : Guard) (d a b : Reg), s.issues (mk pg d a b) c →
    Result (mk pg d a b) s c lat d fun l => f (c.x.get a l) (c.x.get b l)

/-- As `Alu2`, of one source. -/
def Alu1 (mk : Guard → Reg → Reg → Instr) (lat : Nat) (f : Word → Word) : Prop :=
  ∀ (s : State) (c : Ctx) (pg : Guard) (d a : Reg), s.issues (mk pg d a) c →
    Result (mk pg d a) s c lat d fun l => f (c.x.get a l)

/-- As `Alu2`, where d is also read: `f d a b`. -/
def Alu3 (mk : Guard → Reg → Reg → Reg → Instr) (lat : Nat) (f : Word → Word → Word → Word) : Prop :=
  ∀ (s : State) (c : Ctx) (pg : Guard) (d a b : Reg), s.issues (mk pg d a b) c →
    Result (mk pg d a b) s c lat d fun l => f (c.x.get d l) (c.x.get a l) (c.x.get b l)

/-- As `Alu2`, into a pair. -/
def Wide (mk : Guard → Reg → Reg → Reg → Instr) (lat : Nat) (f : Ctx → Reg → Reg → Reg → Nat → DWord) : Prop :=
  ∀ (s : State) (c : Ctx) (pg : Guard) (d a b : Reg), s.issues (mk pg d a b) c →
    Result64 (mk pg d a b) s c lat d (f c d a b)

/-- An integer clamped to a range. -/
def clamp (lo hi x : Int) : Word := BitVec.ofInt 32 (max lo (min hi x))

/-- The bits of a word that a bit field takes: POS and n of R219, or none. -/
def field (b : Word) : Option (Nat × Nat) :=
  let pos := b.toNat % 256
  let len := b.toNat / 256 % 256
  if len = 0 ∨ 32 ≤ pos then none else some (pos, min len (32 - pos))

/-- Byte i of `bmix` (R219), from a and from d as it stood. -/
def mixByte (z x y : Word) (i : Nat) : BitVec 8 :=
  let f := y.toNat / 2 ^ (6 * i) % 64
  let src := if f / 4 % 2 = 0 then x else z
  let b := src.extractLsb' (8 * (f % 4)) 8
  if f / 8 % 4 = 0 then b else if f / 8 % 4 = 1 then ~~~b else if f / 8 % 4 = 2 ∧ b.toNat ≥ 128 then 0xFF else 0

/-- An integer comparison by its condition, signed or unsigned (R204, R223). -/
def compare (cc : Cmp) (sg : Bool) (x y : Word) : Bool :=
  let lt : Bool := if sg then x.toInt < y.toInt else x.toNat < y.toNat
  match cc with
  | .eq => x == y
  | .ne => x != y
  | .lt => lt
  | .le => lt || x == y
  | .gt => !(lt || x == y)
  | .ge => !lt

end Sys2Proof.Spec

open Sys2Proof Sys2Proof.Machine Sys2Proof.Spec

/-! ## Integer and logic (chapter 14) -/

/-- R218: every row of its table (its rows of R219 by R219's text). A result is written in the participating lanes, 2 cycles (class
A), 4 cycles (class B) or at once (class V) after the issue (R201), and nothing else of the machine changes but the issuing
entry. -/
def Obligations.IntegerAndLogicTable : Prop :=
  Alu2 .iadd 2 (fun x y => x + y) ∧ Alu2 .isub 2 (fun x y => x - y)
  ∧ (∀ (s : State) (c : Ctx) (pg : Guard) (d a : Reg) (n : BitVec 7), s.issues (.iaddi pg d a n) c →
      Result (.iaddi pg d a n) s c 2 d fun l => c.x.get a l + n.signExtend 32)
  ∧ Alu2 .imul 4 (fun x y => x * y) ∧ Alu3 .imad 4 (fun z x y => x * y + z)
  ∧ Alu2 (.imulhi true) 4 (fun x y => (BitVec.ofInt 64 (x.toInt * y.toInt)).extractLsb' 32 32)
  ∧ Alu2 (.imulhi false) 4 (fun x y => (BitVec.ofNat 64 (x.toNat * y.toNat)).extractLsb' 32 32)
  ∧ Wide (.imulw true) 4 (fun c _ a b l => BitVec.ofInt 64 ((c.x.get a l).toInt * (c.x.get b l).toInt))
  ∧ Wide (.imulw false) 4 (fun c _ a b l => BitVec.ofNat 64 ((c.x.get a l).toNat * (c.x.get b l).toNat))
  ∧ Alu2 (.iaddSat true) 2 (fun x y => clamp (-2 ^ 31) (2 ^ 31 - 1) (x.toInt + y.toInt))
  ∧ Alu2 (.iaddSat false) 2 (fun x y => clamp 0 (2 ^ 32 - 1) ((x.toNat : Int) + y.toNat))
  ∧ Alu2 (.isubSat true) 2 (fun x y => clamp (-2 ^ 31) (2 ^ 31 - 1) (x.toInt - y.toInt))
  ∧ Alu2 (.isubSat false) 2 (fun x y => clamp 0 (2 ^ 32 - 1) ((x.toNat : Int) - y.toNat))
  ∧ Alu2 (.imin true) 2 (fun x y => if y.toInt < x.toInt then y else x)
  ∧ Alu2 (.imin false) 2 (fun x y => if y.toNat < x.toNat then y else x)
  ∧ Alu2 (.imax true) 2 (fun x y => if x.toInt < y.toInt then y else x)
  ∧ Alu2 (.imax false) 2 (fun x y => if x.toNat < y.toNat then y else x)
  ∧ Alu1 .iabs 2 (fun x => BitVec.ofInt 32 |x.toInt|) ∧ Alu1 .ineg 2 (fun x => 0 - x) ∧ Alu1 .not 2 (fun x => ~~~x)
  ∧ Alu2 .and 2 (fun x y => x &&& y) ∧ Alu2 .or 2 (fun x y => x ||| y) ∧ Alu2 .xor 2 (fun x y => x ^^^ y)
  ∧ Alu2 .andn 2 (fun x y => x &&& ~~~y)
  ∧ Alu2 .shl 2 (fun x y => x <<< y.toNat) ∧ Alu2 .shr 2 (fun x y => x >>> y.toNat) ∧ Alu2 .sar 2 (fun x y => x.sshiftRight y.toNat)
  ∧ (∀ (s : State) (c : Ctx) (pg : Guard) (d a : Reg) (n : BitVec 5),
      (s.issues (.shli pg d a n) c → Result (.shli pg d a n) s c 2 d fun l => c.x.get a l <<< n.toNat)
      ∧ (s.issues (.shri pg d a n) c → Result (.shri pg d a n) s c 2 d fun l => c.x.get a l >>> n.toNat)
      ∧ (s.issues (.sari pg d a n) c → Result (.sari pg d a n) s c 2 d fun l => (c.x.get a l).sshiftRight n.toNat))
  ∧ Alu1 .popc 0 (fun x => BitVec.ofNat 32 ((List.range 32).filter fun i => x.getLsbD i).length)
  ∧ Alu1 .clz 0 (fun x => BitVec.ofNat 32 ((List.range 32).takeWhile fun i => !x.getLsbD (31 - i)).length)
  ∧ Alu1 .ctz 0 (fun x => BitVec.ofNat 32 ((List.range 32).takeWhile fun i => !x.getLsbD i).length)
  ∧ Alu1 .brev 0 (fun x => x.reverse)

/-- R219: division, bit fields and byte mixing. -/
def Sys2Proof.Spec.DivisionFieldsAndMixing : Prop :=
  Alu2 (.idiv true) 0 (fun x y => if y = 0 then 0xFFFFFFFF else BitVec.ofInt 32 (x.toInt.tdiv y.toInt))
  ∧ Alu2 (.idiv false) 0 (fun x y => if y = 0 then 0xFFFFFFFF else BitVec.ofNat 32 (x.toNat / y.toNat))
  ∧ Alu2 (.irem true) 0 (fun x y => if y = 0 then x else BitVec.ofInt 32 (x.toInt.tmod y.toInt))
  ∧ Alu2 (.irem false) 0 (fun x y => if y = 0 then x else BitVec.ofNat 32 (x.toNat % y.toNat))
  ∧ Alu2 (.bfx false) 4 (fun x y => match field y with
      | none => 0
      | some (pos, n) => BitVec.ofNat 32 (x.toNat / 2 ^ pos % 2 ^ n))
  ∧ Alu2 (.bfx true) 4 (fun x y => match field y with
      | none => 0
      | some (pos, n) =>
        let v := x.toNat / 2 ^ pos % 2 ^ n
        BitVec.ofInt 32 (if v < 2 ^ (n - 1) then (v : Int) else v - 2 ^ n))
  ∧ Alu3 .bfi 4 (fun z x y => match field y with
      | none => z
      | some (pos, n) => maskOf fun i => if pos ≤ i ∧ i < pos + n then x.getLsbD (i - pos) else z.getLsbD i)
  ∧ Alu3 .bmix 4 (fun z x y => Spec.mixByte z x y 3 ++ Spec.mixByte z x y 2 ++ Spec.mixByte z x y 1 ++ Spec.mixByte z x y 0)

/-- R221, R222: `sel` and the moves. `sel` and `movh` write every active lane (`c.lanes` is the active lanes of an instruction
without a guard). -/
def Sys2Proof.Spec.SelectAndMoves : Prop :=
  (∀ (s : State) (c : Ctx) (pg : Guard) (d a b : Reg), s.issues (.sel pg d a b) c → c.lanes = c.act
      ∧ Result (.sel pg d a b) s c 2 d fun l => if c.x.preg pg.p.val l != pg.neg then c.x.get a l else c.x.get b l)
  ∧ Alu1 .mov 2 (fun x => x)
  ∧ (∀ (s : State) (c : Ctx) (pg : Guard) (d : Reg) (n : BitVec 14), s.issues (.movi pg d n) c →
      Result (.movi pg d n) s c 2 d fun _ => n.signExtend 32)
  ∧ (∀ (s : State) (c : Ctx) (d : Reg) (h : BitVec 18), s.issues (.movh d h) c → c.lanes = c.act
      ∧ Result (.movh d h) s c 2 d fun l => h ++ (c.x.get d l).extractLsb' 0 14)
  ∧ (∀ (s : State) (c : Ctx) (pg : Guard) (d : Reg) (sel : BitVec 8), s.issues (.movs pg d sel) c →
      Result (.movs pg d sel) s c 2 d fun l => s.special c sel.toNat l)

/-- R30: the special registers that `movs` reads, of a thread whose gang and launch are in the machine (`nx`, `ny` the launch's
extents in gangs). -/
def Sys2Proof.Spec.SpecialRegisters : Prop :=
  ∀ (s : State) (c : Ctx) (l : Nat) (g : Gang) (la : Launch) (k : Kernel), s.gang? c.x.gang = some g → s.launch? c.x.launch = some la →
    s.kernel? la.kernel = some k →
    let r (n : Nat) : Word := s.special c n l
    r 0x00 = BitVec.ofNat 32 l ∧ r 0x01 = c.act ∧ r 0x02 = BitVec.ofNat 32 c.x.strand ∧ r 0x03 = BitVec.ofNat 32 k.strands
    ∧ (c.x.seq = false → r 0x04 = BitVec.ofNat 32 c.x.group) ∧ (c.x.seq = true → r 0x04 = 0)
    ∧ r 0x05 = BitVec.ofNat 32 g.groups.length
    ∧ r 0x06 = BitVec.ofNat 32 (g.index % la.nx) ∧ r 0x07 = BitVec.ofNat 32 (g.index / la.nx % la.ny)
    ∧ r 0x08 = BitVec.ofNat 32 (g.index / (la.nx * la.ny))
    ∧ r 0x09 = BitVec.ofNat 32 la.nx ∧ r 0x0A = BitVec.ofNat 32 la.ny ∧ r 0x0B = BitVec.ofNat 32 la.nz
    ∧ r 0x0C = BitVec.ofNat 32 c.x.launch ∧ r 0x0D = BitVec.ofNat 32 c.x.quad ∧ r 0x0E = BitVec.ofNat 32 c.x.core
    ∧ r 0x0F = BitVec.ofNat 32 c.x.cluster ∧ r 0x10 = BitVec.ofNat 32 c.x.die
    ∧ r 0x11 = BitVec.ofNat 32 (s.fab.eps.getD c.x.die 0) ∧ r 0x12 = BitVec.ofNat 32 c.x.winBase ∧ r 0x13 = BitVec.ofNat 32 c.x.regs
    ∧ r 0x14 = (if la.drainAt.isSome then 1 else 0)
    ∧ r 0x18 = c.x.fault.setWidth 32 ∧ r 0x19 = BitVec.ofNat 32 c.x.faultpc ∧ r 0x1A = BitVec.ofNat 32 (c.x.faultpc / 2 ^ 32)
    ∧ r 0x1B = c.x.faultinfo

/-- R30, R221, R222: selects, moves and reads of special registers. -/
def Obligations.SelectsMovesAndRegisters : Prop := Spec.SelectAndMoves ∧ Spec.SpecialRegisters

/-- R223, R224: compares write a predicate, pair operations a pair. -/
def Sys2Proof.Spec.ComparesAndPairs : Prop :=
  (∀ (s : State) (c : Ctx) (cc : Cmp) (sg : Bool) (pg : Guard) (pd : Fin 8) (a b : Reg), s.issues (.icmp cc sg pg pd a b) c →
      ResultP (.icmp cc sg pg pd a b) s c 2 pd fun l => Spec.compare cc sg (c.x.get a l) (c.x.get b l))
  ∧ (∀ (s : State) (c : Ctx) (cc : Cmp) (sg : Bool) (pg : Guard) (pd : Fin 8) (a : Reg) (n : BitVec 7),
      s.issues (.icmpi cc sg pg pd a n) c →
      ResultP (.icmpi cc sg pg pd a n) s c 2 pd fun l => Spec.compare cc sg (c.x.get a l) (n.signExtend 32))
  ∧ Wide .add64 2 (fun c _ a b l => c.x.get64 a l + c.x.get64 b l)
  ∧ Wide .sub64 2 (fun c _ a b l => c.x.get64 a l - c.x.get64 b l)
  ∧ (∀ (s : State) (c : Ctx) (pg : Guard) (d a : Reg) (n : BitVec 5), s.issues (.lea pg d a n) c →
      Result64 (.lea pg d a n) s c 2 d fun l => c.x.get64 d l + BitVec.ofNat 64 ((c.x.get a l).toNat * 2 ^ n.toNat))
  ∧ Wide .shl64 2 (fun c _ a b l => c.x.get64 a l <<< (c.x.get b l).toNat)
  ∧ Wide .shr64 2 (fun c _ a b l => c.x.get64 a l >>> (c.x.get b l).toNat)

/-- R219, R223, R224: division, bit fields, byte mixing, compares and pair operations. -/
def Obligations.DivisionFieldsMixingComparesAndPairs : Prop := Spec.DivisionFieldsAndMixing ∧ Spec.ComparesAndPairs

/-! ## Floating point, conversion and lanes (chapters 4 and 15) -/

namespace Sys2Proof.Spec

/-- The rational number of a value that is one. -/
def rat : FVal → ℚ
  | .fin n m e => (if n then -1 else 1) * (m : ℚ) * (2 : ℚ) ^ e
  | _ => 0

/-- The floating-point formats of R57, R62 and R63. -/
def formats : List FFmt := [fp32, fp16, bf16, e4m3, e5m2]

/-- An encoding of the format that is a finite number. -/
def finite (f : FFmt) (y : Nat) : Prop := y < 2 * f.signBit ∧ f.mag y ≤ f.maxMag

/-- `r` is the finite encoding to which a mode maps the number x (R59). -/
def RoundsTo (f : FFmt) (mode : RMode) (x : ℚ) (r : Nat) : Prop :=
  match mode with
  | .rne => ∀ y, finite f y → |rat (f.value r) - x| ≤ |rat (f.value y) - x|
      ∧ (|rat (f.value r) - x| = |rat (f.value y) - x| → rat (f.value y) = rat (f.value r) ∨ r % 2 = 0)
  | .rz => |rat (f.value r)| ≤ |x| ∧ ∀ y, finite f y → |rat (f.value y)| ≤ |x| → |rat (f.value r) - x| ≤ |rat (f.value y) - x|
  | .rdn => rat (f.value r) ≤ x ∧ ∀ y, finite f y → rat (f.value y) ≤ x → rat (f.value y) ≤ rat (f.value r)
  | .rup => x ≤ rat (f.value r) ∧ ∀ y, finite f y → x ≤ rat (f.value y) → rat (f.value r) ≤ rat (f.value y)

/-- `r` is the positive finite encoding nearest to the positive root 1 / √x, or √x where `inv` is not set, by the mode: compared with the
square of the point halfway to every other, or of the other itself. -/
def RootTo (f : FFmt) (mode : RMode) (inv : Bool) (x : ℚ) (r : Nat) : Prop :=
  let above (q : ℚ) : Prop := if inv then 1 ≤ q ^ 2 * x else x ≤ q ^ 2
  let below (q : ℚ) : Prop := if inv then q ^ 2 * x ≤ 1 else q ^ 2 ≤ x
  0 < rat (f.value r) ∧ ∀ y, finite f y → 0 ≤ rat (f.value y) →
    match mode with
    | .rne => (rat (f.value r) < rat (f.value y) → above ((rat (f.value r) + rat (f.value y)) / 2))
        ∧ (rat (f.value y) < rat (f.value r) → below ((rat (f.value r) + rat (f.value y)) / 2))
    | .rz | .rdn => below (rat (f.value r)) ∧ (rat (f.value r) < rat (f.value y) → ¬ below (rat (f.value y)))
    | .rup => above (rat (f.value r)) ∧ (rat (f.value y) < rat (f.value r) → ¬ above (rat (f.value y)))

/-- The integer to which a mode takes the number x. -/
def IntegerOf (mode : RMode) (x : ℚ) (n : Int) : Prop :=
  match mode with
  | .rne => |(n : ℚ) - x| ≤ 1 / 2 ∧ (|(n : ℚ) - x| = 1 / 2 → n % 2 = 0)
  | .rz => |(n : ℚ)| ≤ |x| ∧ |x| < |(n : ℚ)| + 1 ∧ 0 ≤ (n : ℚ) * x
  | .rdn => (n : ℚ) ≤ x ∧ x < n + 1
  | .rup => x ≤ (n : ℚ) ∧ (n : ℚ) < x + 1

/-- One operation of the float control word (R59, R60, R241): operands flushed, the exact result rounded once, the result flushed. -/
def once (f : FFmt) (m : RMode) (z : Bool) (g : FVal → FVal → FVal) (x y : Nat) : Nat :=
  f.flush z (f.round m false (g (f.value (f.flush z x)) (f.value (f.flush z y))))

/-- `mk pg d a b` writes an FP32 result of a and b under the control word. -/
def Float2 (mk : Guard → Reg → Reg → Reg → Instr) (lat : Nat) (f : RMode → Bool → Nat → Nat → Nat) : Prop :=
  ∀ (s : State) (c : Ctx) (pg : Guard) (d a b : Reg), s.issues (mk pg d a b) c →
    Result (mk pg d a b) s c lat d fun l => BitVec.ofNat 32 (f c.x.rm c.x.ftz (c.x.get a l).toNat (c.x.get b l).toNat)

/-- `mk pg d a` writes an FP32 result of a. -/
def Float1 (mk : Guard → Reg → Reg → Instr) (lat : Nat) (f : RMode → Bool → Nat → Nat) : Prop :=
  ∀ (s : State) (c : Ctx) (pg : Guard) (d a : Reg), s.issues (mk pg d a) c →
    Result (mk pg d a) s c lat d fun l => BitVec.ofNat 32 (f c.x.rm c.x.ftz (c.x.get a l).toNat)

/-- `mk pg d a b` writes both halves of a packed-half result, each from the halves of a and b alone (R248). -/
def Half2 (mk : Guard → Reg → Reg → Reg → Instr) (f : RMode → Bool → Nat → Nat → Nat) : Prop :=
  ∀ (s : State) (c : Ctx) (pg : Guard) (d a b : Reg), s.issues (mk pg d a b) c →
    Result (mk pg d a b) s c 6 d fun l =>
      let h (i : Nat) : Nat := f c.x.rm c.x.ftz ((c.x.get a l).toNat / 65536 ^ i % 65536) ((c.x.get b l).toNat / 65536 ^ i % 65536)
      BitVec.ofNat 32 (h 0 + 65536 * h 1)

end Sys2Proof.Spec

/-- R59: a nonzero number whose rounded result does not overflow becomes, in every format and mode, the representable value that the
mode names. -/
def Sys2Proof.Spec.RoundingIsTheModesValue : Prop :=
  ∀ (f : FFmt) (mode : RMode) (neg : Bool) (m : Nat) (e : Int), f ∈ formats → 0 < m →
    finite f (f.round mode false (.fin neg m e)) →
    f.round mode false (.fin neg m e) ≠ f.nan →
    (f.inf = false → f.mag (f.round mode false (.fin neg m e)) < f.maxMag) →
    (mode = .rne ∨ mode = .rz → f.mag (f.round mode false (.fin neg m e)) < f.maxMag) →
    RoundsTo f mode (rat (.fin neg m e)) (f.round mode false (.fin neg m e))

/-- R240: the exact results of a sum, a product, a product plus d and a scaling are the numbers they are named for. -/
def Sys2Proof.Spec.ExactArithmetic : Prop :=
  ∀ (mode : RMode) (a b d : Bool) (m n k : Nat) (e h j i : Int),
    rat (FVal.add mode (.fin a m e) (.fin b n h)) = rat (.fin a m e) + rat (.fin b n h)
    ∧ rat (FVal.mul (.fin a m e) (.fin b n h)) = rat (.fin a m e) * rat (.fin b n h)
    ∧ rat (FVal.fma mode (.fin a m e) (.fin b n h) (.fin d k j)) = rat (.fin a m e) * rat (.fin b n h) + rat (.fin d k j)
    ∧ rat (FVal.scale i (.fin a m e)) = rat (.fin a m e) * 2 ^ i

/-- R59, R240: quotients and square roots of FP32 encodings are rounded once, as the exact ones. -/
def Sys2Proof.Spec.QuotientsAndRoots : Prop :=
  ∀ (mode : RMode) (x y : Nat), x < 2 ^ 32 → y < 2 ^ 32 → finite fp32 x → finite fp32 y → rat (fp32.value x) ≠ 0 → rat (fp32.value y) ≠ 0 →
    let q := fp32.round mode false (FVal.div (fp32.value x) (fp32.value y))
    (fp32.mag q < fp32.maxMag → RoundsTo fp32 mode (rat (fp32.value x) / rat (fp32.value y)) q)
    ∧ (0 < rat (fp32.value x) → RootTo fp32 mode false (rat (fp32.value x)) (fp32.round mode false (FVal.sqrt (fp32.value x))))

/-- R58, R241: the operand cases that have no exact real result, and the signs of zeros, in every format. -/
def Sys2Proof.Spec.FloatOperandCases : Prop :=
  ∀ (f : FFmt) (mode : RMode) (x y : FVal) (a b : Bool) (m n : Nat) (e h : Int), f ∈ formats →
    f.round mode false .nan = f.nan
    ∧ FVal.add mode .nan x = .nan ∧ FVal.add mode x .nan = .nan ∧ FVal.mul .nan x = .nan ∧ FVal.mul x .nan = .nan
    ∧ FVal.div .nan x = .nan ∧ FVal.div x .nan = .nan ∧ FVal.sqrt .nan = .nan
    ∧ FVal.fma mode .nan x y = .nan ∧ FVal.fma mode x .nan y = .nan ∧ FVal.fma mode x y .nan = .nan
    ∧ FVal.add mode (.inf true) (.inf false) = .nan ∧ FVal.add mode (.inf false) (.inf true) = .nan
    ∧ FVal.add mode (.inf a) (.fin b m e) = .inf a ∧ FVal.add mode (.fin b m e) (.inf a) = .inf a
    ∧ FVal.mul (.inf a) (.fin b 0 e) = .nan ∧ FVal.mul (.fin b 0 e) (.inf a) = .nan
    ∧ FVal.fma mode (.inf a) (.fin b 0 e) y = .nan
    ∧ (0 < m → FVal.mul (.inf a) (.fin b m e) = .inf (a != b))
    ∧ FVal.div (.fin a 0 e) (.fin b 0 h) = .nan ∧ FVal.div (.inf a) (.inf b) = .nan
    ∧ (0 < m → FVal.div (.fin a m e) (.fin b 0 h) = .inf (a != b))
    ∧ FVal.div (.fin a m e) (.inf b) = .fin (a != b) 0 0
    ∧ FVal.sqrt (.inf true) = .nan ∧ FVal.sqrt (.inf false) = .inf false ∧ FVal.sqrt (.fin a 0 e) = .fin a 0 0
    ∧ (0 < m → FVal.sqrt (.fin true m e) = .nan)
    ∧ FVal.add mode (.fin a 0 e) (.fin a 0 h) = .fin a 0 0
    ∧ FVal.add mode (.fin a 0 e) (.fin (!a) 0 h) = .fin (mode == .rdn) 0 0
    ∧ (0 < m → FVal.add mode (.fin a m e) (.fin (!a) m e) = .fin (mode == .rdn) 0 0)
    ∧ (m * n = 0 → FVal.mul (.fin a m e) (.fin b n h) = .fin (a != b) 0 (e + h))

/-- R58, R59, R240, R241: rounding, exact arithmetic, quotients and roots, and the operands without an exact result. -/
def Obligations.RoundingAndFloatOperands : Prop := Spec.RoundingIsTheModesValue ∧ Spec.ExactArithmetic ∧ Spec.QuotientsAndRoots ∧ Spec.FloatOperandCases

/-- R240 to R246: the FP32 instructions. Class C results are written 6 cycles after the issue, `fabs` and `fneg` 2, `fdiv` and `sqrt`
at once; the control word is the strand's at the issue. -/
def Obligations.FloatInstructions : Prop :=
  Float2 .fadd 6 (fun m z => once fp32 m z (FVal.add m))
  ∧ Float2 .fsub 6 (fun m z => once fp32 m z fun u v => FVal.add m u v.negate)
  ∧ Float2 .fmul 6 (fun m z => once fp32 m z FVal.mul)
  ∧ Float2 .fdiv 0 (fun m z => once fp32 m z FVal.div)
  ∧ (∀ (s : State) (c : Ctx) (pg : Guard) (d a b : Reg), s.issues (.ffma pg d a b) c →
      Result (.ffma pg d a b) s c 6 d fun l =>
        let v (r : Reg) : FVal := fp32.value (fp32.flush c.x.ftz (c.x.get r l).toNat)
        BitVec.ofNat 32 (fp32.flush c.x.ftz (fp32.round c.x.rm false (FVal.fma c.x.rm (v a) (v b) (v d)))))
  ∧ Float1 .sqrt 0 (fun m z x => fp32.flush z (fp32.round m false (fp32.value (fp32.flush z x)).sqrt))
  ∧ (∀ (s : State) (c : Ctx) (pg : Guard) (d a b : Reg), s.issues (.fscale pg d a b) c →
      Result (.fscale pg d a b) s c 6 d fun l => BitVec.ofNat 32 (fp32.flush c.x.ftz (fp32.round c.x.rm false
        ((fp32.value (fp32.flush c.x.ftz (c.x.get a l).toNat)).scale (c.x.get b l).toInt))))
  ∧ Float2 .fmin 6 (fun _ z x y => fp32.pick z false x y) ∧ Float2 .fmax 6 (fun _ z x y => fp32.pick z true x y)
  ∧ Float1 .fabs 2 (fun _ _ x => if fp32.isNan x then 0x7FC00000 else x % 2 ^ 31)
  ∧ Float1 .fneg 2 (fun _ _ x => if fp32.isNan x then 0x7FC00000 else x % 2 ^ 31 + (if x < 2 ^ 31 then 2 ^ 31 else 0))
  ∧ (∀ (s : State) (c : Ctx) (cc : FCmp) (pg : Guard) (pd : Fin 8) (a b : Reg), s.issues (.fcmp cc pg pd a b) c →
      ResultP (.fcmp cc pg pd a b) s c 6 pd fun l => fcmpHolds cc c.x.ftz (c.x.get a l).toNat (c.x.get b l).toNat)
  ∧ (∀ (s : State) (c : Ctx) (rm : Option RMode) (pg : Guard) (d a : Reg), s.issues (.frint rm pg d a) c →
      Result (.frint rm pg d a) s c 6 d fun l => BitVec.ofNat 32 (fp32.round (rm.getD c.x.rm) false
        ((fp32.value (fp32.flush c.x.ftz (c.x.get a l).toNat)).toIntegral (rm.getD c.x.rm))))
  ∧ (∀ (s : State) (c : Ctx) (pg : Guard) (d a : Reg), s.issues (.fclass pg d a) c →
      Result (.fclass pg d a) s c 6 d fun l => BitVec.ofNat 32 (2 ^ classBit c.x.ftz (c.x.get a l).toNat))

/-- R242, R244, R246 on encodings of FP32: what `fmin`, `fmax`, `fcmp` and `fclass` answer, without flush. -/
def Obligations.FloatChoiceAndCompare : Prop :=
  ∀ x y : Nat, x < 2 ^ 32 → y < 2 ^ 32 →
    (fp32.isNan x = true → fp32.isNan y = true → fp32.pick false false x y = 0x7FC00000 ∧ fp32.pick false true x y = 0x7FC00000)
    ∧ (fp32.isNan x = true → fp32.isNan y = false → fp32.pick false false x y = y ∧ fp32.pick false true x y = y)
    ∧ (fp32.isNan x = false → fp32.isNan y = true → fp32.pick false false x y = x ∧ fp32.pick false true x y = x)
    ∧ (fp32.isNan x = false → fp32.isNan y = false →
        (fp32.pick false false x y = x ∨ fp32.pick false false x y = y)
        ∧ fp32.rank (fp32.pick false false x y) ≤ fp32.rank x ∧ fp32.rank (fp32.pick false false x y) ≤ fp32.rank y
        ∧ (fp32.pick false true x y = x ∨ fp32.pick false true x y = y)
        ∧ fp32.rank x ≤ fp32.rank (fp32.pick false true x y) ∧ fp32.rank y ≤ fp32.rank (fp32.pick false true x y))
    ∧ (fcmpHolds .uno false x y = (fp32.isNan x || fp32.isNan y)) ∧ (fcmpHolds .ord false x y = !(fp32.isNan x || fp32.isNan y))
    ∧ (finite fp32 x → finite fp32 y →
        (fcmpHolds .lt false x y = true ↔ rat (fp32.value x) < rat (fp32.value y))
        ∧ (fcmpHolds .eq false x y = true ↔ rat (fp32.value x) = rat (fp32.value y))
        ∧ (fcmpHolds .ge false x y = true ↔ rat (fp32.value y) ≤ rat (fp32.value x)))
    ∧ (fp32.isNan x = true → classBit false x = 8)
    ∧ (fp32.isNan x = false → (classBit false x < 4 ↔ 2 ^ 31 ≤ x) ∧ classBit false x < 8)

/-- R247: the rounded functions write their results, and have the values of its table: at special operands, in exact cases and beyond
their limits; `rcp` and `rsq` are the nearest values everywhere. -/
def Obligations.RoundedFunctions : Prop :=
  Float1 .rcp 0 (fun _ _ x => fRcp (fp32.value x)) ∧ Float1 .rsq 0 (fun _ _ x => fRsq (fp32.value x))
  ∧ Float1 .exp2 0 (fun _ _ x => fExp2 (fp32.value x)) ∧ Float1 .log2 0 (fun _ _ x => fLog2 (fp32.value x))
  ∧ Float1 .sinpi 0 (fun _ _ x => fSinpi (fp32.value x)) ∧ Float1 .cospi 0 (fun _ _ x => fCospi (fp32.value x))
  ∧ Float1 .tanh 0 (fun _ _ x => fTanh (fp32.value x))
  ∧ (∀ f ∈ [fRcp, fRsq, fExp2, fLog2, fSinpi, fCospi, fTanh], f .nan = 0x7FC00000)
  ∧ (∀ (n : Bool) (e : Int),
      let inf : Nat := if n then 0xFF800000 else 0x7F800000
      let zro : Nat := if n then 0x80000000 else 0
      let one : Nat := if n then 0xBF800000 else 0x3F800000
      fRcp (.fin n 0 e) = inf ∧ fRcp (.inf n) = zro ∧ fRsq (.fin n 0 e) = inf ∧ fRsq (.inf n) = (if n then 0x7FC00000 else 0)
      ∧ fExp2 (.fin n 0 e) = 0x3F800000 ∧ fExp2 (.inf n) = (if n then 0 else 0x7F800000)
      ∧ fLog2 (.fin n 0 e) = 0xFF800000 ∧ fLog2 (.inf n) = (if n then 0x7FC00000 else 0x7F800000)
      ∧ fSinpi (.fin n 0 e) = zro ∧ fSinpi (.inf n) = 0x7FC00000 ∧ fCospi (.fin n 0 e) = 0x3F800000 ∧ fCospi (.inf n) = 0x7FC00000
      ∧ fTanh (.fin n 0 e) = zro ∧ fTanh (.inf n) = one)
  ∧ (∀ (m : Nat) (e : Int), 0 < m → fRsq (.fin true m e) = 0x7FC00000 ∧ fLog2 (.fin true m e) = 0x7FC00000)
  ∧ (∀ x : Nat, x < 2 ^ 32 → finite fp32 x → rat (fp32.value x) ≠ 0 →
      let v := fp32.value x
      let a := rat v
      let val (r : Nat) : ℚ := rat (fp32.value r)
      (fp32.mag (fRcp v) < fp32.infMag → RoundsTo fp32 .rne (1 / a) (fRcp v)) ∧ fp32.mag (fRcp v) ≤ fp32.infMag
      ∧ (0 < a → RootTo fp32 .rne true a (fRsq v))
      ∧ (∀ k : Int, a = k → (-149 ≤ k → k ≤ 127 → val (fExp2 v) = 2 ^ k)
          ∧ fSinpi v = (if a < 0 then 0x80000000 else 0) ∧ fCospi v = (if k % 2 = 0 then 0x3F800000 else 0xBF800000))
      ∧ (128 ≤ a → fExp2 v = 0x7F800000) ∧ (a ≤ -150 → fExp2 v = 0)
      ∧ (∀ k : Int, a = 2 ^ k → val (fLog2 v) = k ∧ (k = 0 → fLog2 v = 0))
      ∧ (∀ k : Int, a = k + 1 / 2 → val (fSinpi v) = (if k % 2 = 0 then 1 else -1) ∧ fCospi v = 0))

/-- R248, R249: packed halves act on each half alone, and `setfpc` writes the control word and nothing else. -/
def Obligations.PackedHalvesAndControlWord : Prop :=
  (∀ bf : Bool, let f : FFmt := if bf then bf16 else fp16
    Half2 (.hadd2 bf) (fun m z => once f m z (FVal.add m)) ∧ Half2 (.hmul2 bf) (fun m z => once f m z FVal.mul)
    ∧ Half2 (.hmin2 bf) (fun _ z x y => f.pick z false x y) ∧ Half2 (.hmax2 bf) (fun _ z x y => f.pick z true x y)
    ∧ (∀ (s : State) (c : Ctx) (pg : Guard) (d a b : Reg), s.issues (.hfma2 bf pg d a b) c →
        Result (.hfma2 bf pg d a b) s c 6 d fun l =>
          let v (r : Reg) (i : Nat) : FVal := f.value (f.flush c.x.ftz ((c.x.get r l).toNat / 65536 ^ i % 65536))
          let h (i : Nat) : Nat := f.flush c.x.ftz (f.round c.x.rm false (FVal.fma c.x.rm (v a i) (v b i) (v d i)))
          BitVec.ofNat 32 (h 0 + 65536 * h 1)))
  ∧ (∀ (s : State) (c : Ctx) (rm : RMode) (ftz : Bool) (pg : Guard), s.issues (.setfpc rm ftz pg) c →
      (c.lanes ≠ 0 → Completes (.setfpc rm ftz pg) s c fun x => { x with rm := rm, ftz := ftz })
      ∧ (c.lanes = 0 → Completes (.setfpc rm ftz pg) s c id))

/-- R64 to R66, R250: the values of conversions. To FP32, an element is exact and an integer is rounded once; from FP32, one element is
rounded once and the others are kept, or the integer of the mode is clamped to the type's range. -/
def Sys2Proof.Spec.ConversionValues : Prop :=
  ∀ (ty : CvtTy) (elt : Nat) (mode : RMode) (sat : Bool) (d a : Word),
    let f := (cvtFmt ty).1
    let n := (cvtFmt ty).2
    let v := fp32.value a.toNat
    let u := f.value (elemAt a n elt)
    (ty ∈ [CvtTy.f16, .bf16, .e4m3, .e5m2] → elt < 32 / n →
      (u = .nan → cvtTo ty elt mode a = 0x7FC00000)
      ∧ (∀ g, u = .inf g → cvtTo ty elt mode a = if g then 0xFF800000 else 0x7F800000)
      ∧ (finite f (elemAt a n elt) → finite fp32 (cvtTo ty elt mode a).toNat ∧ rat (fp32.value (cvtTo ty elt mode a).toNat) = rat u)
      ∧ elemAt (cvtFrom ty elt mode sat d a) n elt = f.round mode sat v
      ∧ (∀ i, i < 32 / n → i ≠ elt → elemAt (cvtFrom ty elt mode sat d a) n i = elemAt d n i)
      ∧ (v = .nan → f.round mode sat v = f.nan)
      ∧ (∀ g, v = .inf g → f.round mode true v = f.signed g f.maxMag
          ∧ f.round mode false v = if ty = .e4m3 then f.nan else f.signed g f.infMag)
      ∧ (finite fp32 a.toNat → f.mag (f.round mode true v) ≤ f.maxMag))
    ∧ (∀ lo hi : Int, (ty, lo, hi) ∈ [(CvtTy.s32, (-0x80000000 : Int), (0x7FFFFFFF : Int)), (.n32, 0, 0xFFFFFFFF), (.s16, -0x8000, 0x7FFF),
          (.n16, 0, 0xFFFF), (.s8, -0x80, 0x7F), (.n8, 0, 0xFF)] →
        (v = .nan → cvtFrom ty elt mode sat d a = 0)
        ∧ (∀ g, v = .inf g → cvtFrom ty elt mode sat d a = BitVec.ofInt 32 (if g then lo else hi))
        ∧ (finite fp32 a.toNat → ∃ k : Int, IntegerOf mode (rat v) k ∧ cvtFrom ty elt mode sat d a = BitVec.ofInt 32 (max lo (min hi k)))
        ∧ (∃ k : Int, lo ≤ k ∧ k ≤ hi ∧ (k - (a.toNat : Int)) % (hi - lo + 1) = 0 ∧ (k ≠ 0 → RoundsTo fp32 mode k (cvtTo ty elt mode a).toNat)
            ∧ (k = 0 → cvtTo ty elt mode a = 0)))

/-- The E2M1 magnitudes by their codes (R68). -/
def Spec.e2m1Mag (q : Nat) : ℚ := [0, 1 / 2, 1, 3 / 2, 2, 3, 4, 6].getD q 0
/-- The element of an MXFP4 block for a number under a scale (R72): the nearest magnitude, to the even code in a tie; zero has no
sign. -/
def Spec.MxElem (x : ℚ) (scale q : Nat) : Prop :=
  let y := |x| / 2 ^ ((scale : Int) - 127)
  q < 16 ∧ (∀ r, r < 8 → |e2m1Mag (q % 8) - y| ≤ |e2m1Mag r - y| ∧ (|e2m1Mag (q % 8) - y| = |e2m1Mag r - y| → r = q % 8 ∨ q % 2 = 0))
    ∧ (q / 8 = 1 ↔ x < 0 ∧ q % 8 ≠ 0)
/-- The element of a DX4 block for a number (R73). -/
def Spec.DxElem (x : ℚ) (lo hi q : Nat) : Prop :=
  let low : Prop := |x| < 7 / 2 * 2 ^ ((lo : Int) - 127)
  q < 16 ∧ (q / 4 % 2 = 0 ↔ low) ∧ (q / 8 = 1 ↔ x < 0 ∧ q % 4 ≠ 0)
  ∧ ∃ k : Int, IntegerOf .rne (|x| / 2 ^ ((if q / 4 % 2 = 0 then (lo : Int) else hi) - 127)) k ∧ (q % 4 : Nat) = min k 3

/-- R67 to R74: the blocks that `qmx` and `qdx` form of 32 values, by the cases of their procedures, and the elements that `dqmx` and
`dqdx` read. -/
def Sys2Proof.Spec.BlockValues : Prop :=
  ∀ (xs : List FVal) (D : Nat), 1 ≤ D → D ≤ 7 → xs.length = 32 → (∀ v ∈ xs, v = .nan ∨ (∃ g, v = .inf g) ∨ ∃ x, finite fp32 x ∧ v = fp32.value x) →
    let m := qmxBlock xs
    let q := qdxBlock D xs
    let nans : Prop := .nan ∈ xs
    let infs : Prop := ∃ g, FVal.inf g ∈ xs
    m.elems.length = 32 ∧ q.elems.length = 32
    ∧ (m.sat = true ↔ ¬nans ∧ infs) ∧ (q.sat = true ↔ ¬nans ∧ infs)
    ∧ (nans → m.lo = 0xFF ∧ q.lo = 0xFF ∧ q.hi = 0xFF ∧ (∀ e ∈ m.elems ++ q.elems, e = 0))
    ∧ (¬nans → infs → m.lo = 0xFE ∧ q.hi = 0xFE)
    ∧ (¬nans → ¬infs → (∀ v ∈ xs, rat v = 0) → m.lo = 0x7F ∧ q.hi = 0x7F ∧ q.lo = 0x7F - D ∧ (∀ e ∈ m.elems ++ q.elems, e = 0))
    ∧ (¬nans → ¬infs → ∀ t : Int, (∀ v ∈ xs, |rat v| < 2 ^ (t + 1)) → (∃ v ∈ xs, 2 ^ t ≤ |rat v|) →
        (m.lo : Int) = max (t - 2 + 127) 0 ∧ (q.hi : Int) = max (t - 1 + 127) 0)
    ∧ (¬nans → (infs ∨ ∃ v ∈ xs, rat v ≠ 0) → q.lo = q.hi - D
        ∧ ∀ i, i < 32 → match xs.getD i .nan with
          | .inf g => m.elems.getD i 0 = (if g then 15 else 7) ∧ q.elems.getD i 0 = (if g then 15 else 7)
          | v => Spec.MxElem (rat v) m.lo (m.elems.getD i 0) ∧ Spec.DxElem (rat v) q.lo q.hi (q.elems.getD i 0))
    ∧ (∀ n lo hi : Nat, n < 16 → lo < 255 → hi < 255 →
        rat (mxValue n lo) = (if n < 8 then 1 else -1) * Spec.e2m1Mag (n % 8) * 2 ^ ((lo : Int) - 127)
        ∧ rat (dxValue n lo hi) = (if n < 8 then 1 else -1) * (n % 4 : Nat) * 2 ^ ((if n / 4 % 2 = 0 then (lo : Int) else hi) - 127))
    ∧ (∀ n s : Nat, mxValue n 255 = .nan ∧ (n / 4 % 2 = 0 → dxValue n 255 s = .nan) ∧ (n / 4 % 2 = 1 → dxValue n s 255 = .nan))

/-- R64 to R74, R250 to R252: the values of conversions and of blocks. -/
def Obligations.ConversionsAndBlockValues : Prop := Spec.ConversionValues ∧ Spec.BlockValues

/-- R250 to R252: conversions write one value in each participating lane; the forming of a block writes the block's lanes and its
predicate, or nothing where no lane participates; the reading of one writes each lane's element, rounded once (R74). -/
def Obligations.ConversionsAndBlocks : Prop :=
  (∀ (s : State) (c : Ctx) (ty : CvtTy) (e : Fin 4) (pg : Guard) (d a : Reg),
      (s.issues (.cvt true ty e pg d a) c → Result (.cvt true ty e pg d a) s c 6 d fun l => cvtTo ty e.val c.x.rm (c.x.get a l))
      ∧ (s.issues (.cvt false ty e pg d a) c →
          Result (.cvt false ty e pg d a) s c 6 d fun l => cvtFrom ty e.val c.x.rm false (c.x.get d l) (c.x.get a l))
      ∧ (s.issues (.cvtSat ty e pg d a) c →
          Result (.cvtSat ty e pg d a) s c 6 d fun l => cvtFrom ty e.val c.x.rm true (c.x.get d l) (c.x.get a l)))
  ∧ (∀ (s : State) (c : Ctx) (pg : Guard) (d a : Reg) (sp : Fin 8) (dd : BitVec 3),
      let xs : List FVal := (List.range 32).map fun l => if hasLane c.lanes l then fp32.value (c.x.get a l).toNat else .fin false 0 0
      let out (i : Instr) (b : Block) (dx : Bool) : Prop :=
        (c.lanes ≠ 0 → Completes i s c fun x => c.result s 0 (.p sp.val) c.lanes (fun _ => if b.sat then 1 else 0)
          (c.result s 0 (d.dst c.x.winBase 0) c.lanes (fun l => b.lane dx l) x))
        ∧ (c.lanes = 0 → Completes i s c id)
      (s.issues (.qmx pg d a sp) c → out (.qmx pg d a sp) (qmxBlock xs) false)
      ∧ (s.issues (.qdx pg d a sp dd) c → out (.qdx pg d a sp dd) (qdxBlock dd.toNat xs) true))
  ∧ (∀ (b : Block) (l : Nat), b.elems.length = 32 → (∀ q ∈ b.elems, q < 16) → b.lo < 256 → b.hi < 256 →
      (∀ i, i < 32 → (b.lane true (i / 8)).toNat / 16 ^ (i % 8) % 16 = b.elems.getD i 0
        ∧ (b.lane false (i / 8)).toNat / 16 ^ (i % 8) % 16 = b.elems.getD i 0)
      ∧ (b.lane false 4).toNat = b.lo ∧ (b.lane true 4).toNat = b.lo + 256 * b.hi
      ∧ (4 < l → b.lane false l = 0 ∧ b.lane true l = 0))
  ∧ (∀ (s : State) (c : Ctx) (pg : Guard) (d a : Reg),
      let nib (l : Nat) : Nat := (c.x.get a (l / 8)).toNat / 16 ^ (l % 8) % 16
      let scale (i : Nat) : Nat := (c.x.get a 4).toNat / 256 ^ i % 256
      (s.issues (.dqmx pg d a) c → Result (.dqmx pg d a) s c 0 d fun l =>
          BitVec.ofNat 32 (fp32.round .rne false (mxValue (nib l) (scale 0))))
      ∧ (s.issues (.dqdx pg d a) c → Result (.dqdx pg d a) s c 0 d fun l =>
          BitVec.ofNat 32 (fp32.round .rne false (dxValue (nib l) (scale 0) (scale 1)))))

/-- Completion of the rounded functions, conversions and block instructions (R247, R250 to R252): at issue, each answers a next
state, whatever its operands hold; it has moved on, memory and every other thread are as before, and of its own thread only the
destination and, for the forming of a block, the named predicate may differ, at once or among the results that wait. -/
def Obligations.FunctionsAndConversionsComplete : Prop :=
  ∀ (s : State) (c : Ctx) (i : Instr) (pg : Guard) (d a : Reg) (toF32 : Bool) (ty : CvtTy) (e : Fin 4) (sp : Fin 8) (dd : BitVec 3),
    i ∈ [Instr.rcp pg d a, .rsq pg d a, .exp2 pg d a, .log2 pg d a, .sinpi pg d a, .cospi pg d a, .tanh pg d a, .cvt toF32 ty e pg d a,
         .cvtSat ty e pg d a, .qmx pg d a sp, .qdx pg d a sp dd, .dqmx pg d a, .dqdx pg d a] →
    s.issues i c →
    ∃ t y, exec i s = .next t ∧ t = { s with iss := none, threads := SMap.put s.threads c.t y }
      ∧ (y.split c.e).pc = c.npc ∧ (∀ n, n ≠ c.e → y.split n = c.x.split n) ∧ y.rm = c.x.rm ∧ y.ftz = c.x.ftz ∧ y.streams.length = c.x.streams.length
      ∧ (∀ n, n < 32 → ∀ r, PDst.v r ≠ d.dst c.x.winBase 0 → y.locAt (.v r) n = c.x.locAt (.v r) n)
      ∧ (∀ k, PDst.k k ≠ d.dst c.x.winBase 0 → y.k.getD k 0 = c.x.k.getD k 0)
      ∧ (∀ p, p ≠ sp.val → y.p.getD p 0 = c.x.p.getD p 0) ∧ y.p.getD 0 0 = c.x.p.getD 0 0

/-- R253 to R258: the instructions that read across lanes. -/
def Obligations.AcrossLanes : Prop :=
  ∀ (s : State) (c : Ctx) (pg : Guard) (d a b : Reg) (n : BitVec 5) (pd ps : Fin 8) (cond : PCond) (op : Fold),
    let set (m : Nat) : Bool := c.x.preg ps.val m
    let count : Nat := ((lanesOf c.lanes).filter set).length
    let same (l : Nat) : List Nat := (lanesOf c.lanes).filter fun m => c.x.get a m == c.x.get a l
    (s.issues (.plane pg d a n) c → Result (.plane pg d a n) s c 4 d fun _ =>
        maskOf fun m => hasLane c.lanes m && (c.x.get a m).getLsbD n.toNat)
    ∧ (s.issues (.xlaneG pg d a b) c → Result (.xlaneG pg d a b) s c 4 d fun l => c.x.get a ((c.x.get b l).toNat % 32))
    ∧ (s.issues (.xlaneX pg d a b) c → Result (.xlaneX pg d a b) s c 4 d fun l => c.x.get a (l ^^^ ((c.x.get b l).toNat % 32)))
    ∧ (s.issues (.xlaneRot pg d a b) c → Result (.xlaneRot pg d a b) s c 4 d fun l => c.x.get a (rotateLane (c.x.get b l) l))
    ∧ (s.issues (.ptest cond pg pd ps) c → ResultP (.ptest cond pg pd ps) s c 4 pd fun _ =>
        match cond with
        | .all => count == (lanesOf c.lanes).length
        | .any => 1 ≤ count
        | .one => count == 1
        | .odd => count % 2 == 1)
    ∧ (s.issues (.pmask pg d ps) c → Result (.pmask pg d ps) s c 4 d fun _ => maskOf fun m => hasLane c.lanes m && set m)
    ∧ (s.issues (.lfold op pg d a) c → Result (.lfold op pg d a) s c 0 d fun _ =>
        foldAll op ((lanesOf c.lanes).map fun l => c.x.get a l))
    ∧ (s.issues (.lkey pg d a) c → Result (.lkey pg d a) s c 0 d fun l =>
        BitVec.ofNat 32 ((same l).headD 0 + 256 * ((same l).length - 1) + 65536 * ((same l).filter (· < l)).length))


/-! ## Encoding (chapter 13) -/

/-- The worked encodings of chapter 13 and further words written out from R198 to R212, read by the decoder: the instruction or none
(R215: the all-zero word, `joinat` with a guard, a reserved field). -/
def Obligations.WordsDecode : Prop :=
  let p (n : Fin 8) : Guard := { neg := false, p := n }
  decode 0xDE00000D [] = some (.joinat 13) ∧ decode 0xDA000084 [0x100] = some (.brx (p 0) (.v 1) 4 0x100)
  ∧ decode 0x28018064 [] = some (.movi (p 0) (.v 6) 100) ∧ decode 0xD8000009 [] = some (.bra (p 0) 9)
  ∧ decode 0xE2200000 [] = some (.exit (p 1)) ∧ decode 0xD83FFFF8 [] = some (.bra (p 1) (-8))
  ∧ decode 0x021972E6 [] = some (.iadd (p 0) (.k 5) (.k 5) (.k 6))
  ∧ decode 0x2C1A4264 [] = some (.icmp .ge false (p 0) 1 (.v 4) (.k 4))
  ∧ decode 0xFC19B152 [0x00180554] = some (.mma (p 0) (.k 6) (.k 2) 2 0x00180554)
  ∧ decode 0xE6000000 [] = some (.eret (p 0)) ∧ decode 0xDE20000D [] = none ∧ decode 0 [] = none
  ∧ decode 0xA0004103 [] = some (.ld .b8 (p 0) (.v 1) (.v 2) 3 none) ∧ decode 0xFA000013 [] = some (.setfpc .rz true (p 0))
  ∧ decode 0xBE00C126 [4] = some (.atom .minS none (p 0) (.v 3) (.v 2) (.v 4))
  ∧ decode 0xBE00C109 [4] = some (.atom .addS (some (.rel, .cls)) (p 0) (.v 3) (.v 2) (.v 4))

/-- R198 to R212: the encoder's words of a well-formed instruction decode to it, with every operand at every value that the encoding
admits. -/
def Obligations.DecodeReadsEncodings : Prop :=
  ∀ i : Instr, i.wf = true → i.hasWord = true → decode (encode i).1 (encode i).2 = some i

/-- R198 to R215: a word and its extension words that decode are the encoding of one well-formed instruction, bit for bit: reserved bits are
0, and no instruction has two encodings. Choices of the model it rests on: log 81. -/
def Obligations.EveryWordHasOneReading : Prop :=
  ∀ (w : Word) (exts : List Word) (i : Instr), decode w exts = some i → i.wf = true ∧ i.hasWord = true ∧ encode i = (w, exts)

/-! ## The step and its issue (chapters 1, 2 and 13) -/

/-- A step with no access to carry on, no input and no event due lets the next unit issue the first entry of its order (R41): it fetches the word at the
entry's pc, and runs exec of the instruction that the word, its control word and its extension words decode to, with the issue's
address, next address, word, stall count and yield hint latched (R193 to R195). -/
def Sys2Proof.Spec.StepRunsTheDecodedInstruction : Prop :=
  (∀ (s s1 : State) (u t e : Nat) (x : Thread) (i : Instr) (rest : List (Nat × Nat)),
    s.wake = [] → s.inputs = [] → s.forced = none → s.overdue = none → s.due = [] → s.nextUnit = some (u, s1) →
    s1.order u = (t, e) :: rest → s1.thread? t = some x →
    (s1.fetch t e x).res = .inr i →
    let s2 : State := { s1.chosen u t e with iss := some (s1.fetch t e x).iss }
    (∀ s3, exec i s2 = .next s3 → s3.iss = none) → step s = exec i s2)
  ∧ (∀ (s : State) (t e : Nat) (x : Thread) (pa : Nat) (cw w : Word) (i : Instr),
      let pc := (x.split e).pc
      let base := pc / 32 * 32
      let ix := extSlots cw 7 (pc % 32 / 4 + 1)
      (s.trapsMix x.launch = false ∨ (x.split e).mix = none) → s.leaseOut x.launch pc 4 = false → s.denied x.space pc .fetch = none →
      s.pa? x.space base = some pa → s.codeWord x.space base = some cw → s.codeWord x.space pc = some w →
      s.poisoned (pa + pc % 32) 4 = false → s.poisoned pa 4 = false → (ix.any fun n => s.poisoned (pa + 4 * n) 4) = false →
      cw.extractLsb' 28 3 = 0 → xfMarks cw 1 = false → ix.all (fun n => stallField cw n == 0) = true →
      decode w (ix.filterMap fun n => s.codeWord x.space (base + 4 * n)) = some i →
      (s.fetch t e x).res = .inr i
      ∧ (s.fetch t e x).iss = { t := t, e := e, pc := pc, npc := nextPc pc ix.length, word := w,
                                stall := stallField cw (pc % 32 / 4), yh := cw.getLsbD 31, op := none })

/-- R193: instructions issue in rising slots, past the extension words, and from the last of a bundle to slot 1 of the next. -/
def Sys2Proof.Spec.IssueOrder : Prop :=
  ∀ b slot n : Nat, 1 ≤ slot → slot + n ≤ 7 →
    nextPc (32 * b + 4 * slot) n = if slot + n < 7 then 32 * b + 4 * (slot + n + 1) else 32 * (b + 1) + 4

/-- R41, R193 to R195: a step runs the instruction that the bytes at the pc decode to, and the next address follows the order of issue.
Choices of the model it rests on: log 1. -/
def Obligations.ASteppedWordRunsAsDecoded : Prop := Spec.StepRunsTheDecodedInstruction ∧ Spec.IssueOrder

/-- Every instruction answers in every state: with a next state, or, where nothing is at issue, with the fault that names that. None
is refused. -/
def Obligations.EveryInstructionAnswers : Prop :=
  ∀ (i : Instr) (s : State), (∃ t, exec i s = .next t) ∨ (exec i s = .fault .noIssuer ∧ s.ctx? i = none)

/-- The machine never stops: where the inputs, the messages in flight and the waiting calls are events, every step answers with a next
state. Choices of the model it rests on: log 1, 77. -/
def Obligations.TheMachineNeverStops : Prop :=
  ∀ s : State, (∀ q ∈ s.inputs, q.2.event = true) → (∀ m ∈ s.msgs, m.event = true) → (∀ m ∈ s.res.calls, m.event = true) →
    ∃ t, step s = .next t

/-- R201, R202: a class A, B or C result is not read before it is due, and from then on is the value of its lanes; other registers
and lanes are what they would have been. -/
def Sys2Proof.Spec.ResultsLandWhenDue : Prop :=
  ∀ (x : Thread) (due now abs l n p : Nat) (sp m : Mask) (f : Nat → Word), SMap.wf 0 x.v = true → l < 32 → n < x.k.length →
    0 < p → p < x.p.length →
    let xv := x.later due sp (.v abs) m (destVals (.v abs) m f)
    let xk := x.later due sp (.k n) m (destVals (.k n) m f)
    let xp := x.later due sp (.p p) m (destVals (.p p) m f)
    (∀ b j, xv.vreg b j = x.vreg b j) ∧ (∀ j, xk.kreg j = x.kreg j) ∧ (∀ j h, xp.preg j h = x.preg j h)
    ∧ (due ≤ now → hasLane m l = true → (xv.commit now).vreg abs l = f l)
    ∧ (∀ b, due ≤ now → (hasLane m l = false ∨ b ≠ abs) → (xv.commit now).vreg b l = (x.commit now).vreg b l)
    ∧ (due ≤ now → m ≠ 0 → (xk.commit now).kreg n = f (lowLane m))
    ∧ (∀ j, j ≠ n → (xk.commit now).kreg j = (x.commit now).kreg j)
    ∧ (due ≤ now → hasLane m l = true → (xp.commit now).preg p l = (f l != 0))
    ∧ (∀ j, (hasLane m l = false ∨ j ≠ p) → (xp.commit now).preg j l = (x.commit now).preg j l)

/-- R19, R27, R201: a class V result is read at once; a write to p0 is discarded, and p0 reads as 1. -/
def Sys2Proof.Spec.ResultsAtOnce : Prop :=
  ∀ (x : Thread) (abs l n p : Nat) (m : Mask) (f : Nat → Word), SMap.wf 0 x.v = true → l < 32 → n < x.k.length → 0 < p →
    p < x.p.length →
    (∀ b, (x.now (.v abs) m (destVals (.v abs) m f)).vreg b l = if b = abs ∧ hasLane m l then f l else x.vreg b l)
    ∧ (∀ j, (x.now (.k n) m (destVals (.k n) m f)).kreg j = if j = n ∧ m ≠ 0 then f (lowLane m) else x.kreg j)
    ∧ (∀ j, (x.now (.p p) m (destVals (.p p) m f)).preg j l = if j = p ∧ hasLane m l then f l != 0 else x.preg j l)
    ∧ (∀ j, (x.now (.p 0) m (destVals (.p 0) m f)).preg j l = x.preg j l) ∧ x.preg 0 l = true

/-- R19, R27, R201, R202: class A, B and C results are written when due, class V results at once, and p0 never. Choices of the model it
rests on: log 27. -/
def Obligations.ResultsAreWrittenByClass : Prop := Spec.ResultsLandWhenDue ∧ Spec.ResultsAtOnce

/-! ## Faults and the trap handler (chapters 2, 13 and 21) -/

/-- R216, R278: of the faults found at one issue the first in the order ILLEGAL, STALLSHORT, REGRANGE, STREAM, NONUNIFORM is raised, and
the effect is not performed; a sequencer instruction whose guard is false raises nothing beyond ILLEGAL. -/
def Sys2Proof.Spec.CommonFaultsInOrder : Prop :=
  ∀ (i : Instr) (s : State) (c : Ctx), i.event = false → s.ctx? i = some c → c.again = false → s.interlocked c i = false →
    (s.illegalAt c i = true → Raises i s c { code := 0x01, info := c.word.toNat })
    ∧ (s.illegalAt c i = false → i.place = .q → c.lanes = 0 → s.issues i c ∨ c.x.splits.length ≤ c.e)
    ∧ ((i.place = .q → c.lanes ≠ 0) →
    (s.illegalAt c i = false → ∀ n, s.scoreboard c.x.launch = true → c.short? i = some n → Raises i s c { code := 0x06, info := n })
    ∧ (s.illegalAt c i = false → (s.scoreboard c.x.launch = false ∨ c.short? i = none) → ∀ n, c.beyond? i = some n →
        Raises i s c { code := 0x03, info := n })
    ∧ (s.illegalAt c i = false → (s.scoreboard c.x.launch = false ∨ c.short? i = none) → c.beyond? i = none → ∀ n, c.unbound? i = some n →
        Raises i s c { code := 0x09, info := n })
    ∧ (s.illegalAt c i = false → (s.scoreboard c.x.launch = false ∨ c.short? i = none) → c.beyond? i = none → c.unbound? i = none →
        c.nonuniform i ≠ 0 → Raises i s c { code := 0x04, info := (c.nonuniform i).toNat }))

/-- R213, R215, R46: what is ILLEGAL where it is issued: a strand's instruction in a context and the other way about, a v or g
register in a context, `eret` of a lane outside the handler, and an unassigned word. -/
def Sys2Proof.Spec.IllegalWhereIssued : Prop :=
  ∀ (i : Instr) (s : State) (c : Ctx),
    (i.wf = false → s.illegalAt c i = true) ∧ (c.x.seq = true → i.place = .s → s.illegalAt c i = true)
    ∧ (c.x.seq = false → i.place = .q → s.illegalAt c i = true)
    ∧ (∀ o ∈ c.opnds i, ∀ n, c.x.seq = true → (Loc.v n ∈ o.locs ∨ Loc.g n ∈ o.locs) → s.illegalAt c i = true)
    ∧ (∀ pg, c.lanes ≠ 0 → c.sp.inH = false → s.illegalAt c (.eret pg) = true)
    ∧ (∀ w, s.issues (.illegal w) c → Raises (.illegal w) s c { code := 0x01, info := w.toNat })

/-- R46, R213 to R216: the faults found at one issue, in their order, and what is ILLEGAL where it is issued. Choices of the model it rests
on: log 30, 31, 80. -/
def Obligations.FaultsAtIssue : Prop := Spec.CommonFaultsInOrder ∧ Spec.IllegalWhereIssued

/-- R45: a fault of one of the five handler classes, in a strand whose kernel names a handler. The faulting instruction changes no
state: the next state is the one before, but for the issuer latch and the strand. The three fault registers are set, the split's status
becomes "in handler" and its pc the handler's; where another fault is in the handler, the split is held with the instruction not
performed. -/
def Sys2Proof.Spec.ExceptionEntry : Prop :=
  ∀ (s : State) (i : Instr) (c : Ctx) (f : FInfo) (trap : Nat), s.ctx? i = some c → c.again = false → c.t ≠ noThread →
    c.e < c.x.splits.length → c.x.seq = false → s.trapOf c.x = some trap → f.code ∈ [0x04, 0x05, 0x09, 0x0A, 0x0C] → c.sp.inH = false →
    ∃ y, s.raise c f = { s with iss := none, threads := SMap.put s.threads c.t y }
      ∧ (∀ e, e ≠ c.e → y.split e = c.x.split e)
      ∧ (c.x.handlerBusy = false →
          y = { c.x with fault := BitVec.ofNat 8 f.code, faultpc := f.pc.getD c.pc, faultinfo := BitVec.ofNat 32 f.info, splits := y.splits }
          ∧ y.split c.e = { c.sp with inH := true, pc := trap, held := none, sig := 0xFFFF, stall := max c.sp.stall (c.x.drainAt c.sp.mask) })
      ∧ (c.x.handlerBusy = true →
          y = { c.x with splits := y.splits }
          ∧ y.split c.e = { c.sp with held := some { order := s.cycle, code := f.code, pc := f.pc.getD c.pc, info := BitVec.ofNat 32 f.info } })

/-- R45, R229: `trap` enters the handler with %faultpc at the instruction after it and its immediate in %faultinfo; where no lane
takes part it does nothing. -/
def Sys2Proof.Spec.TrapTakesTheException : Prop :=
  ∀ (s : State) (c : Ctx) (pg : Guard) (imm : BitVec 16), s.issues (.trap pg imm) c →
    (c.lanes = 0 → Completes (.trap pg imm) s c id)
    ∧ (c.lanes ≠ 0 → Raises (.trap pg imm) s c { code := 0x0C, pc := some c.npc, info := imm.toNat })

/-- R46: `eret` makes the split's pc %faultpc and its status running; the split held earliest then takes the handler if no part
remains in it, and only then. -/
def Sys2Proof.Spec.ExceptionReturn : Prop :=
  ∀ (s : State) (c : Ctx) (pg : Guard), s.issues (.eret pg) c → c.lanes ≠ 0 →
    ∃ x y, exec (.eret pg) s = .next { s with iss := none, threads := SMap.put s.threads c.t y }
      ∧ x = c.x.updSplit c.e (fun p => { p with inH := false, pc := c.x.faultpc, sig := 0xFFFF })
      ∧ ((x.handlerBusy = true ∨ x.firstHeld = none ∨ s.trapOf c.x = none) →
          y = { x with splits := y.splits, yielding := y.yielding } ∧ y.splits.length = x.splits.length
          ∧ (∀ e, e ≠ c.e → y.split e = x.split e)
          ∧ y.split c.e = { x.split c.e with stall := max (x.split c.e).stall (stallUntil s.cycle c.stall) })
      ∧ (∀ e h trap, x.handlerBusy = false → x.firstHeld = some (e, h) → s.trapOf c.x = some trap → e ≠ c.e →
          y = { x with fault := BitVec.ofNat 8 h.code, faultpc := h.pc, faultinfo := h.info, splits := y.splits, yielding := y.yielding }
          ∧ (y.split c.e).pc = c.x.faultpc ∧ (y.split c.e).inH = false ∧ (y.split c.e).sig = 0xFFFF
          ∧ y.split e = { x.split e with inH := true, pc := trap, held := none, sig := 0xFFFF,
                                         stall := max (x.split e).stall (x.drainAt (x.split e).mask) })

/-- R45, R46, R229: the entry to the trap handler, by a fault of a handler class and by `trap`, and the return from it. Choices of the model
it rests on: log 28, 30. -/
def Obligations.TakingAndLeavingAnException : Prop := Spec.ExceptionEntry ∧ Spec.TrapTakesTheException ∧ Spec.ExceptionReturn

/-! ## Control and strand state (chapters 2 and 14) -/

namespace Sys2Proof.Spec

/-- Entry `e` of `y` holds split `p`, but for its stall count and its signature. -/
def EntryIs (y : Thread) (e : Nat) (p : Split) : Prop := y.split e = { p with stall := (y.split e).stall, sig := (y.split e).sig }

/-- R35: `y` is `x` with lanes `m` of the split of entry `e` at `target` and its other lanes at `npc`. -/
def Divided (e npc target : Nat) (m : Mask) (x y : Thread) : Prop :=
  let p := x.split e
  let rest := p.mask &&& ~~~m
  let keep (es : List Nat) : Prop := ∀ n, n ∉ es → y.split n = x.split n
  y = { x with splits := y.splits, recs := y.recs, yielding := y.yielding } ∧ y.splits.length = x.splits.length
  ∧ (m = 0 → y.recs = x.recs ∧ EntryIs y e { p with pc := npc } ∧ keep [e])
  ∧ (m ≠ 0 → rest = 0 → y.recs = x.recs ∧ EntryIs y e { p with pc := target } ∧ keep [e])
  ∧ (m ≠ 0 → rest ≠ 0 →
      y.recs = (match p.top with
        | some r => updAt x.recs r fun j => { j with count := j.count + 1 }
        | none => x.recs)
      ∧ match (List.range x.splits.length).filter (fun n => !(x.split n).valid) with
        | f :: _ => EntryIs y e { p with pc := npc, mask := rest }
            ∧ EntryIs y f { Split.reset with valid := true, pc := target, mask := m, top := p.top, inH := p.inH } ∧ keep [e, f]
        | [] => EntryIs y e { p with pc := npc, mask := rest,
                                     queue := { pc := target, mask := m, top := p.top, inH := p.inH } :: p.queue } ∧ keep [e])

/-- `i` divides its split and does nothing else but what `f` does to its thread first. -/
def Branches (i : Instr) (s : State) (c : Ctx) (target : Nat) (f : Thread → Thread) : Prop :=
  ∃ y, exec i s = .next { s with iss := none, threads := SMap.put s.threads c.t y } ∧ Divided c.e c.npc target c.lanes (f c.x) y

/-- Lane `l` stands at `pc` in a split or in a deferred set of the thread. -/
def Placed (x : Thread) (l pc : Nat) : Prop :=
  ∃ e, e < x.splits.length ∧ (((x.split e).valid = true ∧ hasLane (x.split e).mask l = true ∧ (x.split e).pc = pc)
    ∨ ∃ d ∈ (x.split e).queue, hasLane d.mask l = true ∧ d.pc = pc)

/-- The state in which the strand's region, if it is staged, has left the quadrant's operand buffer (R25). -/
def leavesBuffer (s : State) (c : Ctx) : State :=
  if c.x.staged then s.setQuad (c.t / 16) { s.quad (c.t / 16) with places := (s.quad (c.t / 16)).places - 1 } else s

/-- TARGET at an address. -/
def badTarget (a : Nat) : FInfo := { code := 0x02, addr := a }
/-- POISON of a register or predicate that an instruction reads (R354). -/
def badData : FInfo := { code := codePOISON }

end Sys2Proof.Spec

/-- R35, R225, R227, R236: `bra`, `call` and a `gloop` whose end flag is not set send the participating lanes to their label, 4 bytes times
the displacement from their own address; `call` also writes the address of the next instruction to the link pair. A label that is no
instruction word of the text raises TARGET, and poison that they read is raised after that. A `gloop` whose end flag is set clears it
and checks no label. Choices of the model it rests on: log 39. -/
def Obligations.BranchesDivideTheSplit : Prop :=
  ∀ (s : State) (c : Ctx) (pg : Guard), c.sp.valid = true →
    (∀ disp : BitVec 21,
      let a := (((c.pc : Int) + 4 * disp.toInt) % 2 ^ 48).toNat
      (s.issues (.bra pg disp) c →
        (s.isCode c.x a = true → c.poisoned (.bra pg disp) = false → Branches (.bra pg disp) s c a id)
        ∧ (s.isCode c.x a = true → c.poisoned (.bra pg disp) = true → Raises (.bra pg disp) s c badData)
        ∧ (s.isCode c.x a = false → Raises (.bra pg disp) s c (badTarget a)))
      ∧ (s.issues (.call pg disp) c →
        (s.isCode c.x a = true → c.poisoned (.call pg disp) = false → Branches (.call pg disp) s c a fun x =>
          c.resultHi s 0 (c.link 1) c.lanes (fun _ => BitVec.ofNat 32 (c.npc / 2 ^ 32))
            (c.result s 0 (c.link 0) c.lanes (fun _ => BitVec.ofNat 32 c.npc) x))
        ∧ (s.isCode c.x a = false → Raises (.call pg disp) s c (badTarget a))))
    ∧ (∀ (n : Fin 8) (dim : BitVec 2) (disp : BitVec 16) (g : Stream),
      let i : Instr := .gloop pg n dim disp
      let a := (((c.pc : Int) + 4 * disp.toInt) % 2 ^ 48).toNat
      s.issues i c →
      (c.x.streams.getD n.val none = none → Raises i s c { code := 0x09, info := n.val })
      ∧ (c.x.streams.getD n.val none = some g →
        (g.ndim < dim.toNat → Raises i s c { code := 0x09, info := n.val })
        ∧ (dim.toNat ≤ g.ndim → g.ended.getD dim.toNat false = false → s.isCode c.x a = false → Raises i s c (badTarget a))
        ∧ (dim.toNat ≤ g.ndim → g.ended.getD dim.toNat false = false → s.isCode c.x a = true → c.poisoned i = false → Branches i s c a id)
        ∧ (dim.toNat ≤ g.ndim → c.poisoned i = false → g.ended.getD dim.toNat false = true → Completes i s c fun x =>
            { x with streams := setAt x.streams n.val (some { g with ended := setAt g.ended dim.toNat false }) })))

/-- R36: a division among several targets keeps every lane: each participating lane stands at its own target and each other lane
at the next instruction, in a split or a deferred set; no other split changes; and the top join record gains one member for each
part beyond the first. -/
def Sys2Proof.Spec.DivisionKeepsEveryLane : Prop :=
  ∀ (x : Thread) (e npc : Nat) (ls : List Nat) (tgt : Nat → Nat), e < x.splits.length → (x.split e).valid = true → ls ≠ [] →
    (∀ l ∈ ls, l < 32 ∧ hasLane (x.split e).mask l = true) →
    let y := (x.divide e npc (groupLanes ls tgt)).1
    let others := (lanesOf (x.split e).mask).filter fun l => !ls.contains l
    (∀ l ∈ ls, Placed y l (tgt l)) ∧ (∀ l ∈ others, Placed y l npc)
    ∧ (∀ n, n ≠ e → (x.split n).valid = true → y.split n = x.split n)
    ∧ (∀ r, (x.split e).top = some r → r < x.recs.length →
        (y.record r).count = (x.record r).count + (ls.map tgt).dedup.length + (if others = [] then 0 else 1) - 1)

/-- R36, R226, R227: `ret` sends each participating lane to the address in its link pair, `brx` to its entry of the table, relative
to the text. An index at or beyond n raises BRXRANGE with the mask of those lanes; a target that is no instruction word, TARGET. -/
def Sys2Proof.Spec.IndirectTransfersDivideByTarget : Prop :=
  ∀ (s : State) (c : Ctx) (pg : Guard),
    let ls := lanesOf c.lanes
    let goes (i : Instr) (tgt : Nat → Nat) : Prop :=
      if ls = [] then Completes i s c id
      else ∃ y, exec i s = .next { s with iss := none, threads := SMap.put s.threads c.t y }
        ∧ y = { (c.x.divide c.e c.npc (groupLanes ls tgt)).1 with splits := y.splits, yielding := y.yielding }
        ∧ ∀ e, EntryIs y e ((c.x.divide c.e c.npc (groupLanes ls tgt)).1.split e)
    (s.issues (.ret pg) c →
      ((∀ l ∈ ls, s.isCode c.x (c.linkAt l) = true) → c.poisoned (.ret pg) = false → goes (.ret pg) c.linkAt)
      ∧ (∀ l ∈ ls, s.isCode c.x (c.linkAt l) = false → (∀ h ∈ ls, h < l → s.isCode c.x (c.linkAt h) = true) →
          Raises (.ret pg) s c (badTarget (c.linkAt l))))
    ∧ (∀ (a : Reg) (n1 : BitVec 12) (tab : BitVec 32),
      let i : Instr := .brx pg a n1 tab
      let ent (l : Nat) : Nat := (c.tableAt tab + 4 * (c.x.get a l).toNat) % 2 ^ 48
      let tgt (l : Nat) : Nat := ((s.textOf c.x).1 + (s.tableEntry c.x.space (ent l)).getD 0) % 2 ^ 48
      let high (l : Nat) : Bool := n1.toNat + 1 ≤ (c.x.get a l).toNat
      s.issues i c → c.poisoned i = false →
      (∀ l ∈ ls, high l = false → (s.tableEntry c.x.space (ent l)).isSome = true ∧ s.tableBad c.x.space (ent l) = false) →
      ((∀ l ∈ ls, high l = false ∧ s.isCode c.x (tgt l) = true) → goes i tgt)
      ∧ ((∀ l ∈ ls, high l = false → s.isCode c.x (tgt l) = true) → (∃ l ∈ ls, high l = true) →
          Raises i s c { code := 0x05, info := (maskOf fun l => hasLane c.lanes l && high l).toNat }))

/-- R36, R226, R227: division among several targets, and `brx` and `ret`. Choices of the model it rests on: log 44. -/
def Obligations.IndirectTransfers : Prop := Spec.DivisionKeepsEveryLane ∧ Spec.IndirectTransfersDivideByTarget

/-- R34, R228: `joinat` takes a free join record for the split's lanes and makes it the split's top record; with 16 in use it
raises JOINDEPTH. -/
def Sys2Proof.Spec.JoinsAreRecorded : Prop :=
  ∀ (s : State) (c : Ctx) (disp : BitVec 21), s.issues (.joinat disp) c →
    let a := c.label disp
    (s.isCode c.x a = false → Raises (.joinat disp) s c (badTarget a))
    ∧ (s.isCode c.x a = true → (c.x.recs.all fun r => r.used) = true → Raises (.joinat disp) s c { code := 0x08 })
    ∧ (∀ r, s.isCode c.x a = true → r < c.x.recs.length → (c.x.record r).used = false → (∀ q, q < r → (c.x.record q).used = true) →
        Completes (.joinat disp) s c fun x => { x with
          recs := setAt x.recs r { used := true, addr := a, recorded := c.sp.mask, parked := 0, inH := 0, count := 1, below := c.sp.top }
          splits := updAt x.splits c.e fun p => { p with top := some r } })

/-- R40, R77, R228: `exit` takes the participating lanes out of the split and of the recorded masks of its join records. Where a
lane is left, execution goes on; a context ends, and so does a strand's split whose last lane exits. -/
def Sys2Proof.Spec.ExitRemovesLanes : Prop :=
  ∀ (s : State) (c : Ctx) (pg : Guard), s.issues (.exit pg) c →
    (c.lanes = 0 → Completes (.exit pg) s c id)
    ∧ (c.x.seq = false → c.lanes ≠ 0 → c.sp.mask &&& ~~~c.lanes ≠ 0 →
        CompletesIn (.exit pg) s c ((s.exitOps c.x.uid c.lanes).setThread c.t (c.x.exitLanes c.e c.lanes))
        ∧ (c.x.exitLanes c.e c.lanes).split c.e = { c.sp with mask := c.sp.mask &&& ~~~c.lanes }
        ∧ (∀ r, r ∈ c.x.chain 17 c.sp.top → r < c.x.recs.length →
            ((c.x.exitLanes c.e c.lanes).record r).recorded &&& c.lanes = 0))
    ∧ (c.x.seq = false → c.lanes ≠ 0 → c.sp.mask &&& ~~~c.lanes = 0 →
        exec (.exit pg) s = .next (s.close (.exit pg) c (.ends ((s.exitOps c.x.uid c.lanes).afterLeave c.t ((c.x.exitLanes c.e c.lanes).leaveEntry c.e)))))
    ∧ (c.x.seq = true → c.lanes ≠ 0 →
        exec (.exit pg) s = .next (s.close (.exit pg) c (.ends ((s.endThread c.t).gangCheck c.x.gang)))
        ∧ (SMap.wf Home.reset s.homes = true → SMap.risingFrom 0 s.threads = true → (s.dropThread c.t).thread? c.t = none))

/-- R34, R40, R77, R228: `joinat` and `exit`. Choices of the model it rests on: log 32, 90. -/
def Obligations.JoinsAndExits : Prop := Spec.JoinsAreRecorded ∧ Spec.ExitRemovesLanes

/-- R17, R25, R230 to R233: `nop` does nothing; `yield` marks the strand, or passes the context over once; `winb` moves the window
and ends the region, and raises REGRANGE for a base beyond the allocation; `rgn` marks the region and takes a place in the operand
buffer while there is one; `sigchk` compares the split's signature where Signet is on. -/
def Sys2Proof.Spec.WindowRegionAndSignature : Prop :=
  ∀ (s : State) (c : Ctx) (pg : Guard),
    (s.issues (.nop pg) c → Completes (.nop pg) s c id)
    ∧ (s.issues (.yield pg) c →
        (c.lanes = 0 → Completes (.yield pg) s c id)
        ∧ (c.lanes ≠ 0 → c.x.seq = false → Completes (.yield pg) s c fun x => { x with yielding := true })
        ∧ (c.lanes ≠ 0 → c.x.seq = true →
            CompletesIn (.yield pg) s c (s.setCluster c.x.clus { s.cluster c.x.clus with pass := some c.x.slot })))
    ∧ (∀ n : BitVec 4, s.issues (.winb pg n) c →
        (c.lanes = 0 → Completes (.winb pg n) s c id)
        ∧ (c.lanes ≠ 0 → c.x.regs ≤ 32 * n.toNat → Raises (.winb pg n) s c { code := 0x03, info := 32 * n.toNat })
        ∧ (c.lanes ≠ 0 → 32 * n.toNat < c.x.regs → CompletesIn (.winb pg n) s c
            ((leavesBuffer s c).setThread c.t { c.x with region := none, staged := false, winBase := 32 * n.toNat })))
    ∧ (∀ (f1 f2 : Fin 96) (l1 : BitVec 6) (l2 : BitVec 5), s.issues (.rgn (.v f1) l1 (.v f2) l2) c →
        let i : Instr := .rgn (.v f1) l1 (.v f2) l2
        let bad (f len : Nat) : Prop := len ≠ 0 ∧ (96 < f + len ∨ c.x.regs < c.x.winBase + f + len)
        let s1 := leavesBuffer s c
        let q := s1.quad (c.t / 16)
        let rg := some (c.x.winBase + f1.val, l1.toNat, c.x.winBase + f2.val, l2.toNat)
        ((bad f1.val l1.toNat ∨ bad f2.val l2.toNat) → ∃ n, Raises i s c { code := 0x03, info := n })
        ∧ (¬ bad f1.val l1.toNat → ¬ bad f2.val l2.toNat →
            (l1 = 0 → l2 = 0 → CompletesIn i s c (s1.setThread c.t { c.x with region := none, staged := false }))
            ∧ ((l1 ≠ 0 ∨ l2 ≠ 0) → q.places < 4 → CompletesIn i s c
                ((s1.setQuad (c.t / 16) { q with places := q.places + 1 }).setThread c.t { c.x with region := rg, staged := true }))
            ∧ ((l1 ≠ 0 ∨ l2 ≠ 0) → 4 ≤ q.places → CompletesIn i s c
                (s1.setThread c.t { c.x with region := rg, staged := false }))))
    ∧ (∀ imm : BitVec 16, s.issues (.sigchk imm) c →
        ((s.signetOn c.x.launch = false ∨ c.sp.sig = imm) → Completes (.sigchk imm) s c id)
        ∧ (s.signetOn c.x.launch = true → c.sp.sig ≠ imm →
            Raises (.sigchk imm) s c { code := 0x07, info := c.sp.sig.toNat + 65536 * imm.toNat }))

/-! ## Memory, synchronisation (chapters 3, 7, 8, 9 and 16) -/

namespace Sys2Proof.Spec

/-- The byte of physical memory that a core sees: its L1's, or the home's (R105). -/
def seen (s : State) (cid pa : Nat) : Byte :=
  let l := s.l1 cid (lineOf pa)
  if l.readable then byteAt l.data (pa % 128) else Memory.read s.mem pa

/-- The number of `w` bytes from a physical address as a core sees them, little-endian (R7). -/
def seenLe (s : State) (cid pa w : Nat) : Nat := leNat ((List.range w).map fun i => seen s cid (pa + i))

/-- No participating lane's access of `w` bytes, aligned to `w`, faults (R260): aligned, below 2^48, in the launch's residency
ranges, and permitted by its page. -/
abbrev Allowed (s : State) (c : Ctx) (ea : Nat → DWord) (w : Nat) (acc : Acc) : Prop :=
  ∀ l ∈ lanesOf c.lanes, (ea l).toNat % w = 0 ∧ (ea l).toNat < 2 ^ 48 ∧ s.leaseOut c.x.launch (ea l).toNat w = false
    ∧ s.denied c.x.space (ea l).toNat acc = none

/-- The lines of the participating lanes' accesses (R104). -/
def lines (s : State) (c : Ctx) (ea : Nat → DWord) (w : Nat) : List LReq :=
  s.lineReqs c.x.space w ((lanesOf c.lanes).map fun l => (ea l).toNat)

/-- Nothing is under way for a line: it is served in the core's L1, neither asked for nor to be returned, and not kept at its home for
the core (R105, R132, R138). -/
abbrev Settled (s : State) (c : Ctx) (r : LReq) : Prop :=
  let l := s.l1 c.x.cid r.pl
  r.l2 = false ∧ l.moving = false ∧ l.stale = false ∧ l.asker = none ∧ l.ret = false ∧ (s.home r.pl).reserved ≠ some c.x.cid

/-- The core's L1 holds every line, with the bytes that are read. -/
abbrev Cached (s : State) (c : Ctx) (rs : List LReq) : Prop :=
  ∀ r ∈ rs, Settled s c r ∧ (s.l1 c.x.cid r.pl).readable = true ∧ r.mask &&& ~~~(s.l1 c.x.cid r.pl).held = 0

/-- The core may store to every line: it owns the line, or the line is an untracked one of a SW page (R105, R128); and no other node's
bytes are written over (R359). -/
abbrev Storable (s : State) (c : Ctx) (rs : List LReq) : Prop :=
  ∀ r ∈ rs, Settled s c r ∧ ((s.l1 c.x.cid r.pl).exclusive = true ∨ (r.hw = false ∧ (s.l1 c.x.cid r.pl).untracked = true))
    ∧ (s.l1 c.x.cid r.pl).otherDirty r.mask (s.whoOf c.x.launch) = false

/-- The core owns every line, and none has an outside request on its way (R128, R132). -/
abbrev Owned (s : State) (c : Ctx) (rs : List LReq) : Prop :=
  ∀ r ∈ rs, Settled s c r ∧ (s.l1 c.x.cid r.pl).exclusive = true ∧ s.forwardPending c.x.cid r.pl = false
    ∧ (s.l1 c.x.cid r.pl).otherDirty r.mask (s.whoOf c.x.launch) = false

/-- No earlier access of the issuing lanes is under way (R104, R106). -/
abbrev First (s : State) (c : Ctx) : Prop := s.behind c.op c.x.uid c.act = false

/-- No lane reads poison (R354). -/
abbrev Clean (s : State) (c : Ctx) (ea : Nat → DWord) (w : Nat) : Prop :=
  ∀ l ∈ lanesOf c.lanes, (s.viewAt c.x.cid c.x.space (ea l).toNat w).2 = false

/-- The value at a lane's address as the core sees it. -/
def value (s : State) (c : Ctx) (ea : Nat → DWord) (w : Nat) (l : Nat) : Nat := (s.viewAt c.x.cid c.x.space (ea l).toNat w).1

/-- A load of present lines completes: the destination of each participating lane takes its value, and memory stays as it is. -/
def Loads (i : Instr) (w : Width) (d : Reg) (c : Ctx) (ea : Nat → DWord) (s s1 : State) : Prop :=
  let t := s1.putWide c w d (value s1 c ea w.bytes)
  Ends i s c (.fall t) ∧ t.mem = s1.mem

/-- The lanes of a line store to it, in ascending lane order. -/
def storeLine (c : Ctx) (w : Width) (d : Reg) (ea : Nat → DWord) (s t : State) (r : LReq) : State :=
  (lanesOf (s.lanesIn c (fun l => (ea l).toNat) r)).foldl (fun (t : State) l =>
    t.storeAt c.x.cid c.x.space (s.whoOf c.x.launch) (ea l).toNat w.bytes (c.dataAt w d l)) t

/-- The accesses of a release or an acquire at cluster scope or wider, over their lines, from a state on; where a line is not there they
are under way. -/
def goes (i : Instr) (s : State) (c : Ctx) (ea : Nat → DWord) (w : Nat) (get : State → LReq → Got)
    (act : LReq → Mask → State → Part → State × Part) (p0 : Part) (t0 : State) (fin : State → Part → Done) : Prop :=
  ∀ t p all, goLines false (t0.lanesIn c fun l => (ea l).toNat) get act (lines t0 c ea w) t0 p0 = (t, p, all) →
    Ends i s c (if all then fin t p else .later t p)

/-- No watch of the lanes is pending or struck (R125). -/
abbrev Unwatched (c : Ctx) (m : Mask) : Prop := ∀ w ∈ c.x.loupe, w.mask &&& m = 0

/-- The release half of an instruction is over in `t`: no watch of its lanes is pending or struck, and at cluster scope or wider the
release actions, which a context has none of, have been performed (R106, R125). -/
abbrev Released (s : State) (c : Ctx) (sc : Scope) (m : Mask) (t : State) : Prop :=
  Unwatched c m ∧ if scopeWide sc = true then
      (c.x.seq = true ∨ s.releaseBlocked c.x.cid = []) ∧ (sc = .dom → s.remoteDone c.x.uid m = true)
        ∧ t = (if c.x.seq then s else s.releaseLines c.x.cid)
    else t = s

end Sys2Proof.Spec

/-- R7, R105: what an access reads is the little-endian number of the bytes that its core sees. -/
def Sys2Proof.Spec.AViewIsItsBytes : Prop :=
  ∀ (s : State) (cid space va w pa : Nat), s.pa? space va = some pa → pa % 128 + w ≤ 128 →
    (s.viewAt cid space va w).1 = seenLe s cid pa w

/-- R103, R105, R129: a store makes the core see its bytes where it stores; every other byte, as the core sees it and at the home,
is as before. -/
def Sys2Proof.Spec.AStoreWritesItsBytes : Prop :=
  ∀ (s : State) (cid space who va w x pa : Nat), s.memoryOk → s.pa? space va = some pa → pa % 128 + w ≤ 128 → 0 < w →
    SMap.risingFrom 0 s.cores = true → SMap.risingFrom 0 (s.core cid).l1 = true →
    let t := s.storeAt cid space who va w x
    (∀ i, i < w → seen t cid (pa + i) = BitVec.ofNat 8 (x / 256 ^ i))
    ∧ (∀ b, (b < pa ∨ pa + w ≤ b) → seen t cid b = seen s cid b ∧ Memory.read t.mem b = Memory.read s.mem b)

/-- R7, R103, R105, R129: reads and writes of bytes, as a core sees them. Choices of the model it rests on: log 3, 12, 13. -/
def Obligations.MemoryAsACoreSeesIt : Prop := Spec.AViewIsItsBytes ∧ Spec.AStoreWritesItsBytes

/-- R259 to R261: loads. Where every lane's access is allowed, its line present and no earlier access of the lanes under way, `ld`, `ld.b128`,
`ld.s8`, `ld.s16` and a strand's `ldk` (of its lowest participating lane) write the value read, extended to the register, and no
memory; a lane whose line is not there makes the access wait for it, the split going on; a misaligned lane raises ALIGN with the mask
of those lanes. -/
def Sys2Proof.Spec.LoadsReadWhatTheCoreSees : Prop :=
  ∀ (s : State) (c : Ctx) (pg : Guard) (w : Width) (d a : Reg),
    let load (i : Instr) (off : BitVec 32) : Prop := s.issues i c →
      let ea := c.ea a off
      (c.lanes = 0 → Completes i s c id)
      ∧ (c.lanes ≠ 0 → Allowed s c ea w.bytes .load → First s c → Cached s c (lines s c ea w.bytes) → Clean s c ea w.bytes →
          Loads i w d c ea s s)
      ∧ (∀ r, Allowed s c ea w.bytes .load → First s c → lines s c ea w.bytes = [r] → r.l2 = false → (s.l1 c.x.cid r.pl).moving = true →
          Ends i s c (.later s c.part))
      ∧ (∀ l ∈ lanesOf c.lanes, (ea l).toNat % w.bytes ≠ 0 →
          ∃ va, Raises i s c { code := 0x0A, addr := va,
                               info := (maskOf fun l => hasLane c.lanes l && (ea l).toNat % w.bytes != 0).toNat })
    (∀ (o : BitVec 7) (ext : Option (BitVec 32)), load (.ld w pg d a o ext) (match ext with
        | some x => x
        | none => BitVec.ofInt 32 (o.toInt * w.bytes)))
    ∧ (∀ ext : Option (BitVec 32), load (.ldB128Signed w pg d a ext) (ext.getD 0))
    ∧ (∀ ext : Option (BitVec 32), s.issues (.ldk w pg d a ext) c → c.x.seq = false → c.lanes ≠ 0 →
        let one : Ctx := { c with lanes := 1 <<< lowLane c.lanes }
        let ea := c.ea a (ext.getD 0)
        Allowed s one ea w.bytes .load → First s c → Cached s one (lines s one ea w.bytes) → Clean s one ea w.bytes →
        Ends (.ldk w pg d a ext) s c (.fall (s.putWide one w d (value s one ea w.bytes))))
    ∧ (∀ ext : Option (BitVec 32), s.issues (.ldk w pg d a ext) c → c.x.seq = true → c.lanes ≠ 0 →
        let ea := c.ea a (ext.getD 0)
        let va := (ea 0).toNat
        ∀ t x, Allowed s c ea w.bytes .load → s.seqRead c va w.bytes = .inr (t, x, false) →
        Ends (.ldk w pg d a ext) s c (.fall (t.putWide c w d fun _ => x)))

/-- R261: signed widths are extended by sign, the others by zero, and a pair or quad is filled from its low register. -/
def Sys2Proof.Spec.LoadsExtend : Prop :=
  ∀ (w : Width) (x i : Nat), x < 2 ^ (8 * w.bytes) → i < w.regs →
    extendWord w x i = match w with
      | .s8 => (BitVec.ofNat 8 x).signExtend 32
      | .s16 => (BitVec.ofNat 16 x).signExtend 32
      | _ => BitVec.ofNat 32 (x / 2 ^ (32 * i))

/-- R259 to R262: stores. Where every lane's access is allowed and its line may be stored to, `st` and `st.b128` store each lane's data, low
register first, line by line and in ascending lane order. Choices of the model it rests on: log 12, 13. -/
def Obligations.StoresStoreEachLane : Prop :=
  ∀ (s : State) (c : Ctx) (pg : Guard) (w : Width) (d a : Reg),
    let store (i : Instr) (w : Width) (off : BitVec 32) : Prop := s.issues i c →
      let ea := c.ea a off
      (c.lanes = 0 → Completes i s c id)
      ∧ (c.lanes ≠ 0 → Allowed s c ea w.bytes .store → First s c → Storable s c (lines s c ea w.bytes) →
          Ends i s c (.fall ((lines s c ea w.bytes).foldl (storeLine c w d ea s) s)))
    (∀ (o : BitVec 7) (ext : Option (BitVec 32)), store (.st w pg d a o ext) w (match ext with
        | some x => x
        | none => BitVec.ofInt 32 (o.toInt * w.bytes)))
    ∧ (∀ ext : Option (BitVec 32), store (.stB128 pg d a ext) .b128 (ext.getD 0))

/-- R106, R117, R125, R262, R274: `ld.acq`, `st.rel` and `fence`. An acquire acts on the L1 before it reads, and at cluster scope or
wider a SW page's lines are read anew; a release waits for the watches of its lanes, raises WATCHUNCHK for a struck one with none of
its effect, and acts on the L1 before it writes; it notes itself on the lines that it writes. At strand and group scope the L1 stays as
it is. -/
def Sys2Proof.Spec.AcquiresAndReleases : Prop :=
  ∀ (s : State) (c : Ctx) (pg : Guard) (w : Width) (d a : Reg) (sc : Scope) (ext : Option (BitVec 32)) (ord : AOrd),
    let ea := c.ea a (ext.getD 0)
    let va (l : Nat) : Nat := (ea l).toNat
    let struck (m : Mask) : Mask := c.x.loupe.foldl (fun n e => if e.struck then n ||| (e.mask &&& m) else n) 0
    let wide : Prop := sc ≠ .str ∧ sc ≠ .grp
    let begun : Part := { c.part with acq := true }
    let noMix (t : State) : Prop := ∀ r ∈ lines t c ea w.bytes, t.scopeMix c.x sc (t.relOf c.x.cid r.pl) = none
    (s.issues (.ldAcq w sc pg d a ext) c →
      let i : Instr := .ldAcq w sc pg d a ext
      (c.lanes = 0 → Completes i s c id)
      ∧ (c.lanes ≠ 0 → Allowed s c ea w.bytes .load → First s c →
          (¬ wide → Cached s c (lines s c ea w.bytes) → Clean s c ea w.bytes → noMix s → Loads i w d c ea s s)
          ∧ (wide → c.x.seq = false → s.acquireBlocked c.x.cid = [] →
              let t := s.acquire c.x.cid
              (t.behind c.op c.x.uid c.act = false → Cached t c (lines t c ea w.bytes) →
                (∀ r ∈ lines t c ea w.bytes, (t.l1 c.x.cid r.pl).untracked = false) → Clean t c ea w.bytes → noMix t →
                Loads i w d c ea s t)
              ∧ (t.behind c.op c.x.uid c.act = false → goes i s c ea w.bytes (fun s r => s.getFresh c.x.cid c.op r)
                  (readLanes c w.bytes va (some sc)) begun t
                  fun s p => if p.bad.isSome then loaded c w d s p else s.checkMix c sc p fun s => loaded c w d s p))))
    ∧ (s.issues (.stRel w sc pg d a ext) c →
      let i : Instr := .stRel w sc pg d a ext
      (c.lanes = 0 → Completes i s c id)
      ∧ (c.lanes ≠ 0 → Allowed s c ea w.bytes .store → (∀ e ∈ c.x.loupe, e.struck = true ∨ e.mask &&& c.lanes = 0) →
          struck c.lanes ≠ 0 → Raises i s c { code := 0x15, info := (struck c.lanes).toNat })
      ∧ (c.lanes ≠ 0 → Allowed s c ea w.bytes .store → Unwatched c c.lanes →
          (¬ wide → First s c → Storable s c (lines s c ea w.bytes) →
            Ends i s c (.fall ((lines s c ea w.bytes).foldl (fun t r => (storeLine c w d ea s t r).noteRel c sc r.pl) s)))
          ∧ (wide → c.x.seq = false → s.releaseBlocked c.x.cid ≠ [] → Ends i s c (.later (s.releaseAsk c.x.cid) c.part))
          ∧ (wide → s.releaseBlocked c.x.cid = [] → (sc = .dom → s.remoteDone c.x.uid c.lanes = true) →
              let t := s.releaseLines c.x.cid
              c.x.seq = false → t.behind c.op c.x.uid c.act = false →
              goes i s c ea w.bytes (fun s r => s.getCarried c.x.cid c.op (s.whoOf c.x.launch) r) (storeLanes c w d va (some sc))
                { c.part with rel := true } t fun s _ => .fall s)))
    ∧ (s.issues (.fence ord sc pg) c →
      let i : Instr := .fence ord sc pg
      (c.lanes = 0 → Completes i s c id)
      ∧ (c.lanes ≠ 0 → ¬ wide → (ord = .acq ∨ Unwatched c c.act) → Completes i s c id)
      ∧ (c.lanes ≠ 0 → ord = .acq → wide → c.x.seq = false → First s c → s.acquireBlocked c.x.cid = [] →
          Ends i s c (.fall (s.acquire c.x.cid)))
      ∧ (c.lanes ≠ 0 → ord = .rel → Unwatched c c.act → wide → c.x.seq = false → (sc = .dom → s.remoteDone c.x.uid c.act = true) →
          s.releaseBlocked c.x.cid = [] → Ends i s c (.fall (s.releaseLines c.x.cid)))
      ∧ (c.lanes ≠ 0 → ord = .ar → Unwatched c c.act → wide → c.x.seq = false → (sc = .dom → s.remoteDone c.x.uid c.act = true) →
          s.releaseBlocked c.x.cid = [] →
          let t := s.releaseLines c.x.cid
          t.behind c.op c.x.uid c.act = false → t.acquireBlocked c.x.cid = [] → Ends i s c (.fall (t.acquire c.x.cid)))
      ∧ (c.lanes ≠ 0 → ord ≠ .acq → (∀ e ∈ c.x.loupe, e.struck = true ∨ e.mask &&& c.act = 0) → struck c.act ≠ 0 →
          Raises i s c { code := 0x15, info := (struck c.act).toNat }))

/-- R106, R113: the acquire actions leave no clean byte of an untracked SW line in the core's L1: the line goes, its dirty bytes first
home. Lines of a HW page, lines that the core owns and untracked ones with no clean byte stay. -/
def Sys2Proof.Spec.AcquiresDropCleanBytes : Prop :=
  ∀ (s : State) (cid line : Nat), s.monitors = [] → SMap.wf Core.reset s.cores = true → SMap.wf Line.reset (s.core cid).l1 = true →
    let t := s.acquire cid
    let l := s.l1 cid line
    ((l.sw = false ∨ l.exclusive = true ∨ (l.st = .S ∧ l.hasClean = false)) → t.l1 cid line = l)
    ∧ (l.untracked = true → l.hasClean = true → t.l1 cid line = Line.reset)

/-- R106, R125, R262, R274: acquiring loads, releasing stores and fences. Choices of the model it rests on: log 19, 34, 35, 82. -/
def Obligations.AcquiresReleasesAndFences : Prop := Spec.AcquiresAndReleases ∧ Spec.AcquiresDropCleanBytes

/-- R119 to R121, R265: `ldw`. With every line present its lanes take the bytes at hit latency, and each line that this instruction did not
fill joins the strand's entry of that line and fill, or makes a pending entry whose confirm request is sent; a strand has 32 entries,
and with none free a present line is given up and asked for again. Choices of the model it rests on: log 11, 86. -/
def Obligations.WatchedLoadsMakeEntries : Prop :=
  (∀ (s : State) (c : Ctx) (pg : Guard) (w : Width) (d a : Reg) (ext : Option (BitVec 32)), s.issues (.ldw w pg d a ext) c →
    let i : Instr := .ldw w pg d a ext
    let ea := c.ea a (ext.getD 0)
    let rs := lines s c ea w.bytes
    (c.lanes = 0 → Completes i s c id)
    ∧ (c.lanes ≠ 0 → Allowed s c ea w.bytes .load → First s c → Clean s c ea w.bytes → c.x.loupe.length + rs.length ≤ 32 →
        Cached s c rs → (∀ r ∈ rs, (s.l1 c.x.cid r.pl).filled = true) →
        let t := (byVirtual rs).foldl (fun (t : State) r => t.watchLine c r (s.lanesIn c (fun l => (ea l).toNat) r)) s
        Ends i s c (.fall (t.putWide c w d (value s c ea w.bytes))))
    ∧ (∀ r, c.lanes ≠ 0 → Allowed s c ea w.bytes .load → First s c → 32 ≤ c.x.loupe.length → rs = [r] → Cached s c rs →
        (s.l1 c.x.cid r.pl).filled = true → (s.l1 c.x.cid r.pl).exclusive = true → s.leased c.x.cid r.pl = false →
        (∀ e ∈ c.x.loupe, e.covers r (s.l1 c.x.cid r.pl) = false) →
        Ends i s c (.later (s.evictLine c.x.cid (r.pl, s.l1 c.x.cid r.pl)) c.part)))
  ∧ (∀ (s : State) (c : Ctx) (r : LReq) (m : Mask) (x : Thread), s.thread? c.t = some x →
      let l := s.l1 c.x.cid r.pl
      let t := s.watchLine c r m
      let mine (w : Loupe) : Bool := w.line == r.vl && w.stamp == l.stamp
      let present : Prop := l.readable = true ∧ l.filled = true ∧ l.asker ≠ some c.op
      (¬ present → t = s)
      ∧ (present → x.loupe.any mine = true →
          t = s.setThread c.t { x with loupe := (x.loupe.map fun w => if mine w then { w with mask := w.mask ||| m } else w) })
      ∧ (present → x.loupe.any mine = false → 32 ≤ x.loupe.length → t = s)
      ∧ (present → x.loupe.any mine = false → x.loupe.length < 32 →
          let e : Loupe := { line := r.vl, pline := r.pl, fver := l.ver, stamp := l.stamp, mask := m, struck := false,
                             serial := s.uid, since := s.cycle }
          let q : WMsg := { serial := s.uid, core := c.x.cid, pline := r.pl, fver := l.ver, stamp := l.stamp, verdict := none }
          t = { s.setThread c.t { x with loupe := x.loupe ++ [e] } with uid := s.uid + 1, watches := s.watches ++ [q] }))

/-- R122: the home confirms a watch when the line's version record is there, older than the fill, within 32,768 cycles of it and
unchanged since, and no other cache owns the line; else it strikes. A confirmation frees the entry, a strike marks it, and so does
the L1 itself 8,000 cycles after the `ldw`. -/
def Sys2Proof.Spec.WatchesAreDecided : Prop :=
  (∀ (s : State) (q : WMsg), q ∈ s.watches → q.verdict = none → (∀ p ∈ s.watches, p.serial = q.serial → p = q) →
    let h := s.home q.pline
    let ok : Prop := h.present = true ∧ h.stamp ≤ q.stamp ∧ s.cycle < q.stamp + 32768 ∧ h.ver = q.fver
      ∧ s.heldElsewhere q.core q.pline = false
    ∃ v : Bool, (v = false ↔ ok) ∧ exec (.confirm q.serial) s = .next { s with
      watches := (s.watches.map fun p => if p = q then { p with verdict := some v } else p) })
  ∧ (∀ (s : State) (t n : Nat) (x : Thread) (e : Loupe), s.thread? t = some x → e ∈ x.loupe →
      e.serial = n → e.struck = false → (∀ w ∈ x.loupe, w.serial = n → w = e) →
      (∀ v : Bool, (∃ q ∈ s.watches, q.serial = n ∧ q.verdict = some v) →
        ∃ r, exec (.watchVerdict n v) s = .next r ∧ r.mem = s.mem ∧ (∀ q ∈ r.watches, q.serial ≠ n)
          ∧ r.thread? t = some { x with loupe :=
              (if v then (x.loupe.map fun w => if w = e then { w with struck := true } else w) else x.loupe.filter fun w => w ≠ e) })
      ∧ (e.since + 8000 ≤ s.cycle → ∃ r, exec (.watchTimeout n) s = .next r ∧ r.mem = s.mem ∧ r.watches = s.watches
          ∧ r.thread? t = some { x with loupe := (x.loupe.map fun w => if w = e then { w with struck := true } else w) }))

/-- R124: `wchk` waits for the lanes' pending watches, then reports each participating lane that a struck entry covers, takes those
lanes out of the struck entries and frees the empty ones. -/
def Sys2Proof.Spec.ChecksReportStrikes : Prop :=
  ∀ (s : State) (c : Ctx) (pg : Guard) (pd : Fin 8), s.issues (.wchk pg pd) c →
    ((∃ w ∈ c.x.loupe, w.struck = false ∧ w.mask &&& c.lanes ≠ 0) → Ends (.wchk pg pd) s c .hold)
    ∧ ((∀ w ∈ c.x.loupe, w.struck = true ∨ w.mask &&& c.lanes = 0) → Completes (.wchk pg pd) s c fun x =>
        let y := c.result s 0 (.p pd.val) c.lanes (fun l => if c.x.loupe.any fun w => w.struck && hasLane w.mask l then 1 else 0) x
        { y with loupe := ((x.loupe.map fun w => if w.struck then { w with mask := w.mask &&& ~~~c.lanes } else w).filter
                   fun w => w.mask != 0) })

/-- R122, R124: the decision of watches, and `wchk`. Choices of the model it rests on: log 11, 61. -/
def Obligations.WatchesAreDecidedAndChecked : Prop := Spec.WatchesAreDecided ∧ Spec.ChecksReportStrikes

namespace Sys2Proof.Spec

/-- R48 for the lanes of an access of `w` bytes aligned to `w`. -/
abbrev InScratch (s : State) (c : Ctx) (addr : Nat → Nat) (w : Nat) : Prop :=
  ∀ l ∈ lanesOf c.lanes, addr l % w = 0 ∧ s.scratchOk c.x (addr l) w = true

/-- The lanes' atomics on scratchpad words, one after another in the given order: the state after them and each lane's old word. -/
def padAtomics (c : Ctx) (op : AOp) (addr : Nat → Nat) (v cmp : Nat → Word) : List Nat → State → SMap Word → State × SMap Word
  | [], s, olds => (s, olds)
  | l :: r, s, olds =>
    let p := s.scratchOf c (addr l)
    let old : Word := BitVec.ofNat 32 (s.scratchGet p 4)
    padAtomics c op addr v cmp r (s.scratchPut p (leBytes 4 (atomicWord op old (v l) (cmp l)).toNat)) (SMap.put olds l old)

/-- The lanes' atomics on memory words, one after another in the given order. -/
def memAtomics (c : Ctx) (op : AOp) (va : Nat → Nat) (v cmp : Nat → Word) : List Nat → State → SMap Word → State × SMap Word
  | [], s, olds => (s, olds)
  | l :: r, s, olds =>
    let old : Word := BitVec.ofNat 32 (s.viewAt c.x.cid c.x.space (va l) 4).1
    memAtomics c op va v cmp r
      (s.storeAt c.x.cid c.x.space (s.whoOf c.x.launch) (va l) 4 (atomicWord op old (v l) (cmp l)).toNat) (SMap.put olds l old)

end Sys2Proof.Spec

/-- R48: the bytes that scratchpad addresses name, the issuing group's own and through the cluster window, and those that name
none. -/
def Sys2Proof.Spec.ScratchpadAddresses : Prop :=
  ∀ (g : Gang) (grp : Nat) (x : Grp), g.groups[grp]? = some x → g.size ≤ 0xC0000 →
    let core (y : Grp) : Nat := (g.die * 8 + g.cluster) * 8 + y.core
    (∀ a, a < g.size → g.scratchAt grp a = some (core x, x.scratch + a))
    ∧ (∀ a, g.size ≤ a → a < 0x1000000 → g.scratchAt grp a = none)
    ∧ (∀ n a, n < 8 → a < 2 ^ 20 →
        g.scratchAt grp (0x1000000 + n * 0x100000 + a) = match g.groupOn n with
          | some y => if a < g.size then some (core y, y.scratch + a) else none
          | none => none)
    ∧ (∀ a, 0x1800000 ≤ a → g.scratchAt grp a = none)

/-- R50 to R52, R55, R264, R270: scratchpad loads, stores, atomics and bound broadcasts, on valid addresses and with no poison read;
global memory and the other cores' scratchpads stay as they are. -/
def Sys2Proof.Spec.ScratchpadAccesses : Prop :=
  (∀ (s : State) (c : Ctx) (pg : Guard) (w : Width) (d a v : Reg) (op : AOp),
    let addr (l : Nat) : Nat := (c.x.get a l).toNat
    let pure (w : Nat) : Prop := ∀ l ∈ lanesOf c.lanes, s.scratchBad (s.scratchOf c (addr l)) w = false
    (s.issues (.lds w pg d a) c → InScratch s c addr w.bytes → pure w.bytes → Completes (.lds w pg d a) s c fun x =>
      (List.range w.regs).foldl (fun x i => (if i % 2 = 1 then c.resultHi else c.result) s 0 (d.dst c.x.winBase i) c.lanes
        (fun l => extendWord w (s.scratchGet (s.scratchOf c (addr l)) w.bytes) i) x) x)
    ∧ (s.issues (.sts w pg d a) c → InScratch s c addr w.bytes → Ends (.sts w pg d a) s c (.fall ((lanesOf c.lanes).foldl
        (fun t l => t.scratchPut (t.scratchOf c (addr l)) (leBytes w.bytes (c.dataAt w d l))) s)))
    ∧ (s.issues (.atoms op pg d a v) c → InScratch s c addr 4 → pure 4 →
        let r := padAtomics c op addr (c.x.get v) (c.x.get d) (lanesOf c.lanes) s []
        Ends (.atoms op pg d a v) s c (.fall (r.1.put c 0 d fun l => SMap.getD r.2 l 0)))
    ∧ (∀ (max sg : Bool) (g : Gang), s.issues (.atomsBcast max sg pg d a v) c → s.gang? c.x.gang = some g →
        let off := addr (lowLane c.lanes)
        let copies := g.groups.map fun x => ((g.die * 8 + g.cluster) * 8 + x.core, x.scratch + off)
        (c.lanes = 0 → Completes (.atomsBcast max sg pg d a v) s c id)
        ∧ (∀ t, c.lanes ≠ 0 → off % 4 = 0 → off + 4 ≤ g.size → g.size ≤ 0xC0000 → (∃ x, g.groups[c.x.group]? = some x) →
            Released s c .cls c.lanes t → (∀ p ∈ copies, t.scratchBad p 4 = false) →
            let one (r : State × SMap Word) (l : Nat) : State × SMap Word :=
              (copies.foldl (fun (u : State) p => u.scratchPut p (leBytes 4 (atomicWord (bcastOp max sg)
                  (BitVec.ofNat 32 (u.scratchGet p 4)) (c.x.get v l) 0).toNat)) r.1,
               SMap.put r.2 l (BitVec.ofNat 32 (r.1.scratchGet (r.1.scratchOf c off) 4)))
            let r := (lanesOf c.lanes).foldl one (t, [])
            Ends (.atomsBcast max sg pg d a v) s c (.fall (r.1.put c 0 d fun l => SMap.getD r.2 l 0)))))
  ∧ (∀ (s : State) (p : Nat × Nat) (bs : List Byte) (k b : Nat), SMap.wf Core.reset s.cores = true →
      SMap.risingFrom 0 (s.core p.1).scratch = true →
      let t := s.scratchPut p bs
      t.mem = s.mem ∧ t.threads = s.threads ∧ (k ≠ p.1 → t.core k = s.core k)
      ∧ SMap.getD (t.core p.1).scratch b 0 = if p.2 ≤ b ∧ b < p.2 + bs.length then bs.getD (b - p.2) 0
          else SMap.getD (s.core p.1).scratch b 0)

/-- R50, R264: a misaligned lane raises ALIGN with the mask of those lanes, an address outside the allocation SCRATCHRANGE. -/
def Sys2Proof.Spec.ScratchpadFaults : Prop :=
  ∀ (s : State) (c : Ctx) (pg : Guard) (w : Width) (d a : Reg),
    let addr (l : Nat) : Nat := (c.x.get a l).toNat
    let bad := maskOf fun l => hasLane c.lanes l && addr l % w.bytes != 0
    ∀ i ∈ [Instr.lds w pg d a, Instr.sts w pg d a], s.issues i c →
      (bad ≠ 0 → Raises i s c { code := 0x0A, addr := addr (lowLane bad), info := bad.toNat })
      ∧ (∀ l ∈ lanesOf c.lanes, bad = 0 → s.scratchOk c.x (addr l) w.bytes = false →
          (∀ h ∈ lanesOf c.lanes, h < l → s.scratchOk c.x (addr h) w.bytes = true) →
          Raises i s c { code := 0x0B, addr := addr l })

/-- R48, R50 to R52, R55, R264, R270: scratchpad addresses, accesses, atomics, broadcasts and faults. Choices of the model it rests on: log
15, 88. -/
def Obligations.TheScratchpad : Prop := Spec.ScratchpadAddresses ∧ Spec.ScratchpadAccesses ∧ Spec.ScratchpadFaults

/-- R53, R54, R354: one lane's operation on a deque whose 16-byte descriptor lies at `p`, its entries from byte `al` of the same core on;
each statement reads the descriptor as the ones before it have left it. A poisoned descriptor or entry, and a malformed descriptor,
are found. -/
def Sys2Proof.Spec.DequeLaneOperations : Prop :=
  ∀ (s : State) (p : Nat × Nat) (al size : Nat) (v : DWord),
    let q (t : State) : Deque := dequeOf (t.scratchGet p 16)
    let n : Int := (((q s).tail : Int) - (q s).head) % 2 ^ 32
    let entry (t : State) (i : Nat) : Nat × Nat := (p.1, al + (q t).base + 8 * (i % ((q t).mask + 1)))
    let setHead (t : State) (x : Nat) : State := t.scratchPut p (leBytes 4 (x % 2 ^ 32))
    let setTail (t : State) (x : Nat) : State := t.scratchPut (p.1, p.2 + 4) (leBytes 4 (x % 2 ^ 32))
    let taken (t u : State) (i : Nat) : Sum DqBad (State × DqRes) :=
      if t.scratchBad (entry t i) 8 then .inl .poison
      else .inr (u, { ok := true, val := BitVec.ofNat 64 (t.scratchGet (entry t i) 8) })
    (s.scratchBad p 16 = true → ∀ op, s.dqStep p al size op v = .inl .poison)
    ∧ (s.scratchBad p 16 = false → (q s).bad size = true → ∀ op, s.dqStep p al size op v = .inl .range)
    ∧ (s.scratchBad p 16 = false → (q s).bad size = false →
      (if n = (q s).mask + 1 then ∃ r, s.dqStep p al size .push v = .inr (s, r) ∧ r.ok = false
       else
         let t := s.scratchPut (entry s (q s).tail) (leBytes 8 v.toNat)
         ∃ r, s.dqStep p al size .push v = .inr (setTail t ((q t).tail + 1), r) ∧ r.ok = true)
      ∧ (if n = 0 then ∃ r, s.dqStep p al size .pop v = .inr (s, r) ∧ r.ok = false
         else
           let t := setTail s ((q s).tail + 2 ^ 32 - 1)
           s.dqStep p al size .pop v = taken t t (q t).tail)
      ∧ (if n = 0 then ∃ r, s.dqStep p al size .steal v = .inr (s, r) ∧ r.ok = false
         else s.dqStep p al size .steal v = taken s (setHead s ((q s).head + 1)) (q s).head))

/-- R53, R54, R271, R354: a deque operation performs its lanes in ascending order, writes each lane's predicate and, of a pop or steal,
the entries; a malformed descriptor raises SCRATCHRANGE and poison POISON, the deque unchanged. -/
def Sys2Proof.Spec.DequesServeLanesInOrder : Prop :=
  ∀ (s : State) (c : Ctx) (pg : Guard) (pd : Fin 8) (d a : Reg) (g : Gang) (op : DqOp), s.gang? c.x.gang = some g →
    let i : Instr := match op with
      | .push => .dqpush pg pd d a
      | .pop => .dqpop pg pd d a
      | .steal => .dqsteal pg pd d a
    let addr := (c.x.get a (lowLane c.lanes)).toNat
    let p := s.scratchOf c addr
    let q := dequeOf (s.scratchGet p 16)
    let run (t : State) : Sum DqBad (State × SMap DqRes) := State.dqLanes c p (p.2 - addr % 2 ^ 20) g.size op d (lanesOf c.lanes) t []
    s.issues i c →
    (c.lanes = 0 → Completes i s c id)
    ∧ (c.lanes ≠ 0 → addr % 16 = 0 → s.scratchOk c.x addr 16 = true →
      (s.scratchBad p 16 = true → Ends i s c (.failed s { code := 0x20 }))
      ∧ (s.scratchBad p 16 = false → q.bad g.size = true → Raises i s c { code := 0x0B, addr := addr })
      ∧ (∀ t, s.scratchBad p 16 = false → q.bad g.size = false → (if op = .push then Released s c .cls c.lanes t else t = s) →
          (run t = .inl .poison → Ends i s c (.failed t { code := 0x20 }))
          ∧ (run t = .inl .range → Ends i s c (.failed t { code := 0x0B, addr := addr }))
          ∧ (∀ u rs, run t = .inr (u, rs) →
              let res (l : Nat) : DqRes := SMap.getD rs l { ok := false, val := 0 }
              let got := maskOf fun l => hasLane c.lanes l && (res l).ok
              let v := u.putP c 0 pd fun l => (res l).ok
              Ends i s c (.fall (if op = .push ∨ got = 0 then v
                else ((v.write c 0 (d.dst c.x.winBase 0) got fun l => (res l).val.extractLsb' 0 32).writeHi c 0 (d.dst c.x.winBase 1) got
                  fun l => (res l).val.extractLsb' 32 32).acquireAt c .cls)))))

/-- R53, R54, R271: deque operations. Choices of the model it rests on: log 88, 89. -/
def Obligations.Deques : Prop := Spec.DequeLaneOperations ∧ Spec.DequesServeLanesInOrder

/-- R267, R269: the new word of each atomic operation; `fadd` rounds to nearest even and never flushes. -/
def Sys2Proof.Spec.AtomicOperations : Prop :=
  ∀ old v cmp : Word,
    (∀ op ∈ [AOp.addS, AOp.addN], atomicWord op old v cmp = old + v)
    ∧ (atomicWord .minS old v cmp).toInt = min old.toInt v.toInt ∧ (atomicWord .minN old v cmp).toNat = min old.toNat v.toNat
    ∧ (atomicWord .maxS old v cmp).toInt = max old.toInt v.toInt ∧ (atomicWord .maxN old v cmp).toNat = max old.toNat v.toNat
    ∧ atomicWord .and old v cmp = old &&& v ∧ atomicWord .or old v cmp = old ||| v ∧ atomicWord .xor old v cmp = old ^^^ v
    ∧ atomicWord .xchg old v cmp = v ∧ atomicWord .cas old v cmp = (if old = cmp then v else old)
    ∧ atomicWord .fadd old v cmp = BitVec.ofNat 32 (once fp32 .rne false (FVal.add .rne) old.toNat v.toNat)

/-- R128, R260, R267, R268: global atomics. With every line owned, the lanes perform one after another, line by line in ascending
address and then in ascending lane order, each returning the word it found; d is the compare value of `cas`. A lane whose word is
poisoned performs nothing, and the instruction then raises POISON, the others' words written. -/
def Sys2Proof.Spec.AtomicsPerformLaneByLane : Prop :=
  ∀ (s : State) (c : Ctx) (pg : Guard) (d a v : Reg),
    let ea := c.ea a 0
    let va (l : Nat) : Nat := (ea l).toNat
    let rs := lines s c ea 4
    let line (op : AOp) (sc : Option Scope) (s : State) (u : State × SMap Word) (r : LReq) : State × SMap Word :=
      let w := memAtomics c op va (c.x.get v) (c.x.get d) (lanesOf (s.lanesIn c va r)) u.1 u.2
      (match sc with
       | some x => w.1.noteRel c x r.pl
       | none => w.1, w.2)
    let go (t : State) (op : AOp) (sc aq : Option Scope) : Done :=
      let w := (byVirtual (lines t c ea 4)).foldl (line op sc t) (t, [])
      let u := match aq with
        | some x => w.1.acquireAt c x
        | none => w.1
      .fall (u.put c 0 d fun l => SMap.getD w.2 l 0)
    let plain (i : Instr) (op : AOp) : Prop := s.issues i c →
      (c.lanes = 0 → Completes i s c id)
      ∧ (c.lanes ≠ 0 → Allowed s c ea 4 .store → First s c → Owned s c rs → Clean s c ea 4 → Ends i s c (go s op none none))
      ∧ (∀ r, c.lanes ≠ 0 → Allowed s c ea 4 .store → First s c → rs = [r] → r.l2 = false → (s.l1 c.x.cid r.pl).moving = true →
          Ends i s c (.later s c.part))
      ∧ (∀ l r, lanesOf c.lanes = [l] → Allowed s c ea 4 .store → First s c → rs = [r] → Owned s c rs → ¬ Clean s c ea 4 →
          Ends i s c (s.consumed c (va l) 4))
    plain (.atomAddS32 pg d a v) .addS ∧ (∀ op, plain (.atom op none pg d a v) op)
    ∧ (∀ op ord sc t, s.issues (.atom op (some (ord, sc)) pg d a v) c → c.lanes ≠ 0 → Allowed s c ea 4 .store →
        (if ord = .acq then t = s else Released s c sc c.lanes t) → First t c →
        Owned t c (lines t c ea 4) → Clean t c ea 4 →
        (ord = .rel ∨ ∀ r ∈ lines t c ea 4, t.scopeMix c.x sc (t.relOf c.x.cid r.pl) = none) →
        Ends (.atom op (some (ord, sc)) pg d a v) s c
          (go t op (if ord = .acq then none else some sc) (if ord = .rel then none else some sc)))

/-- The lines of an access (R104, R120, R268): each physical line once, with every participating address in one of them, and in
ascending virtual line address as an atomic and a watched load take them. -/
def Sys2Proof.Spec.LanesGoByLine : Prop :=
  ∀ (s : State) (space w : Nat) (vas : List Nat),
    let rs := byVirtual (s.lineReqs space w vas)
    (rs.map LReq.pl).Nodup ∧ rs.Pairwise (fun q r => q.vl ≤ r.vl)
    ∧ ∀ va ∈ vas, ∀ pa, s.pa? space va = some pa → ∃ r ∈ rs, r.pl = lineOf pa

/-- R128, R267 to R269: global atomics. Choices of the model it rests on: log 12, 43. -/
def Obligations.GlobalAtomics : Prop := Spec.AtomicOperations ∧ Spec.LanesGoByLine ∧ Spec.AtomicsPerformLaneByLane

/-- R130, R131, R272: leases. `lease` ends the strand's earlier lease first; it is held up by a line under another strand's lease and while
the core holds 16; with the line owned it holds it for n cycles, at most 4,096, and with n = 0 holds none. `unlease` and the end of the
n cycles end it. Choices of the model it rests on: log 12, 87. -/
def Obligations.LeasesHoldAndEnd : Prop :=
  (∀ (s : State) (c : Ctx) (pg : Guard) (d a : Reg), s.issues (.lease pg d a) c →
    let i : Instr := .lease pg d a
    let ea := c.ea a 0
    let n := min (c.x.get d (lowLane c.lanes)).toNat 4096
    let t := s.endOwnLease c
    (c.lanes = 0 → Completes i s c id)
    ∧ (c.lanes ≠ 0 → Allowed s c ea 1 .store → First s c →
        (n = 0 → Ends i s c (.fall t))
        ∧ (∀ r, n ≠ 0 → t.lineReqs c.x.space 1 [(ea (lowLane c.lanes)).toNat] = [r] →
            ((r.l2 = true ∨ t.leased c.x.cid r.pl = true ∨ 16 ≤ t.leaseCount c.x.cid) → Ends i s c (.later t c.part))
            ∧ (r.l2 = false → t.leased c.x.cid r.pl = false → t.leaseCount c.x.cid < 16 → Owned t c [r] →
                Ends i s c (.fall { t with leases := t.leases ++
                  [{ t := c.t, uid := c.x.uid, cid := c.x.cid, gang := c.x.gang, group := c.x.group, line := r.pl,
                     until' := t.cycle + n }] })))))
  ∧ (∀ (s : State) (c : Ctx) (pg : Guard), s.issues (.unlease pg) c →
      (c.lanes = 0 → Completes (.unlease pg) s c id)
      ∧ (c.lanes ≠ 0 → Ends (.unlease pg) s c (.fall (s.endOwnLease c))))
  ∧ (∀ (s : State) (c : Ctx), (∀ l, s.leaseOf c.t c.x.uid = some l → s.endOwnLease c = s.endLease l)
      ∧ (s.leaseOf c.t c.x.uid = none → s.endOwnLease c = s))
  ∧ (∀ (s : State) (l : Lease), l ∈ s.leases →
      (∀ q, q ∈ (s.endLease l).leases ↔ q ∈ s.leases ∧ q ≠ l)
      ∧ (∀ t, l.t = t → (∀ q ∈ s.leases, q.t = t → q = l) → s.leases.Nodup →
          (l.until' ≤ s.cycle → exec (.leaseExpiry t) s = .next (s.endLease l))
          ∧ (s.cycle < l.until' → exec (.leaseExpiry t) s = .next s)))

/-- R139, R141, R273: `waitc` makes the split wait and sends a registration. The registration, with the home's copy in reach, wakes
the split where the condition holds and is kept where it does not; a full slice refuses it and it is sent again 256 cycles later. -/
def Sys2Proof.Spec.ConditionWaits : Prop :=
  (∀ (s : State) (c : Ctx) (pg : Guard) (d a : Reg) (cond : WCond) (sc : Scope), s.issues (.waitc cond sc pg d a) c →
    let i : Instr := .waitc cond sc pg d a
    let ea := c.ea a 0
    let va := (ea (lowLane c.lanes)).toNat
    let m : Monitor := { id := s.uid, t := c.t, e := c.e, uid := c.x.uid, va := va, pa := (s.pa? c.x.space va).getD 0, cond := cond,
                         val := c.x.get d (lowLane c.lanes), scope := sc, registered := false, retry := 0, pc := c.pc }
    (c.lanes = 0 → Completes i s c id)
    ∧ (c.lanes ≠ 0 → Allowed s c ea 4 .load → CompletesIn i s c ({ s with uid := s.uid + 1, monitors := s.monitors ++ [m] }.setThread c.t
        (c.x.updSplit c.e fun p => { p with wait := some (.mon s.uid) }))))
  ∧ (∀ (s : State) (m : Monitor), s.monitors.find? (fun x => x.id == m.id && !x.registered && x.retry == 0) = some m →
      let line := lineOf m.pa
      (512 ≤ s.registrations line → exec (.monitorRegistration m.id) s = .next { s with
        monitors := (s.monitors.map fun x => if x.id = m.id then { x with retry := s.cycle + 256 } else x) })
      ∧ (s.registrations line < 512 → s.monFrozen m = false → (s.home line).present = true → s.homeReadable (monAgent m.id) line = true →
          (s.home line).reserved = none →
          (condHolds m.cond (s.homeWord m.pa) m.val = false → exec (.monitorRegistration m.id) s = .next { s with
            monitors := (s.monitors.filter fun x => x.id ≠ m.id) ++ [{ m with registered := true }] })
          ∧ (condHolds m.cond (s.homeWord m.pa) m.val = true →
              exec (.monitorRegistration m.id) s = .next (s.wakeMonitor m))))
  ∧ (∀ (s : State) (id : Nat), exec (.monitorRetry id) s = .next { s with
      monitors := (s.monitors.map fun m => if m.id = id ∧ m.retry ≤ s.cycle then { m with retry := 0 } else m) })
  ∧ (∀ (s : State) (m : Monitor) (x : Thread), s.thread? m.t = some x → x.uid = m.uid → m.e < x.splits.length →
      ∃ y, (s.wakeMonitor m).thread? m.t = some y ∧ (y.split m.e).wait = none ∧ (y.split m.e).pc = (x.split m.e).pc
        ∧ (s.wakeMonitor m).mem = s.mem ∧ (∀ q ∈ (s.wakeMonitor m).monitors, q.id ≠ m.id))
  ∧ (∀ (w d : Word), condHolds .eq w d = (w == d) ∧ condHolds .ne w d = (w != d) ∧ condHolds .geS w d = decide (w.toInt ≥ d.toInt)
      ∧ condHolds .geN w d = decide (w.toNat ≥ d.toNat) ∧ condHolds .ltS w d = decide (w.toInt < d.toInt)
      ∧ condHolds .ltN w d = decide (w.toNat < d.toNat))

/-- R266: `pf` changes no register, no line that a core or a peer L2 holds and no message on its way; at most it makes lines present at
their homes, and without an HBM4E error there no byte of memory changes. -/
def Sys2Proof.Spec.PrefetchesChangeNothingSeen : Prop :=
  ∀ (s : State) (c : Ctx) (pg : Guard) (a : Reg) (ext : Option (BitVec 32)), s.issues (.pf pg a ext) c →
    ∃ t, CompletesIn (.pf pg a ext) s c t ∧ t.threads = s.threads ∧ t.cores = s.cores ∧ t.peers = s.peers ∧ t.msgs = s.msgs
      ∧ (s.hbmErrs = [] → t.mem = s.mem ∧ t.poison = s.poison)

/-- R259 to R261, R263, R266: loads, uniform loads and prefetches. Choices of the model it rests on: log 12, 29, 37. -/
def Obligations.LoadsAndPrefetches : Prop := Spec.LoadsReadWhatTheCoreSees ∧ Spec.LoadsExtend ∧ Spec.PrefetchesChangeNothingSeen

/-- R234: the barrier of a strand's group, as an arrival and a wait change it. -/
def Sys2Proof.Spec.BarriersCountArrivals : Prop :=
  ∀ (s : State) (c : Ctx) (n : Nat) (b : Word) (x : Thread), s.thread? c.t = some x → SMap.wf Core.reset s.cores = true →
    SMap.risingFrom 0 (s.core c.x.cid).bars = true → n < 32 →
    let old := s.barOf c.x n
    let cnt := if old.arr = 0 then max (b.toNat % 4096) 1 else old.cnt
    let t := s.barArrive c n b
    (∃ y, t.thread? c.t = some y ∧ y = { x with av := y.av, ap := y.ap }
      ∧ (∀ k, k < 32 → y.av.getLsbD k = if k = n then true else x.av.getLsbD k)
      ∧ (∀ k, k < 32 → y.ap.getLsbD k = if k = n then old.ph else x.ap.getLsbD k))
    ∧ t.barOf c.x n = (if old.arr + 1 = cnt then { arr := 0, cnt := cnt, ph := !old.ph } else { old with arr := old.arr + 1, cnt := cnt })
    ∧ t.mem = s.mem
    ∧ (let w := s.barWait c n
       let ph := (s.barOf x n).ph
       let target := if x.av.getLsbD n then x.ap.getLsbD n else ph
       (ph ≠ target → w = s.setThread c.t { x with av := x.av &&& ~~~((1 : BitVec 32) <<< n) })
       ∧ (ph = target → w = s.setThread c.t (x.updSplit c.e fun p => { p with wait := some (.bar n target) })))

/-- R234: `bar.arv`, `bar.wait` and `bar.sync` arrive, wait, or do both, once for their split; an arrival is a release of group scope,
so it waits for the watches of the split's lanes; a barrier beyond the allocation is ILLEGAL. -/
def Sys2Proof.Spec.BarrierInstructions : Prop :=
  ∀ (s : State) (c : Ctx) (pg : Guard) (a b : Reg),
    let n := (c.x.get a (lowLane c.lanes)).toNat
    let k := c.x.get b (lowLane c.lanes)
    (∀ i ∈ [Instr.barArv pg a b, Instr.barWait pg a, Instr.barSync pg a b],
      (s.issues i c → c.lanes = 0 → Completes i s c id)
      ∧ (s.ctx? i = some c → c.lanes ≠ 0 → c.x.differing (a.locs c.x.winBase 1) c.lanes = 0 → s.barriers c.x ≤ n →
          s.illegalAt c i = true))
    ∧ (s.issues (.barArv pg a b) c → c.lanes ≠ 0 → Unwatched c c.act →
        Ends (.barArv pg a b) s c (.fall ((s.barArrive c n k).wakeBar c.x n)))
    ∧ (s.issues (.barWait pg a) c → c.lanes ≠ 0 → Ends (.barWait pg a) s c (.fall (s.barWait c n)))
    ∧ (s.issues (.barSync pg a b) c → c.lanes ≠ 0 → Unwatched c c.act →
        Ends (.barSync pg a b) s c (.fall (((s.barArrive c n k).barWait c n).wakeBar c.x n)))

/-- R234: named barriers. Choices of the model it rests on: log 42, 67. -/
def Obligations.NamedBarriers : Prop := Spec.BarriersCountArrivals ∧ Spec.BarrierInstructions

/-- R235, R236: streams. `gbind` reads its block as loads and binds the stream with every index and end flag 0, or raises STREAM for
a reserved field or an extent 0; `gstat` writes the end flags of the bound dimensions; and a stream's offset is the sum of its
indexes times its strides. -/
def Sys2Proof.Spec.StreamsBindAndReport : Prop :=
  (∀ (s : State) (c : Ctx) (pg : Guard) (n : Fin 8) (a : Reg), s.issues (.gbind pg n a) c →
    let i : Instr := .gbind pg n a
    let one : Ctx := { c with lanes := 1 <<< lowLane c.lanes }
    let d := c.x.get64 a (lowLane c.lanes)
    let blk := d.toNat % 2 ^ 48
    let ndim := d.toNat / 2 ^ 48 % 4
    let part (j : Nat) : Nat → DWord := fun _ => BitVec.ofNat 64 (blk + 16 * j)
    let rs := s.lineReqs c.x.space 16 [blk, blk + 16, blk + 32]
    let x := value s one (part 0) 16 0 + 2 ^ 128 * value s one (part 1) 16 0 + 2 ^ 256 * value s one (part 2) 16 0
    let field (lo n : Nat) : Nat := x / 2 ^ lo % 2 ^ n
    let wrong : Prop := d.toNat / 2 ^ 50 ≠ 0 ∨ field 48 16 ≠ 0 ∨ field 320 64 ≠ 0 ∨ ∃ j, j ≤ ndim ∧ field (64 + 64 * j) 32 = 0
    (c.lanes = 0 → Completes i s c id)
    ∧ (c.lanes ≠ 0 → blk % 16 ≠ 0 → ∃ va m, Raises i s c { code := 0x0A, addr := va, info := m })
    ∧ (c.lanes ≠ 0 → (∀ j, j < 3 → Allowed s one (part j) 16 .load ∧ Clean s one (part j) 16) → First s c → Cached s c rs →
        (wrong → Raises i s c { code := 0x09, info := n.val })
        ∧ (¬ wrong →
            let g : Stream := { base := field 0 48, ndim := ndim, ext := (List.range 4).map fun j => field (64 + 64 * j) 32,
                                str := (List.range 4).map fun j => BitVec.ofNat 32 (field (96 + 64 * j) 32), idx := [0, 0, 0, 0],
                                ended := [false, false, false, false] }
            Ends i s c (.fall (s.setThread c.t { c.x with streams := setAt c.x.streams n.val (some g) })))))
  ∧ (∀ (s : State) (c : Ctx) (pg : Guard) (pd n : Fin 8), s.issues (.gstat pg pd n) c →
      (c.x.streams.getD n.val none = none → Raises (.gstat pg pd n) s c { code := 0x09, info := n.val })
      ∧ (∀ g, c.x.streams.getD n.val none = some g → Completes (.gstat pg pd n) s c fun x =>
          (List.range 4).foldl (fun x j => c.result s 0 (.p (pd.val + j)) c.lanes
            (fun _ => if j ≤ g.ndim && g.ended.getD j false then 1 else 0) x) x))
  ∧ (∀ g : Stream, g.offset = ((List.range (g.ndim + 1)).map fun j => BitVec.ofNat 32 (g.idx.getD j 0) * g.str.getD j 0).sum)

/-- R236: a stream's advance counts its innermost dimension up and carries outward, setting the end flag of each dimension that
wraps. -/
def Sys2Proof.Spec.StreamsAdvance : Prop :=
  ∀ g : Stream, g.ndim < 4 → g.idx.length = 4 → g.ext.length = 4 → g.ended.length = 4 →
    let wraps (j : Nat) : Bool := g.ext.getD j 0 ≤ g.idx.getD j 0 + 1
    let h := g.advance
    h.base = g.base ∧ h.ndim = g.ndim ∧ h.ext = g.ext ∧ h.str = g.str
    ∧ ∀ j, j < 4 →
        let reached := decide (j ≤ g.ndim) && (List.range j).all wraps
        h.idx.getD j 0 = (if reached then (if wraps j then 0 else g.idx.getD j 0 + 1) else g.idx.getD j 0)
        ∧ h.ended.getD j false = (g.ended.getD j false || (reached && wraps j))

/-- R23, R235, R236: streams. Choices of the model it rests on: log 38. -/
def Obligations.Streams : Prop := Spec.StreamsBindAndReport ∧ Spec.StreamsAdvance

/-- R83, R237: `rgwait` makes the split wait for the earliest matching placeholder of its group, or go on at the label where it is
ready; `rgdone` counts on it, and raises REGION where none is ready. -/
def Sys2Proof.Spec.PlaceholdersAreWaitedForAndCounted : Prop :=
  ∀ (s : State) (c : Ctx) (pg : Guard) (a : Reg) (disp : BitVec 14),
    let lab := c.label disp
    let d := c.x.get64 a (lowLane c.lanes)
    let i : Instr := .rgwait pg a disp
    let wait := s.setThread c.t (c.x.updSplit c.e fun p => { p with wait := some (.region d lab (c.leavesAt lab)) })
    let go := (s.setThread c.t (c.x.updSplit c.e fun p => { p with pc := lab, stall := max p.stall (c.x.drainAt p.mask) })).acquireAt c .cls
    (s.issues i c →
      (c.lanes = 0 → Completes i s c id)
      ∧ (c.lanes ≠ 0 → s.isCode c.x lab = false → Raises i s c (badTarget lab))
      ∧ (c.lanes ≠ 0 → s.isCode c.x lab = true → c.poisoned i = true → Raises i s c badData)
      ∧ (c.lanes ≠ 0 → s.isCode c.x lab = true → c.poisoned i = false → s.gang? c.x.gang = none → CompletesIn i s c wait)
      ∧ (∀ g, c.lanes ≠ 0 → s.isCode c.x lab = true → c.poisoned i = false → s.gang? c.x.gang = some g →
          (g.placeholder? c.x.group d = none → CompletesIn i s c wait)
          ∧ (∀ q, g.placeholder? c.x.group d = some q →
              (q.started = false → CompletesIn i s c wait)
              ∧ (q.started = true → Ends i s c (.jump go [] false)))))
    ∧ (s.issues (.rgdone pg a) c →
      (c.lanes = 0 → Completes (.rgdone pg a) s c id)
      ∧ (∀ t g, c.lanes ≠ 0 → Released s c .cls c.act t → t.gang? c.x.gang = some g →
          ((∀ q, g.placeholder? c.x.group d = some q → q.started = false) →
            Ends (.rgdone pg a) s c (.failed t { code := 0x1B, info := d.toNat % 2 ^ 32 }))
          ∧ (∀ q, g.placeholder? c.x.group d = some q → q.started = true →
              let g' : Gang := { g with queue := (g.queue.map fun y => if y.id = q.id then { y with count := y.count + 1 } else y) }
              Ends (.rgdone pg a) s c (.fall (((t.setGang c.x.gang g').queueSettle c.x.gang).gangCheck c.x.gang)))))

/-- R194, R238, R342: `cpy.y` checks its label, its alignment, its destination and its source in this order, then makes its split wait
for the copy, which resumes it at the label; each piece that lands reads the source as the core sees it and writes the scratchpad; one
whose page denies the load meanwhile raises PERM. -/
def Sys2Proof.Spec.YieldedCopies : Prop :=
  (∀ (s : State) (c : Ctx) (pg : Guard) (d a b : Reg) (lab : BitVec 32), s.issues (.cpyY pg d a b lab) c →
    let i : Instr := .cpyY pg d a b lab
    let l := lowLane c.lanes
    let label := c.label lab
    let dst := (c.x.get d l).toNat
    let src := (c.x.get64 a l).toNat
    let len := (c.x.get b l).toNat
    let ok : Prop := dst % 16 = 0 ∧ src % 16 = 0 ∧ len % 16 = 0
    (c.lanes = 0 → Completes i s c id)
    ∧ (c.lanes ≠ 0 → s.isCode c.x label = false → Raises i s c (badTarget label))
    ∧ (c.lanes ≠ 0 → s.isCode c.x label = true → c.poisoned i = true → Raises i s c badData)
    ∧ (c.lanes ≠ 0 → s.isCode c.x label = true → c.poisoned i = false →
      (¬ ok → ∃ va, Raises i s c { code := 0x0A, addr := va, info := c.lanes.toNat })
      ∧ (ok → s.scratchOk c.x dst len = false → Raises i s c { code := 0x0B, addr := dst })
      ∧ (ok → s.scratchOk c.x dst len = true → s.rangeCheck c src (len / 16) = none →
        (len = 0 → Ends i s c (.jump (s.setThread c.t
          (c.x.updSplit c.e fun p => { p with pc := label, stall := max p.stall (c.x.drainAt p.mask) })) [] false))
        ∧ (len ≠ 0 → CompletesIn i s c (s.setThread c.t
            (c.x.updSplit c.e fun p => { p with wait := some (.copy dst src len label c.pc (c.leavesAt label)) }))))))
  ∧ (∀ (s : State) (t e : Nat) (x : Thread) (dst src len lab pc : Nat) (leaves : Bool), s.thread? t = some x →
      (x.split e).wait = some (.copy dst src len lab pc leaves) →
      (∀ k, s.denied x.space src .load = some k →
        exec (.copyLanded t e) s = .next (s.failThread t { s.threadRec 0x11 t pc with addr := src, info := k }))
      ∧ (∀ r, s.denied x.space src .load = none → s.copyReq x src len = some r → r.l2 = false →
          let l := s.l1 x.cid r.pl
          l.moving = false → l.stale = false → l.readable = true → r.mask &&& ~~~l.held = 0 →
          let n := min len (128 - src % 128)
          (s.viewAt x.cid x.space src n).2 = false →
          let u := s.scratchPut ((s.scratchAt x dst).getD (x.cid, 0)) (leBytes n (s.viewAt x.cid x.space src n).1)
          exec (.copyLanded t e) s = .next (if n = len then u.resumeAt t e lab leaves
            else u.updSplit t e fun p => { p with wait := some (.copy (dst + n) (src + n) (len - n) lab pc leaves) })))

/-- R83, R139, R141, R237, R238, R273: condition waits, placeholders and yielded copies. Choices of the model it rests on: log 14, 59, 95. -/
def Obligations.WaitsPlaceholdersAndCopies : Prop := Spec.ConditionWaits ∧ Spec.PlaceholdersAreWaitedForAndCounted ∧ Spec.YieldedCopies

/-! ## Remote access and collectives (chapters 10 and 11) -/

namespace Sys2Proof.Spec

/-- A path takes packets to a destination now: natively or, where `std` says that one can carry them, on a standard path; no earlier
packet of the thread to one of their lines is unanswered in another class (R142, R150, R163). The state with the packets sent. -/
def sent (s : State) (c : Ctx) (dst : Nat) (cls : TClass) (std : Bool) (os : List Out) : Option State :=
  let src := s.endpoint c.x.die
  match s.way src dst cls os.length (os.filter fun o => o.op == 4).length with
  | .native => if s.lineBusy c dst (some cls) os then none else some (os.foldl (fun s o => s.sendOut src dst o) s)
  | .std stn => if std && !s.lineBusy c dst none os then some (os.foldl (fun s o => s.sendStd stn dst o) (s.reroute src dst cls))
      else none
  | _ => none

/-- The path to a destination does not refuse an operation that a standard path carries where `std` says so (R142, R155). -/
def Open (s : State) (c : Ctx) (dst : Nat) (cls : TClass) (std : Bool) : Prop :=
  match s.way (s.endpoint c.x.die) dst cls 1 0 with
  | .refused => False
  | .std _ => std = true
  | _ => True

/-- The release half at a scope is over in `t`; a plain operation has none. -/
def ReleasedAt (s : State) (c : Ctx) (sc : Option Scope) (m : Mask) (t : State) : Prop :=
  match sc with
  | none => t = s
  | some sc => Released s c sc m t

/-- The release scope of an atomic's ordering (R268). -/
def domRel (ord : Option AOrd) : Option Scope := if ord = some .rel ∨ ord = some .ar then some .dom else none

/-- The remote packets of a read of lanes (R163): one request for each line touched, in ascending order, from the line's lowest byte
read to its highest. -/
def ReadsLines (va : Nat → Nat) (w : Nat) (m : Mask) (os : List Out) : Prop :=
  (∀ o ∈ os, o.op = 2 ∧ o.cls = .express ∧ o.parts ≠ [] ∧ (∀ p ∈ o.parts, hasLane m p.1 = true ∧ va p.1 = o.va + p.2 ∧ o.va / 128 = va p.1 / 128
      ∧ va p.1 + w ≤ o.va + o.bytes)
    ∧ (∃ p ∈ o.parts, p.2 = 0) ∧ (∃ p ∈ o.parts, va p.1 + w = o.va + o.bytes))
  ∧ (∀ l ∈ lanesOf m, ∃ o ∈ os, (l, va l - o.va) ∈ o.parts)
  ∧ (os.map fun o => o.va / 128).Pairwise (· < ·)

end Sys2Proof.Spec

/-- R158, R159: the checks of a window instruction, in their order: an entry that is not there, another generation, a misaligned lane,
a queue pair's entry, and then permission, bounds and allowance. -/
def Sys2Proof.Spec.CapabilityChecks : Prop :=
  ∀ (s : State) (c : Ctx) (h : Word) (off : Nat → Nat) (w : Nat) (p : WPerm) (n : Nat),
    let slot := h.toNat % 65536
    let k := s.cap c.x.space slot
    let there : Prop := h.toNat / 2 ^ 24 = 0 ∧ slot < (s.space c.x.space).capSlots ∧ k.body ≠ none
    let aligned : Prop := ∀ l ∈ lanesOf c.lanes, off l % w = 0
    let r := s.window c h off w p n
    (¬ there → r = .inl { code := 0x14, info := h.toNat })
    ∧ (there → k.gen ≠ h.toNat / 65536 % 256 → r = .inl { code := 0x12, info := h.toNat })
    ∧ (there → k.gen = h.toNat / 65536 % 256 → ¬ aligned →
        ∃ a, r = .inl { code := 0x0A, addr := a, info := (maskOf fun l => hasLane c.lanes l && off l % w != 0).toNat })
    ∧ (∀ peer pqp lqp allow, there → k.gen = h.toNat / 65536 % 256 → aligned → k.body = some (.queuePair peer pqp lqp allow) →
        r = .inl { code := 0x13, info := h.toNat })
    ∧ (∀ dest space base len rd wr at' allow, there → k.gen = h.toNat / 65536 % 256 → aligned →
        k.body = some (.window dest space base len rd wr at' allow) →
        let ok : Prop := (match p with
            | .r => rd
            | .w => wr
            | .a => at') = true
          ∧ (∀ l ∈ lanesOf c.lanes, off l + w ≤ len) ∧ (allow = 2 ^ 48 - 1 ∨ n ≤ allow)
        (ok → r = .inr { dest := dest, space := space, base := base, allow := allow })
        ∧ (¬ ok → r = .inl { code := 0x13, info := h.toNat }))

/-- R160: an accepted instruction takes its bytes from the allowance, unless it is the one that is never charged. -/
def Sys2Proof.Spec.AllowancesAreCharged : Prop :=
  ∀ (s : State) (space slot n : Nat) (h : Word), h.toNat % 65536 = slot → SMap.wf Cap.reset (s.space space).caps = true →
    SMap.risingFrom 0 s.res.spaces = true →
    ∀ (k : Cap) (dest sp base len : Nat) (rd wr at' : Bool) (allow : Nat), s.cap space slot = { k with body := some (.window dest sp base len rd wr at' allow) } →
      (s.charge space h n).cap space slot
        = { k with body := some (.window dest sp base len rd wr at' (if allow = 2 ^ 48 - 1 then allow else allow - n)) }

/-- R162, R163, R167, R275: `ldf`, `stf`, `stf.urg`, `atomf` and `fencef`. Where the window's checks pass and a path takes the packets,
the instruction charges the window, its packets are on their way, and it moves on: a load's and an atomic's destinations wait for their
answers. A check that fails raises its fault. -/
def Sys2Proof.Spec.RemoteAccessesSendPackets : Prop :=
  ∀ (s : State) (c : Ctx) (pg : Guard) (w : Width) (d a : Reg) (o : OPair) (h : Fin 24),
    let hw := c.x.kreg h.val
    let off (l : Nat) : Nat := (c.x.getO o l).toNat
    let n := w.bytes * laneCount c.lanes
    (s.issues (.ldf w pg d o h) c →
      (c.lanes = 0 → Completes (.ldf w pg d o h) s c id)
      ∧ (c.lanes ≠ 0 → ∀ f, s.window c hw off w.bytes .r n = .inl f → Raises (.ldf w pg d o h) s c f)
      ∧ (c.lanes ≠ 0 → ∀ win t, s.window c hw off w.bytes .r n = .inr win →
          let os := c.readOuts w.bytes win hw (fun l => (win.base + off l) % 2 ^ 48) s.fab.nextAcc
          sent { s with fab := { s.fab with nextAcc := s.fab.nextAcc + 1 } } c win.dest .express true os = some t →
          Ends (.ldf w pg d o h) s c (.fall ((t.charge c.x.space hw n).await c d w s.fab.nextAcc false))))
    ∧ (∀ (i : Instr) (urg : Bool), i = (if urg then .stfUrg w pg d o h else .stf w pg d o h) → s.issues i c →
        let cls : TClass := if urg then .urgent else .bulk
        (c.lanes = 0 → Completes i s c id)
        ∧ (c.lanes ≠ 0 → ∀ f, s.window c hw off w.bytes .w n = .inl f → Raises i s c f)
        ∧ (c.lanes ≠ 0 → ∀ win t, s.window c hw off w.bytes .w n = .inr win →
            let runs := joinRuns (if urg then 64 else 4096) (fun l => (win.base + off l) % 2 ^ 48)
              (fun l => leBytes w.bytes (c.dataAt w d l)) (lanesOf c.lanes) []
            let os : List Out := runs.map fun r =>
              { cls := cls, op := 1, space := win.space, va := r.va, chunk := false, opf := opfOf r.bytes.length, payload := r.bytes,
                owner := c.owner r.lanes, acc := 0, parts := [], gen := acceptedBy c.x.space hw }
            sent s c win.dest cls true os = some t → Ends i s c (.fall ((t.charge c.x.space hw n).unstage (t.whoOf c.x.launch)))))
    ∧ (∀ (op : AOp) (ord : Option AOrd), s.issues (.atomf op ord pg d o h a) c →
        let i : Instr := .atomf op ord pg d o h a
        let std := Config.stdAtomic (4 * (aopOf op).1 + (aopOf op).2)
        (c.lanes = 0 → Completes i s c id)
        ∧ (c.lanes ≠ 0 → ∀ f, s.window c hw off 4 .a (4 * laneCount c.lanes) = .inl f → Raises i s c f)
        ∧ (c.lanes ≠ 0 → ∀ win t u, s.window c hw off 4 .a (4 * laneCount c.lanes) = .inr win → Open s c win.dest .urgent std →
            ReleasedAt s c (domRel ord) c.lanes t →
            let os : List Out := (lanesOf c.lanes).map fun l =>
              { cls := .urgent, op := 4, space := win.space, va := (win.base + off l) % 2 ^ 48, chunk := false, payload := [],
                opf := opfOf ((aopOf op).1 + (aopOf op).2 * 256 + orderNo ord * 65536 + (c.x.get a l).toNat * 2 ^ 32
                  + (if op = .cas then (c.x.get d l).toNat else 0) * 2 ^ 64),
                owner := c.owner (1 <<< l), acc := t.fab.nextAcc, parts := [(l, 0)], gen := acceptedBy c.x.space hw }
            sent { t with fab := { t.fab with nextAcc := t.fab.nextAcc + 1 } } c win.dest .urgent std os = some u →
            Ends i s c (.fall (((u.charge c.x.space hw (4 * laneCount c.lanes)).unstage (u.whoOf c.x.launch)).await c d .b32 t.fab.nextAcc
              (ord = some .acq ∨ ord = some .ar)))))
    ∧ (s.issues (.fencef pg d o h) c →
        let l := lowLane c.lanes
        (c.lanes = 0 → Completes (.fencef pg d o h) s c id)
        ∧ (c.lanes ≠ 0 → ∀ f, s.window c hw (fun _ => off l) 4 .a 4 = .inl f → Raises (.fencef pg d o h) s c f)
        ∧ (c.lanes ≠ 0 → ∀ win t u, s.window c hw (fun _ => off l) 4 .a 4 = .inr win → Open s c win.dest .urgent false →
            Released s c .dom c.act t →
            let add : Out :=
              { cls := .urgent, op := 4, space := win.space, va := (win.base + off l) % 2 ^ 48, chunk := false, payload := [],
                opf := opfOf (256 + 2 * 65536 + (c.x.get d l).toNat * 2 ^ 32), owner := c.owner c.act, acc := 0, parts := [],
                gen := acceptedBy c.x.space hw }
            sent t c win.dest .urgent false [add] = some u →
            Ends (.fencef pg d o h) s c (.fall ((u.charge c.x.space hw 4).unstage (u.whoOf c.x.launch)))))

/-- R158 to R160, R162, R163, R167, R275: capability checks, charges, and the packets of remote accesses. Choices of the model it rests on:
log 23, 24, 34, 51. -/
def Obligations.RemoteAccesses : Prop := Spec.CapabilityChecks ∧ Spec.AllowancesAreCharged ∧ Spec.RemoteAccessesSendPackets

/-- R163: the requests of a remote load cover its lanes line by line; a remote store's runs are the lanes' bytes, in ascending lane
order, each run consecutive and at most `cap` bytes. -/
def Sys2Proof.Spec.RemotePacketsCoverLanes : Prop :=
  (∀ (c : Ctx) (w : Width) (win : Win) (h : Word) (va : Nat → Nat) (acc : Nat), (∀ l ∈ lanesOf c.lanes, va l % w.bytes = 0) →
      ReadsLines va w.bytes c.lanes (c.readOuts w.bytes win h va acc))
  ∧ (∀ (cap : Nat) (va : Nat → Nat) (bytes : Nat → List Byte) (m : Mask), (∀ l, 1 ≤ (bytes l).length ∧ (bytes l).length ≤ cap) →
      let rs := joinRuns cap va bytes (lanesOf m) []
      (rs.flatMap fun r => r.bytes) = (lanesOf m).flatMap bytes
      ∧ (∀ r ∈ rs, 1 ≤ r.bytes.length ∧ r.bytes.length ≤ cap)
      ∧ (∀ l ∈ lanesOf m, ∃ r ∈ rs, hasLane r.lanes l = true ∧ r.va ≤ va l ∧ va l + (bytes l).length ≤ r.va + r.bytes.length
          ∧ ((r.bytes.drop (va l - r.va)).take (bytes l).length) = bytes l))

/-- R150, R152: a packet that a flow takes has the flow's next sequence number, stays in the retry buffer until it is answered, and, with
the first, opens the flow with NEW. -/
def Sys2Proof.Spec.FlowsNumberPackets : Prop :=
  ∀ (s : State) (src dst : Nat) (o : Out), s.inside dst = true →
    (∀ e, s.srcEnd? src dst o.cls = some e →
      ∃ e' r, (s.sendOut src dst o).srcEnd? src dst o.cls = some e' ∧ e'.next = (e.next + 1) % 65536 ∧ e'.inc = e.inc
        ∧ e'.retry = e.retry ++ [r] ∧ r.seq = e.next ∧ r.pkt.hdr.seq = e.next ∧ r.pkt.hdr.inc = e.inc ∧ r.pkt.hdr.new = false
        ∧ r.owner = o.owner ∧ r.due = s.cycle + s.timeout ∧ (s.sendOut src dst o).fab.loop = s.fab.loop ++ [r.pkt])
    ∧ (s.srcEnd? src dst o.cls = none →
      ∃ e' r, (s.sendOut src dst o).srcEnd? src dst o.cls = some e' ∧ e'.next = 1 ∧ e'.retry = [r] ∧ r.seq = 0 ∧ r.pkt.hdr.seq = 0
        ∧ r.pkt.hdr.new = true ∧ e'.inc = SMap.getD s.fab.srcInc (incKey src dst o.cls) 0
        ∧ (s.sendOut src dst o).fab.loop = s.fab.loop ++ [r.pkt])

/-- R171, R174, R277: `ctradd`, `ctrwait` and `colpost` take the queue pair of a capability. `ctradd` adds to a counter and saturates;
`ctrwait` makes the split a condition monitor on the counter's word; `colpost` appends the 32 bytes' entry to the work queue. -/
def Sys2Proof.Spec.CountersAndPosting : Prop :=
  ∀ (s : State) (c : Ctx) (pg : Guard) (d a b : Reg),
    let l := lowLane c.lanes
    let hw := c.x.get d l
    let n := (c.x.get a l).toNat
    (s.issues (.ctradd pg d a b) c →
      (c.lanes = 0 → Completes (.ctradd pg d a b) s c id)
      ∧ (c.lanes ≠ 0 → ∀ f, s.queueOf c.x.space hw = .inl f → Raises (.ctradd pg d a b) s c f)
      ∧ (c.lanes ≠ 0 → ∀ peer pqp lqp q, s.queueOf c.x.space hw = .inr (peer, pqp, lqp, q) →
          (63 < n → Raises (.ctradd pg d a b) s c { code := 0x13, info := hw.toNat })
          ∧ (n ≤ 63 → ∀ t, Released s c .pkg c.act t →
              Ends (.ctradd pg d a b) s c (.fall ((t.unstage (t.whoOf c.x.launch)).addCounter lqp n (c.x.get b l).toNat)))))
    ∧ (s.issues (.ctrwait pg d a b) c →
      (c.lanes = 0 → Completes (.ctrwait pg d a b) s c id)
      ∧ (c.lanes ≠ 0 → ∀ f, s.queueOf c.x.space hw = .inl f → Raises (.ctrwait pg d a b) s c f)
      ∧ (c.lanes ≠ 0 → ∀ peer pqp lqp q, s.queueOf c.x.space hw = .inr (peer, pqp, lqp, q) →
          (63 < n → Raises (.ctrwait pg d a b) s c { code := 0x13, info := hw.toNat })
          ∧ (n ≤ 63 →
              let m : Monitor := { id := s.uid, t := c.t, e := c.e, uid := c.x.uid, va := q.blockVa + 4 * n, pa := q.block + 4 * n,
                                   cond := .geN, val := c.x.get b l, scope := .dom, registered := false, retry := 0, pc := c.pc }
              CompletesIn (.ctrwait pg d a b) s c ({ s with uid := s.uid + 1, monitors := s.monitors ++ [m] }.setThread c.t
                (c.x.updSplit c.e fun p => { p with wait := some (.mon s.uid) })))))
    ∧ (s.issues (.colpost pg d a) c →
      let va := (c.ea a 0 l).toNat
      (c.lanes = 0 → Completes (.colpost pg d a) s c id)
      ∧ (c.lanes ≠ 0 → ∀ f, s.queueOf c.x.space hw = .inl f → Raises (.colpost pg d a) s c f)
      ∧ (c.lanes ≠ 0 → ∀ peer pqp lqp q, s.queueOf c.x.space hw = .inr (peer, pqp, lqp, q) →
          (q.refused = true → Raises (.colpost pg d a) s c { code := 0x13, info := hw.toNat, aux0 := lqp, aux1 := q.nextPos % 65536 })
          ∧ (q.refused = false → Allowed s c (c.ea a 0) 32 .load →
              ((256 ≤ q.queue.length ∨ s.queueFull c = true) → Ends (.colpost pg d a) s c .hold)
              ∧ (q.queue.length < 256 → s.queueFull c = false →
                  (∀ t, s.colpostQueues c hw va = some t → Ends (.colpost pg d a) s c (.fall t))
                  ∧ (∀ t u x, s.colpostQueues c hw va = none → Released s c .pkg c.act t → t.seqRead c va 32 = .inr (u, x, false) →
                      (u.entryOk c.x.space x = false → Raises (.colpost pg d a) s c { code := 0x13, info := hw.toNat })
                      ∧ (u.entryOk c.x.space x = true →
                          let who := u.whoOf c.x.launch
                          Ends (.colpost pg d a) s c (.fall ((u.unstage who).postEntry lqp x who (u.endpoint c.x.die) peer pqp
                            (acceptedBy c.x.space hw)))))))))
    ∧ (∀ g : Gang, s.gang? c.x.gang = some g → c.x.seq = true →
        let va := (c.ea a 0 l).toNat
        let src := match s.pa? c.x.space va with
          | some pa => entrySource (Memory.le s.mem pa 32)
          | none => []
        let op : CmdOp := .colpost hw va src
        (∀ y ∈ g.queue, conflicts y.op op = false) → s.colpostQueues c hw va = none)

/-- R173, R174: a counter takes an increment, saturating at 2^32 - 1, and the other counters and queues stay as they are; the counter
block at the home takes the value, and no other byte of memory changes, before the condition monitors on its line are evaluated. Where
another cache holds the line, or the hub has writes before it, the write waits. -/
def Sys2Proof.Spec.CountersSaturate : Prop :=
  ∀ (s : State) (n k x : Nat) (q : QPair), s.memoryOk → s.qpair? n = some q → SMap.wf 0 q.ctrs = true → SMap.risingFrom 0 s.fab.qps = true →
    let v := min (q.ctr k + x) (2 ^ 32 - 1)
    ∃ q', (s.addCounter n k x).qpair? n = some q' ∧ q' = { q with ctrs := q'.ctrs } ∧ q'.ctr k = v ∧ (∀ j, j ≠ k → q'.ctr j = q.ctr j)
      ∧ (∀ m, m ≠ n → (s.addCounter n k x).qpair? m = s.qpair? m)
      ∧ (let at' := q.block + 4 * k
         let line := lineOf at'
         s.hbmErrs = [] →
         (s.hubActs = [] → s.writable hubAgent line = true → (s.home line).reserved = none →
           ∃ u : State, s.addCounter n k x = u.settle [line] ∧ u.threads = s.threads ∧ u.hubActs = []
             ∧ ∀ b, Memory.read u.mem b = if at' ≤ b ∧ b < at' + 4 then BitVec.ofNat 8 (v / 256 ^ (b - at')) else Memory.read s.mem b)
         ∧ (s.hubActs = [] → s.writable hubAgent line = false →
             (s.addCounter n k x).mem = s.mem ∧ (s.addCounter n k x).hubActs = [.write at' (leBytes 4 v)]))

/-- R171: an entry joins the end of its queue under the next position, with the fields that R170 gives its 32 bytes. -/
def Sys2Proof.Spec.EntriesAreQueued : Prop :=
  ∀ (s : State) (qp x node src peer pqp : Nat) (gen : Option (Nat × Nat × Nat)) (q : QPair), s.qpair? qp = some q →
    SMap.risingFrom 0 s.fab.qps = true → x < 2 ^ 256 →
    ∃ q' e, (s.postEntry qp x node src peer pqp gen).qpair? qp = some q' ∧ q'.queue = q.queue ++ [e] ∧ q'.nextPos = q.nextPos + 1
      ∧ e.pos = q.nextPos ∧ e.fired = false ∧ e.sent = 0 ∧ e.w.dst = x / 2 ^ 208 ∧ e.w.src = x / 2 ^ 160 % 2 ^ 48
      ∧ e.w.len = x / 2 ^ 128 % 2 ^ 32 ∧ e.w.thresh = x / 2 ^ 96 % 2 ^ 32 ∧ e.w.op = x % 16

/-- R169 to R171, R173, R174, R277: counters and posting. Choices of the model it rests on: log 25, 46, 47, 48. -/
def Obligations.CountersAndWorkQueues : Prop := Spec.CountersAndPosting ∧ Spec.CountersSaturate ∧ Spec.EntriesAreQueued

/-- R172, R173: ENTRY_FIRE fires the first entry in posting order whose counter is satisfied, and sends its next packet; a local
completion counts once, after the last is sent; with every packet acknowledged the entry leaves the queue, or its COLTRIG is sent. -/
def Sys2Proof.Spec.EntriesFireAndComplete : Prop :=
  ∀ (s : State) (qp pos : Nat) (q : QPair) (e : QEntry), s.qpair? qp = some q → q.entry? pos = some e →
    let armed (x : QEntry) : Bool := x.w.thresh == 0 || x.w.thresh ≤ q.ctr x.w.actr
    let i : Instr := .entryFire qp pos
    let fired (x : QEntry) : QEntry := { x with fired := true }
    (e.fired = false → (q.queue.find? fun x => !x.fired && armed x) = some e →
      exec i s = .next ((s.updEntry qp pos fired).entrySend qp q (fired e)))
    ∧ (e.fired = false → (∀ x, (q.queue.find? fun x => !x.fired && armed x) = some x → x.pos ≠ pos) → exec i s = .next s)
    ∧ (e.fired = true → e.sent < e.w.len → exec i s = .next (s.entrySend qp q e))
    ∧ (e.fired = true → e.w.len ≤ e.sent → exec i s = .next s)
    ∧ (e.fired = true → e.sent = e.w.len → e.localDone = false →
        let t := s.updEntry qp pos fun x => { x with localDone := true }
        exec (.localCompletion qp pos) s = .next (if e.w.linc then t.addCounter qp e.w.lctr 1 else t))
    ∧ ((e.fired = false ∨ e.sent ≠ e.w.len ∨ e.localDone = true) → exec (.localCompletion qp pos) s = .next s)
    ∧ (e.localDone = true → e.outstanding = 0 → e.trig = false → e.w.rinc = false →
        exec (.remoteCompletion qp pos) s = .next (s.setQp qp { q with queue := q.queue.filter fun x => x.pos != pos }))
    ∧ (e.localDone = true → e.outstanding = 0 → e.trig = false → e.w.rinc = true → s.way e.src e.peer .urgent 1 0 = .native →
        exec (.remoteCompletion qp pos) s = .next ((s.updEntry qp pos fun x => { x with trig := true, outstanding := 1 }).sendOut e.src e.peer
          { cls := .urgent, op := 9, space := q.space, va := 0, chunk := false, payload := [], owner := .entry qp pos, acc := 0,
            parts := [], gen := e.gen, opf := opfOf (e.pqp + e.w.rctr * 2 ^ 16 + 2 ^ 32) }))
    ∧ ((e.localDone = false ∨ e.outstanding ≠ 0 ∨ e.trig = true) → exec (.remoteCompletion qp pos) s = .next s)

/-- R172: a fired entry's next packet carries its next units, read at once from memory or the chunk buffer, on the flow of its class; a
denied page ends it with PERM and poison with POISON. -/
def Sys2Proof.Spec.EntriesSendTheirUnits : Prop :=
  ∀ (s : State) (qp : Nat) (q : QPair) (e : QEntry),
    let w := e.w
    let n := min w.perPacket (w.len - e.sent)
    (s.way e.src e.peer w.cls 1 0 = .wait → s.entrySend qp q e = s)
    ∧ (∀ t bs, s.way e.src e.peer w.cls 1 0 = .native → s.readSource (entryAgent qp e.pos) q.space w e.sent n = .got t bs false → w.codes = false →
        s.entrySend qp q e = (t.updEntry qp e.pos fun x => { x with sent := x.sent + n, outstanding := x.outstanding + 1 }).sendOut e.src e.peer
          (w.out q.space e.sent n bs [] (.entry qp e.pos) e.gen))
    ∧ (∀ va info, s.way e.src e.peer w.cls 1 0 = .native → s.readSource (entryAgent qp e.pos) q.space w e.sent n = .fault va info →
        s.entrySend qp q e = s.entryFail qp e.pos { s.entryRec 0x11 e.node qp e.pos with addr := va, info := info })
    ∧ (∀ t bs, s.way e.src e.peer w.cls 1 0 = .native → s.readSource (entryAgent qp e.pos) q.space w e.sent n = .got t bs true →
        let r := t.entryRec 0x20 e.node qp e.pos
        let (a, len) := w.srcPart e.sent n
        (w.sk = 1 → s.entrySend qp q e = t.entryFail qp e.pos r)
        ∧ (w.sk ≠ 1 → s.entrySend qp q e = (t.markPois q.space (a + t.sectorAt q.space a len)).entryFail qp e.pos
            { r with addr := t.sectorPa q.space a len }))

/-- R176: a fired entry that fails leaves its queue, which refuses posting from then on and cancels what has not fired. -/
def Sys2Proof.Spec.FailedEntriesCloseTheQueue : Prop :=
  ∀ (s : State) (qp pos : Nat) (r : FaultRec) (q : QPair) (e : QEntry), s.qpair? qp = some q → q.entry? pos = some e →
    SMap.risingFrom 0 s.fab.qps = true →
    ∃ q', (s.entryFail qp pos r).qpair? qp = some q' ∧ q'.refused = true ∧ q'.ctrs = q.ctrs
      ∧ q'.queue = q.queue.filter fun x => x.fired && x.pos != pos

/-- R172, R173, R176: how posted entries run. Choices of the model it rests on: log 45, 48, 52, 53, 92. -/
def Obligations.CollectiveEntries : Prop := Spec.EntriesFireAndComplete ∧ Spec.EntriesSendTheirUnits ∧ Spec.FailedEntriesCloseTheQueue

/-- R177 to R179: the block code of 32 values holds a flag for a NaN and for each infinity, and EB, the largest exponent code of its
nonzero finite values; codes combine by OR and maximum; an aligned integer is the value times 2^(172-EB), toward zero, within 23 bits; and
ROOT's element of a code's sum is that sum times 2^(EB-172), a NaN where the code has one or both infinities, or the infinity it has. -/
def Sys2Proof.Spec.ReductionFormat : Prop :=
  (∀ vs : List FVal,
      let code : Nat := blockCode vs
      let eb : Nat := code % 2 ^ 13
      (∀ (neg : Bool) (m : Nat) (x : Int), FVal.fin neg m x ∈ vs → (Nat.log2 m : Int) + x + 150 < 2 ^ 9) →
        code.testBit 15 = vs.contains .nan ∧ code.testBit 14 = vs.contains (.inf false) ∧ code.testBit 13 = vs.contains (.inf true)
        ∧ (∀ (neg : Bool) (m : Nat) (x : Int), FVal.fin neg m x ∈ vs → m ≠ 0 → (Nat.log2 m : Int) + x + 150 ≤ eb)
        ∧ (eb = 0 ∨ ∃ (neg : Bool) (m : Nat) (x : Int), FVal.fin neg m x ∈ vs ∧ m ≠ 0 ∧ (Nat.log2 m : Int) + x + 150 = eb))
  ∧ (∀ (eb m : Nat) (neg : Bool) (e : Int), 0 < eb → 0 < m →
      let q := alignInt eb (.fin neg m e)
      let v : ℚ := (m : ℚ) * 2 ^ (e + 172 - eb)
      (v < 2 ^ 23 → (q.natAbs : ℚ) ≤ v ∧ v < q.natAbs + 1) ∧ (2 ^ 23 ≤ v → q.natAbs = 2 ^ 23 - 1) ∧ (q ≠ 0 → (q < 0 ↔ neg = true)))
  ∧ (∀ a b : Nat, a % 2 ^ 13 < 512 → b % 2 ^ 13 < 512 → a < 65536 → b < 65536 →
      let c := combineCode a b
      c % 2 ^ 13 = max (a % 2 ^ 13) (b % 2 ^ 13) ∧ (∀ i, 13 ≤ i → c.testBit i = (a.testBit i || b.testBit i)))
  ∧ (∀ (f : FFmt) (code : Nat) (sum : Int),
      let nan := code.testBit 15
      let p := code.testBit 14
      let n := code.testBit 13
      ((nan = true ∨ (p = true ∧ n = true)) → rootElem f code sum = f.nan)
      ∧ (nan = false → p ≠ n → rootElem f code sum = f.round .rne false (.inf n))
      ∧ (nan = false → p = false → n = false → (code % 512 = 0 ∨ sum = 0) → rootElem f code sum = 0)
      ∧ (nan = false → p = false → n = false → sum ≠ 0 → code % 512 ≠ 0 →
          rootElem f code sum = f.round .rne false (.fin (sum < 0) sum.natAbs (((code % 512 : Nat) : Int) - 172))))

/-- R150, R152, R163, R177 to R179: the packets of an access, their sequence numbers, and the sums of reductions. Choices of the model it
rests on: log 23. -/
def Obligations.PacketsFlowsAndReductions : Prop := Spec.RemotePacketsCoverLanes ∧ Spec.FlowsNumberPackets ∧ Spec.ReductionFormat

/-! ## Sequencers and matrix engines (chapters 5, 6 and 17) -/

namespace Sys2Proof.Spec

/-- The command that an instruction posts, with the operands that it reads when it is posted (R278, R283 to R294). -/
def posts (c : Ctx) : Instr → Option CmdOp
  | .mma _ d a b desc => some (.mma false false (c.x.get64 d 0) (c.x.get64 a 0) (c.x.kpair (2 * b.val)) desc 0 0)
  | .mmaSp _ d a b desc => some (.mma true false (c.x.get64 d 0) (c.x.get64 a 0) (c.x.kpair (2 * b.val)) desc 0 0)
  | .mmaOl _ d a b desc x =>
    some (.mma false true (c.x.get64 d 0) (c.x.get64 a 0) (c.x.kpair (2 * b.val)) desc (c.x.get64 x 0) (c.x.getAt x 2 0))
  | .mmaSpOl _ d a b desc x =>
    some (.mma true true (c.x.get64 d 0) (c.x.get64 a 0) (c.x.kpair (2 * b.val)) desc (c.x.get64 x 0) (c.x.getAt x 2 0))
  | .mxld _ d a => some (.mxld (c.x.get64 d 0) (c.x.get64 a 0))
  | .mxst f _ d a => some (.mxst f (c.x.get64 d 0) (c.x.get64 a 0))
  | .mxclr _ d a => some (.mxclr (c.x.get64 d 0) (c.x.get a 0).toNat)
  | .cpy false t _ d a x => some (.cpy false t (c.x.get64 d 0) (c.x.get64 a 0) (c.x.get64 x 0))
  | .cpy true t _ d a x => some (.cpy true t (c.x.get64 a 0) (c.x.get64 d 0) (c.x.get64 x 0))
  | .gath _ d a x => some (.gath (c.x.get64 d 0) (c.x.get64 a 0) (c.x.get64 x 0))
  | .vwr _ d a n => some (.place true (c.x.get64 d 0) (c.x.get a 0) (c.x.kreg n.val))
  | .vrd _ d a n => some (.place false (c.x.get64 d 0) (c.x.get a 0) (c.x.kreg n.val))
  | _ => none

/-- The element of a core's accumulator. -/
def acc (s : State) (cid i : Nat) : Word := SMap.getD (s.core cid).acc i 0

/-- The core of the package that core `n` of a gang's cluster is. -/
def coreOf (g : Gang) (n : Nat) : Nat := (g.die * 8 + g.cluster) * 8 + n

/-- A tile is written: element (m, n) takes `f m n`, and every other element of every core stays (R81). -/
def TileWritten (s t : State) (cid : Nat) (tile : Tile) (f : Nat → Nat → Word) : Prop :=
  (∀ m n, m < tile.m → n < tile.n → acc t cid (tile.eoff + m * tile.n + n) = f m n)
  ∧ ∀ k i, (k ≠ cid ∨ i < tile.eoff ∨ tile.eoff + tile.m * tile.n ≤ i) → acc t k i = acc s k i

end Sys2Proof.Spec

/-- R278, R82, R79, R287: a posting. With its guard false it does nothing; while the queue holds 64 commands the context is held; a
command for an engine that its gang does not hold, or for no core of the cluster, becomes a deferred fault under the command's number;
else the command joins the end of the gang's queue with the operands read. -/
def Sys2Proof.Spec.CommandsArePosted : Prop :=
  ∀ (s : State) (c : Ctx) (i : Instr) (op : CmdOp), s.issues i c → posts c i = some op →
    (c.lanes = 0 → Completes i s c id)
    ∧ (c.lanes ≠ 0 → s.gang? c.x.gang = none → Completes i s c id)
    ∧ (∀ g, c.lanes ≠ 0 → s.gang? c.x.gang = some g →
        let put (g' : Gang) : State := s.setGang c.x.gang g'
        let deferred (code info : Nat) : Gang :=
          let f : EFault := { code := code, cmd := g.nextCmd, pc := c.pc, addr := 0, info := info, aux0 := 0, aux1 := 0,
                              precise := false, at' := s.cycle }
          { g with nextCmd := g.nextCmd + 1, efault := some (g.efault.getD f) }
        let q : Cmd := { id := g.nextCmd, op := op, pc := c.pc, started := false, since := s.cycle, count := 0, read := [], bad := false }
        (64 ≤ g.queue.length → exec i s = .next s)
        ∧ (g.queue.length < 64 → (∀ n, op.engine = some n → n ≤ 7 ∧ (s.core (c.x.engineOf n)).engine.holder = some c.x.gang) →
            Ends i s c (.fall (((put { g with queue := g.queue ++ [q], nextCmd := g.nextCmd + 1 }).queueSettle c.x.gang).gangCheck c.x.gang)))
        ∧ (∀ n, g.queue.length < 64 → op.engine = some n → 7 < n → Ends i s c (.fall ((put (deferred 0x18 0)).gangCheck c.x.gang)))
        ∧ (∀ n, g.queue.length < 64 → op.engine = some n → n ≤ 7 → (s.core (c.x.engineOf n)).engine.holder ≠ some c.x.gang →
            Ends i s c (.fall ((put (deferred 0x1A n)).gangCheck c.x.gang))))

/-- R78, R102, R282, R288, R295: `mxacq` takes all the named engines or none, and says which; `mxrel` frees each once the commands posted
to it before have left the queue; `mxmon` waits for the engine's commands and reads its eight monitors; `sqwait` waits for commands of
the kinds named. -/
def Sys2Proof.Spec.EnginesAreReserved : Prop :=
  ∀ (s : State) (c : Ctx) (pg : Guard) (pd n : Fin 8) (d a : Reg) (g : Gang), s.gang? c.x.gang = some g →
    let m := (c.x.get a 0).toNat
    let engine (k : Nat) : Engine := (s.core (c.x.engineOf k)).engine
    let other (k : Nat) : Prop := (engine k).holder ≠ none ∧ (engine k).holder ≠ some c.x.gang
    (s.issues (.mxacq pg pd a) c →
      let i : Instr := .mxacq pg pd a
      let bad : Prop := m = 0 ∨ 256 ≤ m ∨ ∃ k ∈ coresOf m, g.groupOn k = none
      (c.lanes = 0 → Completes i s c id)
      ∧ (c.lanes ≠ 0 → bad → Raises i s c { code := 0x18 })
      ∧ (c.lanes ≠ 0 → ¬ bad → (∃ k ∈ coresOf m, other k) → ResultP i s c 0 pd fun _ => false)
      ∧ (c.lanes ≠ 0 → ¬ bad → (∀ k ∈ coresOf m, ¬ other k) →
          ∃ t : State, Ends i s c (.fall (t.putP c 0 pd fun _ => true)) ∧ t.mem = s.mem ∧ t.threads = s.threads ∧ t.gangs = s.gangs
            ∧ (SMap.wf Core.reset s.cores = true →
                (∀ k ∈ coresOf m, t.core (c.x.engineOf k) = { s.core (c.x.engineOf k) with engine :=
                  { holder := some c.x.gang, release := none,
                    mon := if (engine k).holder = none then List.replicate 8 0 else (engine k).mon } })
                ∧ ∀ j, (∀ k ∈ coresOf m, j ≠ c.x.engineOf k) → t.core j = s.core j)))
    ∧ (s.issues (.mxrel pg a) c →
      let i : Instr := .mxrel pg a
      (c.lanes = 0 → Completes i s c id)
      ∧ (c.lanes ≠ 0 → 256 ≤ m → Raises i s c { code := 0x18 })
      ∧ (c.lanes ≠ 0 → m < 256 → ∃ t : State, Ends i s c (.fall (t.queueSettle c.x.gang)) ∧ t.mem = s.mem ∧ t.threads = s.threads ∧ t.gangs = s.gangs
            ∧ (SMap.wf Core.reset s.cores = true → ∀ k, k < 8 →
                t.core (c.x.engineOf k) = if k ∈ coresOf m ∧ (engine k).holder = some c.x.gang
                  then { s.core (c.x.engineOf k) with engine := { engine k with release := some g.nextCmd } }
                  else s.core (c.x.engineOf k))))
    ∧ (s.issues (.mxmon pg d n) c →
      let i : Instr := .mxmon pg d n
      (c.lanes = 0 → Completes i s c id)
      ∧ (c.lanes ≠ 0 → (engine n.val).holder ≠ some c.x.gang → Raises i s c { code := 0x1A, info := n.val })
      ∧ (c.lanes ≠ 0 → (engine n.val).holder = some c.x.gang → (∃ q ∈ g.queue, q.op.engine = some n.val) → exec i s = .next s)
      ∧ (c.lanes ≠ 0 → (engine n.val).holder = some c.x.gang → (∀ q ∈ g.queue, q.op.engine ≠ some n.val) →
          Completes i s c fun x => (List.range 8).foldl (fun x j =>
            (if j % 2 = 1 then c.resultHi else c.result) s 0 (d.dst c.x.winBase j) c.lanes (fun _ => (engine n.val).mon.getD j 0) x) x))
    ∧ (s.issues (.sqwait pg a) c →
      let i : Instr := .sqwait pg a
      (c.lanes = 0 → Completes i s c id)
      ∧ (c.lanes ≠ 0 → 512 ≤ m → Raises i s c { code := 0x18 })
      ∧ (c.lanes ≠ 0 → m < 512 → (∃ q ∈ g.queue, m.testBit q.op.kind = true) → exec i s = .next s)
      ∧ (c.lanes ≠ 0 → m < 512 → (∀ q ∈ g.queue, m.testBit q.op.kind = false) → Completes i s c id))

/-- R78: an engine's pending release takes effect when every command posted to it before the `mxrel` has left the queue. -/
def Sys2Proof.Spec.ReleasesWaitForCommands : Prop :=
  ∀ (s : State) (gid k n : Nat) (g : Gang), s.gang? gid = some g → SMap.wf Core.reset s.cores = true → k < 8 →
    let e := (s.core (coreOf g k)).engine
    e.holder = some gid → e.release = some n →
    let t := s.releaseEngines gid
    ((∃ q ∈ g.queue, q.id < n ∧ q.op.engine = some k) → (t.core (coreOf g k)).engine = e)
    ∧ ((∀ q ∈ g.queue, q.id < n → q.op.engine ≠ some k) → (t.core (coreOf g k)).engine = { e with holder := none, release := none })

/-- R78, R102, R282, R288, R295: reservation of the engines, their monitors and waits. Choices of the model it rests on: log 58, 96. -/
def Obligations.MatrixEngines : Prop := Spec.EnginesAreReserved ∧ Spec.ReleasesWaitForCommands

/-- R82, R279: a command may start only when no earlier command of its queue overlaps it where one of the two writes, no started command
of any gang of its cluster holds its engine, and its cluster has fewer than four copies started. -/
def Sys2Proof.Spec.CommandsStartInOrder : Prop :=
  ∀ (s : State) (gid : Nat) (g : Gang) (c : Cmd), s.gang? gid = some g → c ∈ g.queue → s.canStart g c = true →
    let meet (a b : List FRange) : Prop := ∃ x ∈ a, ∃ y ∈ b, x.1 = y.1 ∧ ∃ n, x.2.1 ≤ n ∧ n < x.2.2 ∧ y.2.1 ≤ n ∧ n < y.2.2
    c.started = false
    ∧ (∀ y ∈ g.before c.id, ¬ meet y.op.wr c.op.rd ∧ ¬ meet y.op.rd c.op.wr ∧ ¬ meet y.op.wr c.op.wr)
    ∧ (∀ n, c.op.engine = some n → ∀ h ∈ s.gangs, h.2.die = g.die → h.2.cluster = g.cluster →
        ∀ y ∈ h.2.queue, y.started = true → y.op.engine ≠ some n)
    ∧ (c.op.isCopy = true → (g.queue.filter fun y => y.started && y.op.isCopy).length < 4)

/-- R82, R278, R280, R281: COMMAND_START and COMMAND_COMPLETE. A command that passes its checks starts, with the index lists and codes
that it reads then; one that fails a check is a deferred fault. A started command whose accesses are still allowed and whose lines are at their
homes performs its reads and writes and leaves the queue; poison that it consumes is a fault, and none of its writes is performed. -/
def Sys2Proof.Spec.CommandsStartAndComplete : Prop :=
  ∀ (s : State) (gid id : Nat) (g : Gang) (c : Cmd), s.gang? gid = some g → (g.queue.find? fun c => c.id == id) = some c →
    let lines := s.cmdLines g c
    (s.canStart g c = false → exec (.commandStart gid id) s = .next s)
    ∧ (∀ code addr info, s.canStart g c = true → s.startCheck g c.op = .inl (code, addr, info) →
        exec (.commandStart gid id) s = .next (s.faultCmd gid c code addr info))
    ∧ (∀ read bad, s.canStart g c = true → s.startCheck g c.op = .inr (read, bad) →
        ∃ t, exec (.commandStart gid id) s = .next t ∧ t.mem = s.mem ∧ t.threads = s.threads
          ∧ (SMap.risingFrom 0 s.gangs = true → t.gang? gid = some { g with queue := (g.queue.map fun y =>
              if y.id = id then { y with started := true, since := s.cycle, read := read, bad := bad } else y) }))
    ∧ (let complete (r : State) : Prop := exec (.commandComplete gid id) s = .next r
       let check := s.failGlobal g c.global.1 (if c.global.2 then .store else .load)
       let done (r : State) : State := r.homeDone (gangAgent gid) lines
       let posted : Prop := ∃ h va src, c.op = .colpost h va src
       (s.mayComplete g c = false → complete s)
       ∧ (s.mayComplete g c = true →
         (∀ code addr info, check = some (code, addr, info) → complete (s.faultCmd gid c code addr info))
         ∧ (∀ t, check = none → s.homeAccess (gangAgent gid) lines = (t, false) → complete t)
         ∧ (∀ t, check = none → s.homeAccess (gangAgent gid) lines = (t, true) →
             (∀ u, ¬ posted → t.performCmd g c = .inr u → complete (done (u.dropCmd gid id)))
             ∧ (¬ posted → t.performCmd g c = .inl none → complete (done (t.faultCmd gid c 0x20 0 0)))
             ∧ (∀ va, ¬ posted → t.performCmd g c = .inl (some va) →
                 complete (done ((t.markPois (t.spaceOf g) va).faultCmd gid c 0x20 ((t.pa? (t.spaceOf g) va).getD 0) 0)))
             ∧ (∀ h va src, c.op = .colpost h va src → complete (done (t.performColpost gid g c h va src))))))

/-- R79, R82, R278 to R281, R287: the posting, start and completion of queued commands. Choices of the model it rests on: log 25, 56, 57,
95. -/
def Obligations.RegionQueues : Prop := Spec.CommandsArePosted ∧ Spec.CommandsStartInOrder ∧ Spec.CommandsStartAndComplete

/-- R284 to R287: the tile that `mxclr` clears, the one that `mxld` loads from its region's rows, little-endian, and the one in which an
`mma` replaces each element by its position's sum. -/
def Sys2Proof.Spec.CommandsWriteTheirTiles : Prop :=
  ∀ (s : State) (g : Gang) (q : Cmd), SMap.wf Core.reset s.cores = true → (∀ k, SMap.wf 0 (s.core k).acc = true) →
    (∀ cd core, q.op = .mxclr cd core → ∃ t, s.performCmd g q = .inr t ∧ TileWritten s t (coreOf g core) (tileOf cd) fun _ _ => 0)
    ∧ (∀ cd rg, q.op = .mxld cd rg → s.regionBad g (regionOf rg) (tileOf cd).m (4 * (tileOf cd).n) = false →
        ∃ t, s.performCmd g q = .inr t ∧ TileWritten s t (coreOf g (regionOf rg).core) (tileOf cd) fun m n =>
          BitVec.ofNat 32 (s.winGet g ((regionOf rg).row m) (4 * (tileOf cd).n) / 2 ^ (32 * n)))
    ∧ (∀ cd a b desc o n, q.op = .mma false false cd a b desc o n → (tileOf cd).empty = false → q.bad = false →
        let t0 := tileOf cd
        let d := accDescOf desc
        let cid := coreOf g (regionOf b).core
        let planes := if d.planes = 0 then (mxFmt d.bfmt).w else d.planes
        let elemA (m k : Nat) : Option Elem := rowElem d.afmt t0.k (s.winGet g ((regionOf a).row m) (rowBytes d.afmt t0.k false)) false [] k
        let block (k n : Nat) : Nat := s.winGet g ((regionOf b).row (n / 16 * ceilDiv t0.k 32 + k / 32)) (mxFmt d.bfmt).bytes
        let elemB (k n : Nat) : Elem := blockElem d.bfmt planes (block k n) (n % 16) (k % 32)
        s.tileBad cid t0 = false → s.regionBad g (regionOf a) t0.m (rowBytes d.afmt t0.k false) = false →
        s.regionBad g (regionOf b) (t0.n / 16 * ceilDiv t0.k 32) ((mxFmt d.bfmt).plane + 64 * planes) = false →
        ∃ t, s.performCmd g q = .inr t ∧ TileWritten s t cid t0 fun m n =>
          BitVec.ofNat 32 (positionOf d (acc s cid (t0.eoff + m * t0.n + n)).toNat
            ((List.range t0.k).map fun k => match elemA m k with
              | some x => x.mul (elemB k n)
              | none => .none) []).1)

/-- R94, R99: the product of two numbers is the term of their value with the anchor of their exponents; of a NaN, or of an infinity and a
zero, a NaN; of an infinity and another element, an infinity of their sign. -/
def Sys2Proof.Spec.ProductsOfElements : Prop :=
  ∀ a b : Elem,
    ((a.kind = .nan ∨ b.kind = .nan) → a.mul b = .nan)
    ∧ (a.kind = .inf → b.kind = .zero → a.mul b = .nan) ∧ (a.kind = .zero → b.kind = .inf → a.mul b = .nan)
    ∧ (a.kind = .inf → (b.kind = .inf ∨ b.kind = .num) → a.mul b = .inf (a.neg != b.neg))
    ∧ (a.kind = .num → b.kind = .inf → a.mul b = .inf (a.neg != b.neg))
    ∧ ((a.kind = .zero ∨ a.kind = .num) → (b.kind = .zero ∨ b.kind = .num) →
        let v : ℚ := (if a.neg then -1 else 1) * ((a.s : ℚ) / 2 ^ a.fb) * 2 ^ a.e * ((if b.neg then -1 else 1) * ((b.s : ℚ) / 2 ^ b.fb) * 2 ^ b.e)
        (v = 0 → a.mul b = .none) ∧ (v ≠ 0 → ∃ t, a.mul b = .term t ∧ (t.n : ℚ) * 2 ^ t.x = v ∧ t.a = a.e + b.e))

/-- R96, R97: a level aligns its nonzero terms at the largest anchor less its fraction bits, each as its ALN says (floor, toward zero,
nearest even), and sums them. -/
def Sys2Proof.Spec.LevelsAlignAndSum : Prop :=
  (∀ n sh : Int,
      let v : ℚ := (n : ℚ) * 2 ^ sh
      alignTo 0 n sh = ⌊v⌋
      ∧ alignTo 1 n sh = (if 0 ≤ n then ⌊v⌋ else ⌈v⌉)
      ∧ |(alignTo 2 n sh : ℚ) - v| ≤ 1 / 2 ∧ (|(alignTo 2 n sh : ℚ) - v| = 1 / 2 → alignTo 2 n sh % 2 = 0))
  ∧ (∀ (aln f : Nat) (ts : List Term),
      let l := levelOf aln f ts
      let live := ts.filter fun t => t.n != 0
      (live = [] → l.z = 0)
      ∧ (live ≠ [] → (∃ t ∈ live, t.a = l.a) ∧ (∀ t ∈ live, t.a ≤ l.a)
          ∧ l.z = (live.map fun t => alignTo aln t.n (t.x - (l.a - f))).sum))

/-- R98, R99: level 3 adds a span's sum to the accumulator with one rounding; a span of 0 leaves it, an exact sum of 0 is +0, and
flagged products give the NaN or the infinity. -/
def Sys2Proof.Spec.AccumulationRoundsOnce : Prop :=
  ∀ (d : AccDesc) (y : Nat) (nan p n : Bool) (v x : Int), y < 2 ^ 32 →
    let r := (level3 d y nan p n v x).1
    ((nan = true ∨ (p = true ∧ n = true)) → r = 0x7FC00000)
    ∧ (nan = false → p ≠ n → r = match fp32.value y with
        | .nan => 0x7FC00000
        | .inf m => if m = n then fp32.round .rne false (.inf n) else 0x7FC00000
        | .fin .. => fp32.round .rne false (.inf n))
    ∧ (nan = false → p = false → n = false → v = 0 → r = y)
    ∧ (nan = false → p = false → n = false → v ≠ 0 → fp32.value y = .nan → r = 0x7FC00000)
    ∧ (∀ m, nan = false → p = false → n = false → v ≠ 0 → fp32.value y = .inf m → r = y)
    ∧ (∀ m k e, nan = false → p = false → n = false → v ≠ 0 → fp32.value y = .fin m k e →
        let sum : ℚ := rat (fp32.value y) + (v : ℚ) * 2 ^ x
        (sum = 0 → r = 0)
        ∧ (sum ≠ 0 → ∃ m' k' e', rat (.fin m' k' e') = sum ∧ r = fp32.round (if d.rz then .rz else .rne) false (.fin m' k' e')))

/-- R94 to R99, R284 to R287: what engine commands write. Choices of the model it rests on: log 57, 97. -/
def Obligations.MatrixArithmetic : Prop := Spec.ProductsOfElements ∧ Spec.LevelsAlignAndSum ∧ Spec.AccumulationRoundsOnce ∧ Spec.CommandsWriteTheirTiles

/-! ## System instructions, stalls and parking (chapters 2, 13 and 17) -/

/-- R296, R297, R338: `brk` does nothing where its launch is not under debugging, and else stops its split and reports the stop; `tick`
writes the cycle count to a pair. -/
def Sys2Proof.Spec.BreakpointsAndTicks : Prop :=
  ∀ (s : State) (c : Ctx) (pg : Guard) (d : Reg),
    (s.issues (.brk pg) c →
      let id' : StopId := { launch := c.x.launch, die := c.x.die, cluster := c.x.cluster, core := if c.x.seq then 255 else c.x.core,
                            slot := if c.x.seq then 128 + c.x.slot else 16 * c.x.quad + c.x.slot, pc := c.pc,
                            entry := if c.x.seq then 255 else c.e }
      let debug : Prop := ∃ l, s.launch? c.x.launch = some l ∧ l.debug = true
      ((c.lanes = 0 ∨ ¬ debug) → Completes (.brk pg) s c id)
      ∧ (c.lanes ≠ 0 → debug → ∃ t, CompletesIn (.brk pg) s c t ∧ t.thread? c.t = some (c.x.updSplit c.e fun p => { p with stopped := true })
          ∧ t.mem = s.mem ∧ t.res.stops = s.res.stops ++ [id']
          ∧ ∃ m, t.res.store.getLast? = some m ∧ m.op = opSTOP
            ∧ m.body = (leBytes 4 id'.launch ++ leBytes 1 id'.die ++ leBytes 1 id'.cluster ++ leBytes 1 id'.core ++ leBytes 1 id'.slot
                ++ leBytes 6 id'.pc ++ leBytes 1 id'.entry ++ leBytes 1 0).map (·.toNat)))
    ∧ (s.issues (.tick pg d) c →
      (c.lanes = 0 → Completes (.tick pg d) s c id)
      ∧ (c.lanes ≠ 0 → Result64 (.tick pg d) s c 0 d fun _ => BitVec.ofNat 64 s.cycle))

/-- R38, R39, R40, R196: a stall count that has run out lets its split issue. A split about to issue at the join address of its top record
parks there: while other members remain its entry takes its next deferred set, or is free; with the last member, parked lanes equal to
the recorded ones fuse into one split at the join address, and others are a mask fault. -/
def Sys2Proof.Spec.StallsExpireAndSplitsPark : Prop :=
  ∀ (s : State) (t e : Nat) (x : Thread), s.thread? t = some x → e < x.splits.length →
    let p := x.split e
    (exec (.stallCountExpiry t e) s = .next (s.setThread t (x.updSplit e fun p => if p.stall ≤ s.cycle then { p with stall := 0 } else p)))
    ∧ (x.parks e = false → exec (.splitPark t e) s = .next s)
    ∧ (x.parks e = true → p.mix = none → exec (.splitPark t e) s = .next (s.afterLeave t (x.park e)))
    ∧ (∀ r, p.top = some r → r < x.recs.length →
        let j := x.record r
        let all := j.parked ||| p.mask
        let inH := if p.inH then j.inH ||| p.mask else j.inH
        (1 < j.count → x.park e = .inr (((x.updRec r fun j => { j with parked := all, inH := inH, count := j.count - 1 }).updSplit e
            fun _ => Split.reset).nextSet e p.queue))
        ∧ (j.count = 1 → all ≠ j.recorded → x.park e = .inl j.addr)
        ∧ (j.count = 1 → all = j.recorded → all ≠ 0 →
            x.park e = .inr ((x.updRec r fun _ => { used := false, addr := 0, recorded := 0, parked := 0, inH := 0, count := 0, below := none }).startSplit
              e j.addr all j.below (inH != 0) p.queue)))

/-- R38 to R40, R196, R230 to R233, R296, R297, R338: winb, rgn, sigchk, yield and nop, breakpoints, ticks, stalls and parking. Choices of
the model it rests on: log 28, 32, 39, 41. -/
def Obligations.WindowSignatureBreaksTicksAndStalls : Prop := Spec.WindowRegionAndSignature ∧ Spec.BreakpointsAndTicks ∧ Spec.StallsExpireAndSplitsPark

/-! ## The coherence protocol (chapter 9) -/

namespace Sys2Proof.Spec

/-- A message arrives: it is the first of its like among those in flight, and `rest` stay so. -/
def Arrives (s : State) (m : Instr) (rest : List Instr) : Prop := ∃ a b, s.msgs = a ++ m :: b ∧ m ∉ a ∧ rest = a ++ b

/-- The request of a kind: 0 GetS, 1 GetM, 2 Upg. -/
def request (kind src srv line : Nat) : Instr :=
  if kind = 0 then .getS src srv line else if kind = 1 then .getM src srv line else .upg src srv line

/-- The message by which a home asks a holder before it serves a request (R135): a forward to the L1 or peer L2 that owns the line, for
a write also an invalidation of every other copy. -/
def Asked (h : Home) (kind src line : Nat) (m : Instr) : Prop :=
  let srv := homeServer (lineDie line)
  let peer := peerAgent (1 - lineDie line)
  (∃ o, h.owner = some o ∧ o ≠ src ∧ m = if kind = 0 then .fwdS o srv line else .fwdM o srv line)
  ∨ (kind ≠ 0 ∧ ∃ c ∈ h.sharers, c ≠ src ∧ m = .inv c srv line)
  ∨ (src ≠ peer ∧ h.st = .HX ∧ m = if kind = 0 then .fwdS peer srv line else .fwdM peer srv line)
  ∨ (src ≠ peer ∧ kind ≠ 0 ∧ h.st = .HO ∧ m = .fwdM peer srv line)
  ∨ (src ≠ peer ∧ kind ≠ 0 ∧ h.st = .HS ∧ m = .inv peer srv line)

/-- The maps of caches and homes are in their canonical form. -/
def CachesOk (s : State) : Prop :=
  SMap.wf Core.reset s.cores = true ∧ SMap.wf Home.reset s.homes = true ∧ SMap.wf Line.reset s.peers = true
  ∧ ∀ k, SMap.wf Line.reset (s.core k).l1 = true

end Sys2Proof.Spec

/-- R118, R133, R135, R136, R140: GetS, GetM and Upg at the home. While a request is in service or the line is kept, the arrival waits
behind the others, those of one cycle in the order of their agents. Else the home asks every other holder, or, with none to ask, grants: E to the first reader of a line of a HW page that nothing
watches, S to other readers, and exclusive ownership to a writer, under RET where a monitor watches the line. -/
def Sys2Proof.Spec.RequestsAtTheHome : Prop :=
  ∀ (s : State) (kind src line : Nat) (rest : List Instr), kind ≤ 2 → CachesOk s → s.hbmErrs = [] →
    let srv := homeServer (lineDie line)
    let peer := peerAgent (1 - lineDie line)
    let m := request kind src srv line
    Arrives s m rest →
    let h := s.home line
    let watched := s.monitors.any fun m => m.registered && lineOf m.pa == line
    let sw : Bool := src < 128 && (s.l1 src line).sw
    let r : HReq := { src := src, kind := kind, at' := (s.cycle + 1, s.arrivalRank src line) }
    ((h.cur ≠ none ∨ h.reserved ≠ none) → ∃ t, exec m s = .next t ∧ t.msgs = rest ∧ t.mem = s.mem
        ∧ t.home line = { h with queue := insertReq r h.queue, arr := (s.cycle + 1, src) })
    ∧ (h.cur = none → h.reserved = none → h.queue = [] → (∃ x, Asked h kind src line x) →
        ∃ t new, exec m s = .next t ∧ t.mem = s.mem ∧ t.msgs = rest ++ new ∧ (∀ x, x ∈ new ↔ Asked h kind src line x)
          ∧ (t.home line).cur = some r ∧ (t.home line).queue = [] ∧ (t.home line).acks.length = new.length)
    ∧ (h.cur = none → h.reserved = none → h.queue = [] → s.advanced line = false → (∀ x, ¬ Asked h kind src line x) →
        ∃ t ver, exec m s = .next t ∧ t.mem = s.mem ∧ (t.home line).cur = none ∧ (t.home line).present = true
          ∧ (kind = 0 → sw = true → t.msgs = rest ++ [.data src srv line (s.homeData line) ver .S false]
              ∧ (t.home line).owner = h.owner ∧ (t.home line).sharers = h.sharers ∧ (t.home line).st = h.st)
          ∧ (kind = 0 → sw = false → h.st = .HI → h.sharers = [] → watched = false →
              t.msgs = rest ++ [.data src srv line (s.homeData line) ver .E false]
              ∧ (if src = peer then (t.home line).st = .HX else (t.home line).owner = some src) ∧ (t.home line).ver = ver)
          ∧ (kind = 0 → sw = false → (h.st ≠ .HI ∨ h.sharers ≠ [] ∨ watched = true) →
              t.msgs = rest ++ [.data src srv line (s.homeData line) ver .S false]
              ∧ (if src = peer then (t.home line).st = .HS else ∀ k, k ∈ (t.home line).sharers ↔ k = src ∨ k ∈ h.sharers))
          ∧ (kind ≠ 0 → (t.home line).sharers = [] ∧ (t.home line).ver = ver
              ∧ (if src = peer then (t.home line).st = .HX ∧ (t.home line).owner = none
                  else (t.home line).st = .HI ∧ (t.home line).owner = some src)
              ∧ let holds := if src = peer then h.st == .HS || h.st == .HO else h.sharers.contains src
                t.msgs = rest ++ [if kind = 2 ∧ holds = true then .grant src srv line ver watched
                  else .data src srv line (s.homeData line) ver .M watched]))

/-- R133, R134: a request at the peer L2 of a die waits behind the others there; with none before it, and the line not held, or held
without ownership where the request needs it, the peer asks the home. -/
def Sys2Proof.Spec.RequestsAtThePeer : Prop :=
  ∀ (s : State) (kind src line : Nat) (rest : List Instr), kind ≤ 2 → CachesOk s →
    let me := peerAgent (1 - lineDie line)
    let m := request kind src me line
    Arrives s m rest →
    let p := s.peer line
    let srv := homeServer (lineDie line)
    ((p.cur ≠ none ∨ p.st ∉ [CSt.I, .S, .E, .M, .O]) → ∃ t, exec m s = .next t ∧ t.msgs = rest ∧ t.mem = s.mem
        ∧ t.peer line = { p with waiting := p.waiting ++ [(src, kind)] })
    ∧ (p.cur = none → p.waiting = [] → (p.st = .I ∨ (kind ≠ 0 ∧ (p.st = .S ∨ p.st = .O))) →
        ∃ t, exec m s = .next t ∧ t.mem = s.mem
          ∧ t.msgs = rest ++ [if p.st = .I then (if kind = 0 then .getS me srv line else .getM me srv line) else .upg me srv line]
          ∧ (t.peer line).waiting = [(src, kind)])
    ∧ (p.cur = none → p.waiting = [] → (p.st = .E ∨ p.st = .M ∨ (kind = 0 ∧ (p.st = .S ∨ p.st = .O))) → p.owner = none → p.sharers = [] →
        p.ret = false → ∃ t, exec m s = .next t ∧ t.mem = s.mem ∧ (t.peer line).waiting = []
          ∧ t.msgs = rest ++ [.data src me line p.data p.ver
              (if kind ≠ 0 then .M else if (p.st = .E ∨ p.st = .M) ∧ (src < 128 && (s.l1 src line).sw) = false then .E else .S) false])

/-- R135: a write-back reaches the home. From the holder that the directory knows it is taken: PutM's dirty bytes become the home
copy, PutC's ownership ends, and WbAck answers; from any other it is stale, nothing changes, and WbStale answers;
so does a peer's write-back whose bytes its answer to a forward has brought before it (R137). -/
def Sys2Proof.Spec.WriteBacksReachTheHome : Prop :=
  ∀ (s : State) (src line : Nat) (d : LineData) (k : ByteMask) (ret : Bool) (rest : List Instr), CachesOk s → s.memoryOk → s.hbmErrs = [] →
    let srv := homeServer (lineDie line)
    let h := s.home line
    let peer := peerAgent (1 - lineDie line)
    (Arrives s (.putM peer srv line d k ret) rest → h.late = true →
      ∃ t, exec (.putM peer srv line d k ret) s = .next t ∧ t.msgs = rest ++ [.wbstale peer srv line] ∧ t.mem = s.mem
        ∧ t.home line = { h with late := false }) ∧
    (src < 128 →
    (Arrives s (.putM src srv line d k ret) rest →
      (h.owner = some src → src ∉ h.acks → h.queue = [] → s.monitors = [] →
        ∃ t, exec (.putM src srv line d k ret) s = .next t ∧ t.msgs = rest ++ [.wback src srv line] ∧ (t.home line).owner = none
          ∧ (∀ i, i < 128 → Memory.read t.mem (line * 128 + i) = if k.getLsbD i then byteAt d i else Memory.read s.mem (line * 128 + i))
          ∧ (∀ b, lineOf b ≠ line → Memory.read t.mem b = Memory.read s.mem b))
      ∧ ((h.owner ≠ some src ∨ src ∈ h.acks) →
        exec (.putM src srv line d k ret) s = .next { s with msgs := rest ++ [.wbstale src srv line] }))
    ∧ (Arrives s (.putC src srv line) rest →
      (h.owner = some src → src ∉ h.acks → h.queue = [] →
        ∃ t, exec (.putC src srv line) s = .next t ∧ t.msgs = rest ++ [.wback src srv line] ∧ t.mem = s.mem
          ∧ t.home line = { h with owner := none })
      ∧ ((h.owner ≠ some src ∨ src ∈ h.acks) →
        exec (.putC src srv line) s = .next { s with msgs := rest ++ [.wbstale src srv line] })))

/-- R134: the writer hears of its write-back: its buffer is free, or, for a write under RET, its copy is shared and clean. -/
def Sys2Proof.Spec.WritersHearOfWriteBacks : Prop :=
  ∀ (s : State) (cid srv line : Nat) (rest : List Instr) (m : Instr), CachesOk s → cid < 128 →
    (m = .wback cid srv line ∨ m = .wbstale cid srv line) → Arrives s m rest →
    let l := s.l1 cid line
    ∃ t, exec m s = .next t ∧ t.msgs = rest ∧ t.mem = s.mem
      ∧ (l.st ∈ [CSt.MI_A, .EI_A, .I_A] → l.waiting = [] → t.l1 cid line = Line.reset)
      ∧ (l.st = .MS_A → t.l1 cid line = { l with st := .S, dirty := 0, who := [], ret := false })
      ∧ (l.st ∉ [CSt.MI_A, .EI_A, .I_A, .MS_A] → t.l1 cid line = l)

/-- R133 to R136: requests and write-backs of the coherence protocol. Choices of the model it rests on: log 26, 29, 60. -/
def Obligations.CoherenceRequests : Prop := Spec.RequestsAtTheHome ∧ Spec.RequestsAtThePeer ∧ Spec.WriteBacksReachTheHome ∧ Spec.WritersHearOfWriteBacks

/-- R134: Inv, FwdS and FwdM at an L1. An invalidation removes a shared copy, turns an upgrade into a fill, and is acknowledged. A
forward is answered with the line's data, dirty where it was modified; FwdS leaves a shared clean copy, FwdM none, and a write-back on its
way has lost its ownership. -/
def Sys2Proof.Spec.HoldersAnswerTheHome : Prop :=
  ∀ (s : State) (cid srv line : Nat) (rest : List Instr), CachesOk s → cid < 128 →
    let l := s.l1 cid line
    (Arrives s (.inv cid srv line) rest →
      ∃ t, exec (.inv cid srv line) s = .next t ∧ t.mem = s.mem ∧ t.msgs = rest ++ [.invAck cid srv line]
        ∧ (l.st = .S → l.sw = false → t.l1 cid line = Line.reset)
        ∧ (l.st = .SM_A → t.l1 cid line = { Line.reset with st := .IM_D, sw := l.sw })
        ∧ (l.st ≠ .S → l.st ≠ .SM_A → t.l1 cid line = l))
    ∧ (∀ excl : Bool, let m : Instr := if excl then .fwdM cid srv line else .fwdS cid srv line
      Arrives s m rest →
      ∃ t, exec m s = .next t ∧ t.mem = s.mem
        ∧ t.msgs = rest ++ [.snpData cid srv line l.data (l.st == .M || l.st == .MI_A || l.st == .MS_A)]
        ∧ (l.st = .E ∨ l.st = .M → t.l1 cid line = if excl then Line.reset else { l with st := .S, dirty := 0, who := [], ret := false })
        ∧ (l.st = .MI_A ∨ l.st = .EI_A → t.l1 cid line = { l with st := .I_A, ret := false }))

/-- R118, R135: InvAck and SnpData at the home. Dirty data becomes the home copy, which is a version event. A holder's answer is counted
off; with the last the request in service is granted, an exclusive grant in a cycle in which the line has had no version event yet. -/
def Sys2Proof.Spec.AnswersCompleteRequests : Prop :=
  ∀ (s : State) (src line : Nat) (rest : List Instr) (r : HReq), CachesOk s → s.memoryOk → s.hbmErrs = [] → src < 128 → s.monitors = [] →
    let srv := homeServer (lineDie line)
    let h := s.home line
    let last : Prop := ∀ k ∈ h.acks, k = src
    h.cur = some r → h.queue = [] →
    (∀ d dirty, Arrives s (.snpData src srv line d dirty) rest →
      ∃ t, exec (.snpData src srv line d dirty) s = .next t
        ∧ (dirty = true → (∀ i, i < 128 → Memory.read t.mem (line * 128 + i) = byteAt d i) ∧ (t.home line).adv = s.cycle + 1)
        ∧ (∀ b, dirty = false ∨ lineOf b ≠ line → Memory.read t.mem b = Memory.read s.mem b)
        ∧ (¬ last → t.msgs = rest ∧ (t.home line).cur = some r ∧ (t.home line).acks = h.acks.filter (· ≠ src))
        ∧ (last → (t.home line).acks = []
            ∧ ((2 < r.kind ∨ (dirty = false ∧ s.advanced line = false)) → (t.home line).cur = none)
            ∧ ((r.kind = 1 ∨ r.kind = 2) → dirty = true → (t.home line).cur = some r ∧ t.msgs = rest)))
    ∧ (Arrives s (.invAck src srv line) rest →
      ∃ t, exec (.invAck src srv line) s = .next t ∧ t.mem = s.mem
        ∧ (¬ last → t.msgs = rest ∧ (t.home line).cur = some r ∧ (t.home line).acks = h.acks.filter (· ≠ src)
            ∧ (t.home line).sharers = h.sharers.filter (· ≠ src))
        ∧ (last → s.advanced line = false → (t.home line).cur = none ∧ (t.home line).acks = []
            ∧ (r.kind = 1 → r.src < 128 → (t.home line).owner = some r.src ∧ (t.home line).sharers = []
                ∧ ∃ ver, t.msgs = rest ++ [.data r.src srv line (s.homeData line) ver .M false])))

/-- R134, R119: Data fills the L1 line that waits for it, under the bytes that the core has written, with its version and the cycle of the
fill; Grant turns an upgrade into ownership. A line that waits for neither does not change. -/
def Sys2Proof.Spec.GrantsFillLines : Prop :=
  ∀ (s : State) (cid srv line : Nat) (rest : List Instr) (d : LineData) (ver : BitVec 16) (g : GrantKind) (ret : Bool),
    CachesOk s → cid < 128 →
    let l := s.l1 cid line
    let wanted : Prop := ∃ n m, l.asker = some n ∧ s.op? n = some m
    (Arrives s (.data cid srv line d ver g ret) rest →
      ((l.st = .IS_D ∨ l.st = .IM_D) → wanted →
        ∃ t, exec (.data cid srv line d ver g ret) s = .next t ∧ t.mem = s.mem ∧ t.msgs = rest
          ∧ let n := t.l1 cid line
            n.filled = true ∧ n.ver = ver ∧ n.stamp = s.cycle ∧ n.dirty = l.dirty ∧ n.ret = ret
            ∧ (n.st = if l.st = .IM_D ∨ g = .M then .M else if g = .E then (if l.dirty = 0 ∧ ret = false then .E else .M) else .S)
            ∧ ∀ i, i < 128 → byteAt n.data i = if (l.dirty ||| l.kept).getLsbD i then byteAt l.data i else byteAt d i)
      ∧ (l.st ≠ .IS_D → l.st ≠ .IM_D → exec (.data cid srv line d ver g ret) s = .next { s with msgs := rest }))
    ∧ (Arrives s (.grant cid srv line ver ret) rest →
      (l.st = .SM_A → wanted → ∃ t, exec (.grant cid srv line ver ret) s = .next t ∧ t.mem = s.mem ∧ t.msgs = rest
          ∧ t.l1 cid line = { l with st := .M, ver := ver, ret := ret })
      ∧ (l.st ≠ .SM_A → exec (.grant cid srv line ver ret) s = .next { s with msgs := rest }))

/-- R119, R134, R135: answers of holders, and grants. Choices of the model it rests on: log 26, 60, 85. -/
def Obligations.CoherenceAnswers : Prop := Spec.HoldersAnswerTheHome ∧ Spec.AnswersCompleteRequests ∧ Spec.GrantsFillLines

/-! ## The domain fabric (chapter 10) -/

namespace Sys2Proof.Spec

/-- The event of a packet of an operation at a port (R145). -/
def packetEvent (op port : Nat) (p : Packet) : Option Instr :=
  [none, some (Instr.wr port p), some (.rdreq port p), some (.rdrsp port p), some (.atomPacket port p), some (.atomrsp port p),
   some (.ack port p), some (.close port p), some (.closeack port p), some (.coltrig port p), some (.expred port p),
   some (.reddata port p)].getD op none

/-- A destination end after it has delivered a packet, with an atomic's result or a refused write noted (R153). -/
def deliveredEnd (e : DstEnd) (seq : Nat) (res : Option (Word × Nat)) (bad : Bool) (e' : DstEnd) : Prop :=
  e'.cum = seq ∧ e'.inc = e.inc ∧ e'.accepted = [] ∧ (∀ r, res = some r → e'.results.head? = some (seq, r.1, r.2))
  ∧ (bad = true → seq ∈ e'.refused)

end Sys2Proof.Spec

/-- R145, R148, R149, R165: what arrives at a port. Nothing at a station that is down; a malformed header, or one of another operation, is
counted and cuts the open packet of its class and VC short; a new header discards the open packet of its class and VC; a packet whose last flit is there is accepted, and one whose
payload is still to come opens its context. ABORT discards an open packet. A packet inside the hub is accepted as it stands. -/
def Sys2Proof.Spec.PortsAcceptWholePackets : Prop :=
  ∀ (s : State) (op port : Nat) (p : Packet) (i : Instr), packetEvent op port p = some i →
    let h := p.hdr
    let st := s.station port
    let others := st.rx.filter fun r => !(r.cls == h.cls && r.vc == h.vc)
    (port < 18 → st.up = false → exec i s = .next s)
    ∧ (port < 18 → st.up = true → (h.malformed = true ∨ h.opcode ≠ op) →
        exec i s = .next (s.updStation port fun t => { t with
          rx := t.rx.filter fun r => !(r.cls == h.cls && r.vc == h.vc), malformed := sat32 (t.malformed + 1) }))
    ∧ (port < 18 → st.up = true → h.malformed = false → h.opcode = op → p.payload.length = 64 * h.len → st.malformed < 2 ^ 32 →
        exec i s = .next ((s.updStation port fun t => { t with rx := others }).accept p))
    ∧ (port < 18 → st.up = true → h.malformed = false → h.opcode = op → p.payload.length / 64 < h.len → port < s.fab.stations.length →
        ∃ t, exec i s = .next t ∧ t.mem = s.mem ∧ t.fab.src = s.fab.src ∧ t.fab.dst = s.fab.dst
          ∧ (t.station port).rx = others ++ [{ cls := h.cls, vc := h.vc, pkt := p, got := p.payload.length / 64, since := s.cycle }])
    ∧ (port = 18 → p ∉ s.fab.loop → exec i s = .next s)
    ∧ (∀ a b, port = 18 → s.fab.loop = a ++ p :: b → p ∉ a → exec i s = .next ({ s with fab := { s.fab with loop := a ++ b } }.accept p))
    ∧ (∀ c, port = 19 → p ∉ s.fab.frozen → clsOf h.cls = some c → exec i s = .next (s.deliver h.dst h.src c))
    ∧ (∀ cls vc, exec (.abort port cls vc) s = .next (if (s.station port).up then
        s.updStation port fun t => { t with rx := t.rx.filter fun r => !(r.cls == cls && r.vc == vc) } else s))

/-- R143, R145, R148, R149: the flits of a port. An empty position changes nothing; another kind of class 3, and a payload flit where no
packet of its class and VC is open, are counted as malformed. A header flit carries a header: a malformed one is counted and cuts the open
packet short, ABORT cuts it short, and any other is the packet event of its operation. A payload flit goes to the open packet of its class
and VC, which is accepted with its last flit. -/
def Sys2Proof.Spec.FlitsContinuePackets : Prop :=
  ∀ (s : State) (port : Nat) (f : Flit), port < 18 → port < s.fab.stations.length →
    let st := s.station port
    let i : Instr := .malformedHeaderOrFlit port f
    let h := f.header
    let cls := f.kind.toNat / 4
    let vc := f.kind.toNat / 2 % 2
    let shut (cls vc : Nat) : List RxCtx := st.rx.filter fun r => !(r.cls == cls && r.vc == vc)
    ((st.up = false ∨ f.kind = 12) → exec i s = .next s)
    ∧ (st.up = true → 12 < f.kind.toNat → exec i s = .next (s.updStation port fun t => { t with malformed := sat32 (t.malformed + 1) }))
    ∧ (st.up = true → f.kind.toNat < 12 → f.kind.toNat % 2 = 1 →
        (h.malformed = true → exec i s = .next (s.updStation port fun t => { t with
            rx := shut h.cls h.vc, malformed := sat32 (t.malformed + 1) }))
        ∧ (h.malformed = false → h.opcode = 0 → exec i s = .next (s.updStation port fun t => { t with rx := shut h.cls h.vc }))
        ∧ (∀ j, h.malformed = false → packetEvent h.opcode port { hdr := h, payload := [] } = some j → exec i s = exec j s))
    ∧ (st.up = true → f.kind.toNat < 12 → f.kind.toNat % 2 = 0 →
        ((∀ r ∈ st.rx, r.cls ≠ cls ∨ r.vc ≠ vc) →
          exec i s = .next (s.updStation port fun t => { t with malformed := sat32 (t.malformed + 1) }))
        ∧ (∀ r, (st.rx.find? fun r => r.cls == cls && r.vc == vc) = some r →
            let p : Packet := { r.pkt with payload := r.pkt.payload ++ leBytes 64 f.bytes.toNat }
            (r.got + 1 < r.pkt.hdr.len → exec i s = .next (s.updStation port fun t => { t with
                rx := st.rx.map fun x => if x.cls = cls ∧ x.vc = vc then { x with pkt := p, got := r.got + 1 } else x }))
            ∧ (r.pkt.hdr.len ≤ r.got + 1 → exec i s = .next ((s.updStation port fun t => { t with rx := shut cls vc }).accept p))))

/-- R152, R153: an ACK frees the packets up to its SEQ that have no response of their own, and no other; CLOSE frees the destination end
of its incarnation and is answered; CLOSEACK frees a closing source end, whose incarnation advances. -/
def Sys2Proof.Spec.AcknowledgementsFreePackets : Prop :=
  (∀ (s : State) (h : Header) (c : TClass) (e : SrcEnd), clsOf h.ref = some c → s.srcEnd? h.dst h.src c = some e → h.opcode = 6 →
      let p : Packet := { hdr := h, payload := [] }
      (e.inc ≠ h.inc → s.accept p = s)
      ∧ (e.inc = h.inc → h.status = 0 → (∀ r ∈ e.retry, ∀ q n, r.owner ≠ .entry q n) →
          let gone (r : Retry) : Bool := [1, 9, 10, 11].contains r.pkt.hdr.opcode && (h.seq + 65536 - r.seq) % 65536 < 32768
          ∃ e', (s.accept p).srcEnd? h.dst h.src c = some e' ∧ e'.retry = (e.retry.filter fun r => !gone r)
            ∧ e' = { e with retry := e'.retry, idle := e'.idle } ∧ (s.accept p).mem = s.mem ∧ (s.accept p).threads = s.threads))
  ∧ (∀ (s : State) (h : Header), h.opcode = 7 → s.inside h.dst = true →
      s.accept { hdr := h, payload := [] } = ({ s with fab := { s.fab with dst := s.fab.dst.filter fun e =>
        !(e.src == h.src && e.dst == h.dst && some e.cls == clsOf h.ref && e.inc == h.inc) } }).answer h 0 8 h.seq 0 [])
  ∧ (∀ (s : State) (h : Header) (c : TClass) (e : SrcEnd), clsOf h.ref = some c → s.srcEnd? h.dst h.src c = some e → h.opcode = 8 →
      SMap.wf 0 s.fab.srcInc = true →
      let t := s.accept { hdr := h, payload := [] }
      ((e.inc ≠ h.inc ∨ e.closing = none) → t = s)
      ∧ (e.inc = h.inc → e.closing ≠ none → t.srcEnd? h.dst h.src c = none ∧ t.mem = s.mem
          ∧ SMap.getD t.fab.srcInc (incKey e.src e.dst e.cls) 0 = (SMap.getD s.fab.srcInc (incKey e.src e.dst e.cls) 0 + 1) % 16))

/-- R153, R163: a response is consumed once, with the request of its sequence number; each lane's register takes its bytes of a read, or
an atomic's old word, and the destination waits for the lanes that are left. -/
def Sys2Proof.Spec.ResponsesLandInLanes : Prop :=
  (∀ (s : State) (p : Packet) (e : SrcEnd), p.hdr.opcode = 3 → s.srcEnd? p.hdr.dst p.hdr.src .express = some e →
      ((e.inc ≠ p.hdr.inc ∨ ∀ r ∈ e.retry, r.seq = p.hdr.seq → r.pkt.hdr.opcode ≠ 2) → s.accept p = s)
      ∧ (∀ r t u m pc l, e.inc = p.hdr.inc → (e.retry.find? fun r => r.seq == p.hdr.seq && r.pkt.hdr.opcode == 2) = some r →
          r.owner = .lanes t u m pc l → p.hdr.status = 0 → r.acc ≠ 0 →
          s.accept p = (s.freeRetry e fun q => q.seq == r.seq).landRemote t u r.acc r.parts p.payload))
  ∧ (∀ (s : State) (p : Packet) (e : SrcEnd), p.hdr.opcode = 5 → s.srcEnd? p.hdr.dst p.hdr.src .urgent = some e →
      ∀ r t u m pc l, e.inc = p.hdr.inc → (e.retry.find? fun r => r.seq == p.hdr.seq && r.pkt.hdr.opcode == 4) = some r →
        r.owner = .lanes t u m pc l → p.hdr.status = 0 → r.acc ≠ 0 →
        s.accept p = (s.freeRetry e fun q => q.seq == r.seq).landRemote t u r.acc r.parts (leBytes 4 (p.hdr.opf.extractLsb' 0 32).toNat))
  ∧ (∀ (s : State) (t u acc : Nat) (parts : List (Nat × Nat)) (bytes : List Byte) (x : Thread) (r : RemDst) (a l o : Nat),
      s.thread? t = some x → x.uid = u → (x.rem.find? fun r => r.acc == acc) = some r → r.abs = [a] → r.hold = false →
      SMap.wf 0 x.v = true → l < 32 → (parts.find? fun p => p.1 == l) = some (l, o) →
      ∃ y, (s.landRemote t u acc parts bytes).thread? t = some y
        ∧ y.vreg a l = extendWord r.width (leNat ((bytes.drop o).take r.width.bytes)) 0
        ∧ (∀ j, j < 32 → (∀ p ∈ parts, p.1 ≠ j) → y.vreg a j = x.vreg a j) ∧ (∀ b j, j < 32 → b ≠ a → y.vreg b j = x.vreg b j))

/-- R164, R129: a write, read or atomic of a remote endpoint, performed at the home: refused with STATUS 1 and no effect outside a page that
allows it; else, with its lines there, the bytes are written or read, or the word is replaced by the operation's result; poison that is
read answers STATUS 2 and marks its page's entry (R354), and nothing else is written. -/
def Sys2Proof.Spec.RemoteAccessesArePerformed : Prop :=
  ∀ (s : State) (p : Packet), s.memoryOk → s.monitors = [] → s.hbmErrs = [] → p.hdr.chunk = false → p.hdr.opcode ∈ [1, 2, 4] →
    let h := p.hdr
    let n := if h.opcode = 4 then 4 else h.nbytes
    let allowed (v : Nat) : Prop := ∃ g, s.page? h.space v = some g ∧ g.lease = true ∧ g.allows (if h.opcode = 2 then .load else .store) = true
    let ok : Prop := h.space ≠ 0 ∧ n ≠ 0 ∧ h.va + n ≤ 2 ^ 48 ∧ allowed h.va ∧ allowed (h.va + n - 1)
    (¬ ok → ∃ data, s.perform p = .done s 1 0 data)
    ∧ (∀ pa t, ok → s.frozenAt p = false → s.pa? h.space h.va = some pa → pa % 128 + n ≤ 128 → n ≤ p.payload.length ∨ h.opcode ≠ 1 →
        s.homeAccess (flowAgent h.dst h.src h.cls 0) [(lineOf pa, h.opcode != 2)] = (t, true) →
        (h.opcode = 1 → ∃ u, s.perform p = .done u 0 0 []
            ∧ (∀ i, i < n → Memory.read u.mem (pa + i) = p.payload.getD i 0)
            ∧ ∀ b, (b < pa ∨ pa + n ≤ b) → Memory.read u.mem b = Memory.read s.mem b)
        ∧ (h.opcode = 2 → s.poisoned pa n = false → ∃ u, s.perform p = .done u 0 0 (Memory.bytes s.mem pa n) ∧ u.mem = s.mem)
        ∧ (h.opcode = 2 → s.poisoned pa n = true → ∃ u, s.perform p = .done u 2 0 (List.replicate n 0)
            ∧ u.mem = (s.markPois h.space h.va).mem)
        ∧ (h.opcode = 4 → s.poisoned pa n = false →
            let old := Memory.le s.mem pa 4
            let new := atomicWord (atomOp (h.field 0 1) (h.field 1 1)) (BitVec.ofNat 32 old) (BitVec.ofNat 32 (h.field 4 4))
              (BitVec.ofNat 32 (h.field 8 4))
            ∃ u, s.perform p = .done u 0 old [] ∧ Memory.le u.mem pa 4 = new.toNat
              ∧ ∀ b, (b < pa ∨ pa + 4 ≤ b) → Memory.read u.mem b = Memory.read s.mem b)
        ∧ (h.opcode = 4 → s.poisoned pa n = true → ∃ u, s.perform p = .done u 2 0 []
            ∧ u.mem = (s.markPois h.space h.va).mem))

/-- R169, R173, R177, R178: COLTRIG increments a counter; EXPRED combines block codes into the chunk buffer and REDDATA adds integers to
it, modulo 2^64; outside the space's allocation they are refused. -/
def Sys2Proof.Spec.CollectivePacketsArePerformed : Prop :=
  ∀ (s : State) (p : Packet),
    let h := p.hdr
    let n := h.nblk
    (h.opcode = 9 → s.perform p = .done (s.addCounter (h.field 0 2) (h.field 2 1) (h.field 4 4)) 0 0 [])
    ∧ (h.opcode = 10 → s.chunkAt h.space h.va (2 * n) = none → s.perform p = .done s 1 0 [])
    ∧ (h.opcode = 11 → s.chunkAt h.space h.va (256 * n) = none → s.perform p = .done s 1 0 [])
    ∧ (∀ a, SMap.wf 0 s.fab.chunk = true → h.opcode = 10 → s.chunkAt h.space h.va (2 * n) = some a → 2 * n ≤ p.payload.length →
        ∃ t, s.perform p = .done t 0 0 [] ∧ t.mem = s.mem
          ∧ (∀ i, i < n → t.chunkGet (a + 2 * i) 2 = combineCode (s.chunkGet (a + 2 * i) 2) (leNat ((p.payload.drop (2 * i)).take 2)))
          ∧ ∀ b, (b < a ∨ a + 2 * n ≤ b) → SMap.getD t.fab.chunk b 0 = SMap.getD s.fab.chunk b 0)
    ∧ (∀ a, SMap.wf 0 s.fab.chunk = true → h.opcode = 11 → s.chunkAt h.space h.va (256 * n) = some a → 192 * n ≤ p.payload.length →
        ∃ t, s.perform p = .done t 0 0 [] ∧ t.mem = s.mem
          ∧ (∀ i, i < 32 * n → (t.chunkGet (a + 8 * i) 8 : Int)
              = ((s.chunkGet (a + 8 * i) 8 : Int) + signExt 48 (leNat ((p.payload.drop (6 * i)).take 6))) % 2 ^ 64)
          ∧ ∀ b, (b < a ∨ a + 256 * n ≤ b) → SMap.getD t.fab.chunk b 0 = SMap.getD s.fab.chunk b 0)

/-- R129, R164, R173, R177, R178: what a sequenced packet performs. Choices of the model it rests on: log 45. -/
def Obligations.AccessesArePerformed : Prop := Spec.RemoteAccessesArePerformed ∧ Spec.CollectivePacketsArePerformed

/-- R152, R153: a sequenced packet at the end of its flow and incarnation. The next in order is performed, delivered and answered: a
write acknowledged, or reported when refused, a read or an atomic with its response. A later one within 512 waits for those before it. One
delivered already is not performed again: an atomic's kept result, a refused write's report or an ACK answers it. -/
def Sys2Proof.Spec.SequencedPacketsAreDeliveredInOrder : Prop :=
  ∀ (s : State) (p : Packet) (c : TClass) (e : DstEnd),
    let h := p.hdr
    clsOf h.cls = some c → s.inside h.dst = true → s.dstEnd? h.dst h.src c = some e → [1, 2, 4, 9, 10, 11].contains h.opcode = true →
    e.cum < 65536 → h.seq < 65536 →
    (e.inc ≠ h.inc → (h.new = false ∨ h.seq ≠ 0) → s.accept p = s)
    ∧ (e.inc = h.inc → e.accepted = [] → e.again = [] → h.seq = (e.cum + 1) % 65536 →
        let q := s.setDst { e with accepted := [p] }
        ∀ u st old data, q.perform p = .done u st old data → u.fab.dst = q.fab.dst →
          ∃ e', deliveredEnd e h.seq (if h.opcode = 4 then some (BitVec.ofNat 32 old, st) else none) (h.opcode != 4 && h.opcode != 2 && st != 0) e'
            ∧ (h.opcode = 4 → s.accept p = (u.setDst e').answerAtom h old st)
            ∧ (h.opcode = 2 → s.accept p = (u.setDst e').answerRead h st data)
            ∧ (h.opcode ≠ 4 → h.opcode ≠ 2 → st = 0 → s.accept p = (u.setDst e').answerAck h h.seq)
            ∧ (h.opcode ≠ 4 → h.opcode ≠ 2 → st ≠ 0 → s.accept p = ((u.setDst e').answerRefusal h h.seq h.seq).answerAck h h.seq))
    ∧ (e.inc = h.inc → e.accepted = [] → e.again = [] → h.seq ≠ (e.cum + 1) % 65536 → (h.seq + 65535 - e.cum) % 65536 < 512 →
        s.accept p = s.setDst { e with accepted := [p] })
    ∧ (e.inc = h.inc → 512 ≤ (h.seq + 65535 - e.cum) % 65536 → s.fab.frozen = [] →
        (h.opcode = 4 → s.accept p = match e.results.find? fun r => r.1 == h.seq with
          | some r => s.answerAtom h r.2.1.toNat r.2.2
          | none => s.answerAck h e.cum)
        ∧ (h.opcode ≠ 4 → h.opcode ≠ 2 → h.seq ∉ e.refused → s.accept p = s.answerAck h e.cum)
        ∧ (h.opcode ≠ 4 → h.opcode ≠ 2 → h.seq ∈ e.refused → s.accept p = s.answerRefusal h e.cum h.seq))

/-- R145, R148, R149, R152, R153: what arrives at a port, and what an accepted packet does at the end of its flow. Choices of the model it
rests on: log 49, 54. -/
def Obligations.PacketsArriveAndAreTaken : Prop := Spec.PortsAcceptWholePackets ∧ Spec.FlitsContinuePackets ∧ Spec.AcknowledgementsFreePackets ∧ Spec.ResponsesLandInLanes ∧ Spec.SequencedPacketsAreDeliveredInOrder

/-- R154, R155: a source end changes to the next valid slot of its route whose station is up, and sends its unacknowledged packets
again there in sequence order (on a slot without the native transport the standard transport carries them: the model's choice, log 50);
with no such slot it fails, and its destination is refused. Inside the package there is no route, and the packets are sent again. -/
def Sys2Proof.Spec.FlowsChangeRoute : Prop :=
  ∀ (s : State) (e : SrcEnd),
    let entry := s.route e.src e.dst
    let up (k : Nat) : Bool := match slotOf entry k with
      | some x => (s.station x.stn).up
      | none => false
    let count (s : State) : State := match slotOf e.entry e.path with
      | some x => s.updStation x.stn fun t => { t with replay := sat32 (t.replay + 1) }
      | none => s
    (s.inside e.dst = true → s.changeRoute e = s.replay e)
    ∧ (s.inside e.dst = false →
        (∀ j x, e.path < j → j < 4 → slotOf entry j = some x → up j = true → (∀ k, e.path < k → k < j → up k = false) →
          s.changeRoute e = if x.nat then (count s).replay { e with entry := entry, path := j }
            else (count s).leaveNative { e with entry := entry } x.stn)
        ∧ ((∀ k, e.path < k → k < 4 → up k = false) → s.changeRoute e = (count s).flowFail { e with entry := entry }))

/-- R152, R154, R352, R370: the timers of source ends, a packet's lifetime at a port, links that go down and that come back. -/
def Sys2Proof.Spec.LinksAndTimers : Prop :=
  (∀ (s : State) (src dst : Nat) (c : TClass) (e : SrcEnd), s.srcEnd? src dst c = some e →
      ((∃ r, e.retry.head? = some r ∧ r.due ≤ s.cycle) →
        exec (.acknowledgementTimeoutExpiry src dst c) s = .next (s.changeRoute e))
      ∧ ((∀ r, e.retry.head? = some r → s.cycle < r.due) → exec (.acknowledgementTimeoutExpiry src dst c) s = .next s)
      ∧ (e.closing = none → e.retry = [] → e.idle + 100 * usCycles ≤ s.cycle → exec (.flowIdleClose src dst c) s = .next (s.sendClose e))
      ∧ ((e.closing ≠ none ∨ e.retry ≠ [] ∨ s.cycle < e.idle + 100 * usCycles) → exec (.flowIdleClose src dst c) s = .next s)
      ∧ (∀ t, e.closing = some t → t + 20 * usCycles ≤ s.cycle → exec (.closeResend src dst c) s = .next (s.sendClose e))
      ∧ ((∀ t, e.closing = some t → s.cycle < t + 20 * usCycles) → exec (.closeResend src dst c) s = .next s))
  ∧ (∀ (s : State) (n k : Nat) (x : TxPkt),
      let st := s.station n
      (k < st.waiting.length → st.waiting[k]? = some x → exec (.packetLifetimeExpiry n k) s = .next
        (if x.since + 5 * usCycles ≤ s.cycle then s.updStation n fun t => { t with waiting := t.waiting.eraseIdx k } else s))
      ∧ (st.open'[k]? = some x → exec (.packetLifetimeExpiry n (st.waiting.length + k)) s = .next
        (if x.since + 5 * usCycles ≤ s.cycle then s.updStation n fun t => { t with open' := t.open'.eraseIdx k } else s)))
  ∧ (∀ (s : State) (n k : Nat) (x : RxCtx),
      let st := s.station n
      st.rx[k]? = some x → exec (.packetLifetimeExpiry n (st.waiting.length + st.open'.length + k)) s = .next
        (if x.since + 5 * usCycles ≤ s.cycle then s.updStation n fun t => { t with rx := t.rx.eraseIdx k } else s))
  ∧ (∀ (s : State) (n : Nat), n < s.fab.stations.length →
      let st := s.station n
      let downs := s.cycle :: st.downs.filter fun d => s.cycle < d + 60000000 * usCycles
      let t := s.updStation n fun x => { x with up := false, linkdown := sat32 (x.linkdown + 1), rx := [], open' := [], waiting := [],
                                                urgentRun := 0, expressRun := 0, downs := downs, heldDown := x.heldDown || 4 ≤ downs.length }
      let mine := s.fab.src.filter fun e => !s.inside e.dst && (match slotOf e.entry e.path with
        | some x => x.stn == n
        | none => false)
      (st.up = false → exec (.linkDown n) s = .next s)
      ∧ (st.up = true → mine = [] → (∀ a ∈ s.fab.std, a.station ≠ n) → exec (.linkDown n) s = .next t)
      ∧ (∀ e, st.up = true → mine = [e] → (∀ a ∈ (t.changeRoute e).fab.std, a.station ≠ n) → t.srcEnd? e.src e.dst e.cls = some e →
          exec (.linkDown n) s = .next (t.changeRoute e))
      ∧ (exec (.linkRetraining (n + 3)) s = .next (if st.up ∨ st.heldDown then s
          else s.updStation n fun x => { x with up := true, retrain := sat32 (x.retrain + 1) })))
  ∧ (∀ (s : State) (k : Nat), k < 3 → exec (.linkRetraining k) s = .next s)

/-- R146, R147: at a flit position a station that is up sends one flit: of the oldest suspended packet where a run limit is reached and
the class to send next is higher, else of the highest class with a flit ready, whose next packet, in the round-robin order of keys, starts
where none of the class is open. -/
def Sys2Proof.Spec.FlitPositions : Prop :=
  (∀ (s : State) (n : Nat), exec (.flitPosition n) s = .next (if (s.station n).up then s.updStation n Station.position else s))
  ∧ (∀ (t : Station) (c : Nat), c < 3 →
      let ready (k : Nat) : Prop := (∃ x ∈ t.open', x.pkt.hdr.cls = k) ∨ ∃ x ∈ t.waiting, x.pkt.hdr.cls = k
      let limit : Prop := max 1 t.urun ≤ t.urgentRun ∨ max 1 t.erun ≤ t.expressRun
      let opened (k : Nat) : Prop := ∃ x ∈ t.open', x.pkt.hdr.cls = k
      ((∀ k, k < 3 → ¬ ready k) → t.position = t)
      ∧ (ready c → (∀ k, k < c → ¬ ready k) →
          (∀ o, limit → c < o → o < 3 → opened o → (∀ k, o < k → k < 3 → ¬ opened k) → t.position = t.flit o)
          ∧ ((¬ limit ∨ ∀ o, c < o → o < 3 → ¬ opened o) → opened c → t.position = t.flit c)
          ∧ ((¬ limit ∨ ∀ o, c < o → o < 3 → ¬ opened o) → ¬ opened c →
              ∃ x ∈ t.waiting, x.pkt.hdr.cls = c ∧ t.position = (t.start c x).flit c
                ∧ ∀ y ∈ t.waiting, y.pkt.hdr.cls = c → let last := t.lastKey.getD c 0
                  (last < x.key → y.key ≤ last ∨ x.key ≤ y.key) ∧ (x.key ≤ last → x.key ≤ y.key ∧ y.key ≤ last))))

/-- R142: the standard transport. A request that arrives with none before it is performed at the home as R164 gives, once its lines are
there; the end of one of this package's accesses lands its bytes, or ends its work: with FABRIC where its link or a switch has failed
(the number 3 by which the interface says so is the model's). -/
def Sys2Proof.Spec.TheStandardTransport : Prop :=
  ∀ (s : State) (m : StdMsg), s.fab.stdIn = [] →
    let req : Option Packet := match m with
      | .read src space va n _ => some (stdPacket 2 src space va (opfOf n) [])
      | .write src space va bs _ => some (stdPacket 1 src space va (opfOf bs.length) bs)
      | .atom src space va op a b _ =>
        some (stdPacket 4 src space va (opfOf ((aopOf op).1 + (aopOf op).2 * 256 + a.toNat * 2 ^ 32 + b.toNat * 2 ^ 64)) [])
      | _ => none
    let posted (p : Packet) : State := { s with fab := { s.fab with stdIn := [p] } }
    (∀ p u st old data, req = some p → (posted p).frozenAt p = false → (posted p).performMem stdAgent p = .done u st old data →
        exec (.standardTransport m) s = .next { u with fab := { u.fab with stdIn := [] } })
    ∧ (∀ p, req = some p → (posted p).frozenAt p = true →
        s.refusedAt p.hdr.space p.hdr.va (packetBytes p) (if p.hdr.opcode = 2 then .load else .store) = false →
        exec (.standardTransport m) s = .next (posted p))
    ∧ (m = .again → exec (.standardTransport m) s = .next s)
    ∧ (∀ tag status bs a, m = .done tag status bs → (s.fab.std.find? fun a => a.tag == tag) = some a →
        let t : State := { s with fab := { s.fab with std := s.fab.std.filter fun x => x.tag != tag } }
        (status ≠ 0 → status ≠ 3 → exec (.standardTransport m) s = .next (t.failStatus status a.dst a.va a.owner))
        ∧ (∀ k u m' pc l, status = 3 → a.owner = .lanes k u m' pc l → exec (.standardTransport m) s = .next (t.failOwner k u l
            { t.placeRec codeFABRIC k l pc with info := a.dst, aux0 := a.cls }))
        ∧ (∀ k u m' pc l, status = 0 → a.owner = .lanes k u m' pc l → a.acc ≠ 0 →
            exec (.standardTransport m) s = .next (t.landRemote k u a.acc a.parts bs)))
    ∧ (∀ tag status bs, m = .done tag status bs → (∀ a ∈ s.fab.std, a.tag ≠ tag) → exec (.standardTransport m) s = .next s)

/-- R142, R146, R147, R152, R154, R155, R352, R370: stations and source ends. Choices of the model it rests on: log 50, 55, 71, 91. -/
def Obligations.RoutesLinksAndTimers : Prop := Spec.FlowsChangeRoute ∧ Spec.LinksAndTimers ∧ Spec.FlitPositions ∧ Spec.TheStandardTransport

/-! ## Translation, the Resident and the module (chapters 12 and 18 to 22) -/

namespace Sys2Proof.Spec

/-- The request that a message of the controller carries; SYNC is outside the numbering (R320). -/
def reqOf : Instr → Option Req
  | .load r .. | .unload r .. | .post r .. | .cancel r .. => some r
  | .drain r .. | .undrain r .. | .resume r .. | .done r .. => some r
  | .routeTableEntry r .. | .stationArbitrationRegister r .. | .stationReEnable r .. | .acknowledgementTimeout r .. => some r
  | .rollbackRetries r .. | .undoLogSize r .. | .scrubInterval r .. | .pagerTimeout r .. => some r
  | .defaultDrainInterval r .. | .capabilityTableSize r .. | .antiRollbackFloorRaise r .. => some r
  | _ => none

/-- The Resident runs (R365, R368). -/
abbrev Alive (s : State) : Prop := s.mod.power ≠ .off ∧ s.mod.bootFail = none

/-- The Resident hears the controller: it runs, and its port is up (R319, R365). -/
def Hears (s : State) : Prop := Alive s ∧ ∃ p, s.mod.ports[s.mod.port]? = some p ∧ p.up = true

/-- The acceptance of a request: its ACK discards stored messages, and it is the last accepted (R321). -/
def accepted (s : State) (r : Req) : State := (s.takeAckNo r.ack).updRes fun x => { x with lastSeq := r.seq }

/-- A request is performed in `t`: the next in order, accepted in RUN under the current epoch with its reserved bytes zero (R321, R368), or one
that was accepted before and has waited for a line that it reads. -/
def Accepts (s : State) (r : Req) (t : State) : Prop :=
  if s.res.again then t = { s with res := { s.res with again := false, calls := dropCall (131072 + r.seq) s.res.calls,
                                                        opens := s.res.opens.filter fun o => !(o.seq == r.seq && o.kind == 2) } }
  else Hears s ∧ s.mod.power = .run ∧ r.epoch = s.res.epoch ∧ r.seq = s.res.lastSeq + 1 ∧ r.bad = false ∧ t = accepted s r

/-- The RESP of a request (R320). -/
def resp (s : State) (r : Req) (status : Nat) (body : List Nat) : State := s.tell opRESP r.seq status body

/-- The lines that a request kept for what it read are free again. -/
def letGo (s : State) (r : Req) : State := s.unreserveAll (reqAgent r.seq)

/-- A request is answered at once: in `t`, with a status and a body. -/
def Answers (s : State) (i : Instr) (r : Req) (t : State) (status : Nat) (body : List Nat) : Prop :=
  exec i s = .next (resp (letGo t r) r status body)

/-- A request waits, in `t`, for what it lacks to read: a line to be recalled, or a page to have moved (R129, R346). -/
def Pends (s : State) (i : Instr) (r : Req) (t : State) (l : Lack) : Prop :=
  let u := t.readAsk (reqAgent r.seq) l
  exec i s = .next { u with res := { u.res with calls := u.res.calls ++ [i], opens := u.res.opens ++ [{ seq := r.seq, kind := 2, arg := 0 }] } }

/-- A call is performed now, in `t`: as a new one with none of its space waiting, or as the first of its space's that waits, tried again
(R348); `mark` is what its earlier attempts have left, if there was one. -/
def Runs (s : State) (i : Instr) (mark : Option Nat) (t : State) : Prop :=
  s.mod.power = .run ∧ 1 ≤ callSpace i ∧ callSpace i ≤ 65535 ∧ mark = SMap.find? s.res.begun (callSpace i)
  ∧ if s.res.again then t = { s with res := { s.res with again := false, calls := dropCall (callSpace i) s.res.calls } }
    else (∀ j ∈ s.res.calls, callSpace j ≠ callSpace i) ∧ t = s

/-- A call ends in `t` with a status and a value (R348); what it kept is free. -/
def Returns (s : State) (i : Instr) (t : State) (status value : Nat) : Prop :=
  let u := t.unreserveAll (callAgent (callSpace i))
  exec i s = .next { u with res := { u.res with callStatus := status, callValue := value, begun := SMap.del u.res.begun (callSpace i) } }

/-- What is left of a call waits to be tried again, with a mark. -/
def Waits (s : State) (i : Instr) (t : State) (rest : Instr) (mark : Nat) : Prop :=
  exec i s = .next { t with res := { t.res with calls := rest :: t.res.calls, begun := SMap.put t.res.begun (callSpace i) mark } }

/-- The system calls (R348). -/
def isCall : Instr → Bool
  | .map .. | .unmap .. | .protect .. | .setmode .. | .migrate .. | .regpager .. | .supply .. | .capset .. | .caprevoke .. | .capallow ..
  | .pin .. | .unpin .. | .qpalloc _ | .qpreset .. | .qpfree .. | .chunkset .. | .mapexec .. => true
  | _ => false

/-- Whole 64 KiB pages below 2^48, at least one (R348). -/
abbrev Pages (va size : Nat) : Prop := va % 65536 = 0 ∧ size % 65536 = 0 ∧ 0 < size ∧ va + size ≤ 2 ^ 48

/-- The pages of a range. -/
def pages (va size : Nat) : List Nat := (List.range (size / 65536)).map fun k => va / 65536 + k

/-- Every page of a range has an entry. -/
abbrev Mapped (s : State) (space va size : Nat) : Prop := ∀ p ∈ pages va size, s.pte? space (p * 65536) ≠ none

/-- A node of a job that is ready and has not taken its final STATE. -/
def Running (s : State) (job node : Nat) (jb : Job) (x : Node) : Prop :=
  s.job? job = some jb ∧ s.node? job node = some x ∧ x.ready = true ∧ (jb.unit (jb.nodeUnit node)).state.final = false

end Sys2Proof.Spec

/-- R340, R341, R344: the walk of a virtual address, three levels of 8-byte entries from the space's root: a clear P is absent; a set LEAF
maps 1 GiB, 2 MiB or 64 KiB, an entry of the last level being a leaf; else the entry names the next table. Reserved bits, MIG 3 and an
ADDR that is not aligned to its page are malformed. An access is denied without its permission bit. Choices of the model it rests on:
log 18. -/
def Obligations.PagesTranslate : Prop :=
  ∀ (s : State) (space va r : Nat), (s.space space).root = some r →
    let at' (t k : Nat) : Nat := Memory.le s.mem (t + 8 * k) 8
    let leaf (a e size : Nat) (w : Walk) : Prop :=
      if 2 ^ 52 ≤ e ∨ e / 256 % 4 = 3 ∨ e / 4096 * 4096 % size ≠ 0 then w = .malformed
      else ∃ p, w = .page p ∧ p.entry = a ∧ p.base = e / 4096 * 4096 ∧ p.size = size ∧ p.lease = e.testBit 2 ∧ p.r = e.testBit 3
        ∧ p.w = e.testBit 4 ∧ p.x = e.testBit 5 ∧ p.hw = e.testBit 6 ∧ p.home = e / 128 % 2 ∧ p.mig = e / 256 % 4 ∧ p.tr = e.testBit 10
    let table (e : Nat) : Prop := e % 4096 = 1 ∧ e < 2 ^ 52
    let k0 := va / 2 ^ 30 % 2 ^ 18
    let k1 := va / 2 ^ 21 % 512
    let k2 := va / 2 ^ 16 % 32
    let e0 := at' r k0
    let e1 := at' (e0 - 1) k1
    let e2 := at' (e1 - 1) k2
    let w := s.walk space va
    (e0 % 2 = 0 → w = .absent) ∧ (e0 % 4 = 3 → leaf (r + 8 * k0) e0 (2 ^ 30) w) ∧ (e0 % 4 = 1 → ¬ table e0 → w = .malformed)
    ∧ (table e0 → (e1 % 2 = 0 → w = .absent) ∧ (e1 % 4 = 3 → leaf (e0 - 1 + 8 * k1) e1 (2 ^ 21) w)
        ∧ (e1 % 4 = 1 → ¬ table e1 → w = .malformed)
        ∧ (table e1 → (e2 % 2 = 0 → w = .absent) ∧ (e2 % 4 = 3 → leaf (e1 - 1 + 8 * k2) e2 (2 ^ 16) w) ∧ (e2 % 4 = 1 → w = .malformed)))
    ∧ (∀ a : Acc, va < 2 ^ 48 →
        (w = .absent → s.denied space va a = some 1) ∧ (w = .malformed → s.denied space va a = some 2)
        ∧ (∀ p, w = .page p → s.pa? space va = some (p.base + va % p.size)
            ∧ s.denied space va a = if (match a with
                | .load => p.r
                | .store => p.w
                | .fetch => p.x) = true then none else some 0))
    ∧ (∀ a : Acc, 2 ^ 48 ≤ va → s.denied space va a = some 3)

/-! ### Requests -/

/-- R321, R368: numbered requests. While the module is off, has not booted or has its port down nothing answers; another epoch is
answered EPOCH; one that lies ahead, or comes before RUN, is discarded; a duplicate is not performed again: it is answered as before, or
with LOST; and reserved bytes make a request malformed. -/
def Sys2Proof.Spec.RequestsAreNumbered : Prop :=
  ∀ (s : State) (i : Instr) (r : Req), reqOf i = some r → s.res.again = false →
    let t := s.takeAckNo r.ack
    let kept := max s.res.acked (min r.ack (s.res.nextSeq - 1))
    let own (m : DMsg) : Prop := m.op = opRESP ∧ m.ref = r.seq ∧ m.status ≠ 9
    (¬ Hears s → exec i s = .next s)
    ∧ (Hears s → r.epoch ≠ s.res.epoch → exec i s = .next (resp s r 9 []))
    ∧ (Hears s → r.epoch = s.res.epoch → (s.mod.power ≠ .run ∨ s.res.lastSeq + 1 < r.seq) → exec i s = .next s)
    ∧ (Hears s → r.epoch = s.res.epoch → s.mod.power = .run → r.seq ≤ s.res.lastSeq →
        ((∃ o ∈ t.res.opens, o.seq = r.seq) → exec i s = .next t)
        ∧ ((∀ o ∈ t.res.opens, o.seq ≠ r.seq) →
            (∀ a m b, t.res.store = a ++ m :: b → own m → (∀ x ∈ a, ¬ own x) → exec i s = .next { t with res := { t.res with reply := [m] } })
            ∧ ((∀ m ∈ t.res.store, ¬ own m) → exec i s = .next (resp t r 8 []))))
    ∧ (Hears s → r.epoch = s.res.epoch → s.mod.power = .run → r.seq = s.res.lastSeq + 1 → r.bad = true →
        exec i s = .next (resp (accepted s r) r 6 []))
    ∧ t.res.acked = kept ∧ t.res.store = s.res.store.filter fun m => kept < m.seq

/-- R322, R368: SYNC is answered with the epoch and the last request accepted, and with LOST where messages above its ACK are gone; then
with every stored message above its ACK, which discards the others where the epochs agree; the first SYNC answered brings the module into
RUN. -/
def Sys2Proof.Spec.SyncReplaysMessages : Prop :=
  ∀ (s : State) (r : Req),
    (¬ Hears s → exec (.sync r) s = .next s)
    ∧ (Hears s → ∃ t m rest, exec (.sync r) s = .next t ∧ t.mod.power = .run ∧ t.mem = s.mem ∧ t.threads = s.threads
        ∧ t.res.reply = m :: rest ∧ m.op = opSYNCACK ∧ m.seq = 0 ∧ m.epoch = s.res.epoch ∧ m.ack = s.res.lastSeq ∧ m.body = []
        ∧ (let ack := if r.epoch = s.res.epoch then r.ack else 0
           let oldest := (rest.map fun m => m.seq).headD s.res.nextSeq
           m.status = (if ack + 1 < oldest then 8 else 0) ∧ (ack + 1 < oldest → m.ref = oldest))
        ∧ (r.epoch = s.res.epoch → t.res.store = (s.res.store.filter fun m => max s.res.acked (min r.ack (s.res.nextSeq - 1)) < m.seq)
            ∧ rest = t.res.store.filter fun m => r.ack < m.seq)
        ∧ (r.epoch ≠ s.res.epoch → t.res.store = s.res.store ∧ rest = s.res.store.filter fun m => 0 < m.seq))

/-- R305, R306, R320: LOAD, UNLOAD and the translator. An object that cannot be read, or is refused by the loader, answers with the load's
status; kernels placed are answered with their handles; a portable form is lowered by a translator, whose end, or whose quota, answers the
load. An unload is answered when the launches of its object have ended. -/
def Sys2Proof.Spec.LoadsAndUnloads : Prop :=
  (∀ (s t : State) (r : Req) (space va size : Nat), Accepts s r t →
    let i : Instr := .load r space va size
    let read := t.readSpace (reqAgent r.seq) space va size
    ((space = 0 ∨ 65535 < space) → Answers s i r t 6 [])
    ∧ (1 ≤ space → space ≤ 65535 →
        (read = .error .denied → Answers s i r t 1 [])
        ∧ (∀ l, read = .error l → l ≠ .denied → Pends s i r t l)
        ∧ (∀ b st, read = .ok b → t.loadObj space b = .ends st → Answers s i r t st [])
        ∧ (∀ b u hs, read = .ok b → t.loadObj space b = .done u hs → Answers s i r u 0 hs)
        ∧ (∀ b st a, read = .ok b → t.loadObj space b = .relower st a →
            let kept := acierKept a && Config.acierAccepted a
            (kept = false → Answers s i r t 1 [])
            ∧ (kept = true → exec i s = .next (letGo { t with res := { t.res with
                nextToken := t.res.nextToken + 1
                translators := t.res.translators ++ [{ token := t.res.nextToken, space := space }]
                opens := t.res.opens ++ [{ seq := r.seq, kind := 1, arg := t.res.nextToken }] } } r)))))
  ∧ (∀ (s t : State) (r : Req) (k : Nat), Accepts s r t →
    ((t.kernel? k = none ∨ ∃ x, t.kernel? k = some x ∧ x.unloading = true) → Answers s (.unload r k) r t 7 [])
    ∧ (∀ x, t.kernel? k = some x → x.unloading = false → exec (.unload r k) s = .next (letGo (State.unloadSettle { t with res := { t.res with
        kernels := SMap.put t.res.kernels k { x with unloading := true }
        opens := t.res.opens ++ [{ seq := r.seq, kind := 0, arg := k }] } }) r)))
  ∧ (∀ (s : State) (token seq : Nat), (s.res.opens.filter fun o => o.kind == 1 && o.arg == token) = [{ seq := seq, kind := 1, arg := token }] →
    let t : State := { s with res := { s.res with
      translators := s.res.translators.filter fun t => t.token != token
      opens := s.res.opens.filter fun o => !(o.kind == 1 && o.arg == token) } }
    exec (.processorTimeQuota token) s = .next (t.tell opRESP seq 4 []))
  ∧ (∀ (s : State) (space : Nat) (b : List Byte),
    (readObj b = none → s.loadObj space b = .ends 1)
    ∧ (∀ o, readObj b = some o → o.covered = false → s.loadObj space b = .ends 1)
    ∧ (∀ o, readObj b = some o → o.covered = true → (∃ x ∈ o.census, censusRuns s.mod.stepping x = false) →
        s.loadObj space b = (match o.acier with
          | some a => .relower 2 a
          | none => .ends 2))
    ∧ (∀ o, readObj b = some o → o.covered = true → (∀ x ∈ o.census, censusRuns s.mod.stepping x = true) →
        ((∃ k ∈ o.kernels, 512 < k.regs ∨ 1024 < (k.strands + 3) / 4 * k.regs ∨ 786432 < k.scratch ∨ 32 < k.barriers) →
          s.loadObj space b = (match o.acier with
            | some a => .relower 3 a
            | none => .ends 3))
        ∧ ((∀ k ∈ o.kernels, k.regs ≤ 512 ∧ (k.strands + 3) / 4 * k.regs ≤ 1024 ∧ k.scratch ≤ 786432 ∧ k.barriers ≤ 32) →
          s.loadObj space b = (match s.placeObj space o with
            | some (u, hs) => .done u hs
            | none => .ends 5))))

/-- R320, R324, R328, R329, R331, R337, R338: POST, CANCEL, DRAIN, UNDRAIN, RESUME and DONE. A job whose records hold is posted whole and
started, and is answered with its identifier, its counters' address and its launches; another is malformed. A name that matches nothing is
unknown. -/
def Sys2Proof.Spec.RequestsManageJobs : Prop :=
  (∀ (s t : State) (r : Req) (space va : Nat), Accepts s r t →
    let i : Instr := .post r space va
    let read := t.jobRecord (reqAgent r.seq) space va
    let n := t.res.nextJob
    ((space = 0 ∨ 65535 < space ∨ read = .error .denied) → Answers s i r t 6 [])
    ∧ (∀ l, 1 ≤ space → space ≤ 65535 → read = .error l → l ≠ .denied → Pends s i r t l)
    ∧ (∀ ps ctr u v nodes ids, 1 ≤ space → space ≤ 65535 → read = .ok ps →
        t.residentPages space (16 * (unitTotals ps).length) false = some (ctr, u) →
        State.postNodes u n 0 (numberNodes 0 0 ps.flatten) = some (v, nodes, ids) →
        let jb : Job := { space := space, ctrbase := ctr, phases := ps.map List.length, graphs := ps.flatten.map List.length,
                          units := (unitTotals ps).map (fun k => { done := 0, total := k, state := .waiting, fcode := 0 }), nodes := nodes }
        let w : State := { v with res := { v.res with nextJob := n + 1, jobs := SMap.put v.res.jobs n jb } }
        let zero := (unitTotals ps).flatMap fun k => leBytes 4 0 ++ leBytes 4 k ++ leBytes 8 0
        Answers s i r (((w.writeSpace space ctr zero).startUnit n 0).jobRun n) 0 ([n, ctr] ++ ids)))
  ∧ (∀ (s t : State) (r : Req) (kind id unit : Nat), Accepts s r t →
    let i : Instr := .cancel r kind id unit
    (3 < kind → Answers s i r t 6 []) ∧ (kind ≤ 3 → t.cancelUnit kind id unit = none → Answers s i r t 7 [])
    ∧ (∀ u j, kind ≤ 3 → t.cancelUnit kind id unit = some (u, j) → Answers s i r (u.jobRun j).unloadSettle 0 [])
    ∧ (∀ l, t.launch? id = some l → t.cancelUnit 0 id 0 = some (t.cancelNode l.job l.node, l.job)))
  ∧ (∀ (s t : State) (r : Req) (id : Nat), Accepts s r t →
    (t.launch? id = none → Answers s (.drain r id) r t 7 [] ∧ Answers s (.undrain r id) r t 7 [])
    ∧ (∀ l, t.launch? id = some l →
        let us := if l.drain = 0 then (t.space l.space).drainUs else l.drain
        Answers s (.drain r id) r (if l.drainAt.isSome then t else
          t.updLaunch id fun l => { l with drainAt := some (t.cycle + us * usCycles), drainBy := none }) 0 []
        ∧ Answers s (.undrain r id) r (t.updLaunch id fun l =>
            if l.drainAt.isSome then { l with drainAt := none, drainBy := none, e := l.prio, ageFrom := t.cycle } else l) 0 []))
  ∧ (∀ (s t : State) (r : Req) (stop : StopId), Accepts s r t →
    (Machine.StopId.valid stop = false → Answers s (.resume r stop) r t 6 [])
    ∧ (Machine.StopId.valid stop = true → (stop ∉ t.res.stops ∨ t.stoppedAt stop = none) → Answers s (.resume r stop) r t 7 [])
    ∧ (∀ k e, Machine.StopId.valid stop = true → stop ∈ t.res.stops → t.stoppedAt stop = some (k, e) →
        let u := t.updSplit k e fun p => { p with stopped := false }
        Answers s (.resume r stop) r { u with res := { u.res with stops := u.res.stops.filter (· ≠ stop) } } 0 []))
  ∧ (∀ (s t : State) (r : Req) (job n : Nat), Accepts s r t →
    (t.job? job = none → ∀ unit, Answers s (.done r job unit) r t 7 [])
    ∧ (∀ jb x tok, t.job? job = some jb → jb.nodes[n]? = some x → x.kind = .service tok →
        ((x.ready = false ∨ jb.nodeDone n = true) → Answers s (.done r job (jb.nodeUnit n)) r t 7 [])
        ∧ (x.ready = true → jb.nodeDone n = false → Answers s (.done r job (jb.nodeUnit n)) r (t.nodeFinal job n .complete 0) 0 [])))

/-- R305, R306, R320, R324, R328, R331, R337, R338: the requests that load kernels and manage jobs. Choices of the model it rests on: log 7,
10, 63, 64, 65, 66. -/
def Obligations.KernelsAndJobs : Prop := Spec.LoadsAndUnloads ∧ Spec.RequestsManageJobs

/-- R323: each operating parameter takes effect where its index and value lie in the table, and is malformed otherwise; a parameter of a
space is unknown where the index names none. Bits [31:16] of an arbitration register are ignored: the model's choice (log 99). -/
def Sys2Proof.Spec.ParametersTakeEffect : Prop :=
  ∀ (s t : State) (r : Req) (k v : Nat) (w : DWord), Accepts s r t →
    let param (i : Instr) (ok : Prop) (u : State) : Prop := (ok → Answers s i r u 0 []) ∧ (¬ ok → Answers s i r t 6 [])
    let spaceParam (i : Instr) (ok : Prop) (f : Space → Space) : Prop :=
      ((k = 0 ∨ 65535 < k) → Answers s i r t 7 []) ∧ (1 ≤ k → k ≤ 65535 → param i ok (t.updSpace k f))
    param (.routeTableEntry r k w) (k < 2048) (
      let key := 1024 * t.fab.eps.getD (k / 1024) 0 + k % 1024
      { t with fab := { t.fab with routes := SMap.set 0 t.fab.routes key w, failed := t.fab.failed.filter (· ≠ key) } })
    ∧ param (.stationArbitrationRegister r k v) (k < 18 ∧ v < 2 ^ 32)
        (t.updStation k fun x => { x with arb := some (max 1 (v % 256), max 1 (v / 256 % 256)) })
    ∧ param (.stationReEnable r k v) (k < 18 ∧ v = 0) (t.updStation k fun x =>
        { x with heldDown := false, downs := [], up := true, retrain := if x.up then x.retrain else sat32 (x.retrain + 1) })
    ∧ param (.acknowledgementTimeout r k v) (k = 0 ∧ 1 ≤ v ∧ v ≤ 10000) { t with fab := { t.fab with timeoutUs := v } }
    ∧ param (.scrubInterval r k v) (k = 0 ∧ 1 ≤ v ∧ v ≤ 168) { t with res := { t.res with scrubHours := v } }
    ∧ param (.antiRollbackFloorRaise r k v) (k = 0 ∧ v = 1) { t with mod := { t.mod with floor := max t.mod.floor t.mod.version } }
    ∧ spaceParam (.rollbackRetries r k v) (v ≤ 15) (fun x => { x with retry := v })
    ∧ spaceParam (.undoLogSize r k v) (v % 65536 = 0 ∧ v ≤ 2 ^ 36) (fun x => { x with undoLog := v })
    ∧ spaceParam (.pagerTimeout r k v) (1 ≤ v ∧ v ≤ 60000) (fun x => { x with pagerMs := v })
    ∧ spaceParam (.defaultDrainInterval r k v) (1 ≤ v ∧ v ≤ 1000000) (fun x => { x with drainUs := v })
    ∧ spaceParam (.capabilityTableSize r k v) (1 ≤ v ∧ v ≤ 65536 ∧ ∀ c ∈ (t.space k).caps, v ≤ c.1 → c.2.body = none)
        (fun x => { x with capSlots := v })

/-- R320 to R323, R368: numbered requests, SYNC and the operating parameters. Choices of the model it rests on: log 62, 71, 94, 99. -/
def Obligations.RequestsAreAnswered : Prop := Spec.RequestsAreNumbered ∧ Spec.SyncReplaysMessages ∧ Spec.ParametersTakeEffect

/-! ### Scheduling -/

/-- R27, R29: a strand starts with one split of all 32 lanes at its entry, empty join stack, zero registers, k0 to k23 as given, p0 true and
p1 to p7 false in every lane, no stream bound, window base 0, no region, round to nearest even without flush, no watch and nothing pending; a
sequencer context with one lane. -/
def Sys2Proof.Spec.ThreadsStart : Prop :=
  ∀ (seq : Bool) (uid die cluster core quad slot space launch gang group strand rbase regs pc : Nat) (k : List Word),
    let x := Thread.start seq uid die cluster core quad slot space launch gang group strand rbase regs pc k
    (x.split 0).valid = true ∧ (x.split 0).pc = pc ∧ (x.split 0).mask = (if seq then 1 else BitVec.allOnes 32) ∧ (x.split 0).top = none
    ∧ (x.split 0).inH = false ∧ (x.split 0).queue = [] ∧ (x.split 0).sig = 0xFFFF ∧ (∀ e, 0 < e → (x.split e).valid = false)
    ∧ (∀ b l, x.vreg b l = 0) ∧ (∀ n, n < 24 → x.kreg n = k.getD n 0)
    ∧ (∀ l, l < 32 → (seq = false ∨ l = 0) → x.preg 0 l = true ∧ ∀ n, 0 < n → n < 8 → x.preg n l = false)
    ∧ (∀ n, n < 8 → x.streams.getD n none = none) ∧ (∀ j ∈ x.recs, j.used = false) ∧ x.winBase = 0 ∧ x.region = none
    ∧ x.rm = .rne ∧ x.ftz = false ∧ x.pend = [] ∧ x.rem = [] ∧ x.loupe = [] ∧ x.yielding = false
    ∧ x.fault = 0 ∧ x.faultpc = 0 ∧ x.faultinfo = 0

/-- R332 to R336: a placement opportunity visits launches level by level downward; the first that is resident, fits on a cluster and has
nothing to be written back places its next gang, whose contexts, cores, slots and registers were free; one that fits nowhere is passed
over; with none to place nothing happens. -/
def Sys2Proof.Spec.GangsArePlaced : Prop :=
  (∀ (s : State) (id : Nat) (l : Launch) (k : Kernel) (p : Spot) (rest : List Nat), s.visitOrder = id :: rest → s.launch? id = some l →
      s.kernelOf id = some k → l.resident = true →
      (s.gangSpot k (s.diesFor l) = some p → s.flushBlocked p.cids = [] →
        exec .gangPlacement s = .next ((s.flush p.cids true).placeGang id l k p))
      ∧ (s.gangSpot k (s.diesFor l) = some p → s.flushBlocked p.cids ≠ [] → s.flushUnasked p.cids = false →
        exec .gangPlacement s = .next s))
  ∧ (∀ s : State, (∀ l ∈ s.res.launches, l.2.waits = false) → exec .gangPlacement s = .next s)
  ∧ (∀ (s : State) (a b : Nat) (x y : Launch) (i j : Nat), SMap.risingFrom 0 s.res.launches = true → s.visitOrder[i]? = some a →
      s.visitOrder[j]? = some b → s.launch? a = some x → s.launch? b = some y → y.e < x.e → i < j)
  ∧ (∀ (s : State) (k : Kernel) (dies : List Nat) (p : Spot), s.gangSpot k dies = some p →
      p.die ∈ dies ∧ p.cluster < 8 ∧ p.ctx < 16 ∧ p.groups.length = k.gang
      ∧ (∀ g ∈ s.gangs, g.2.die = p.die → g.2.cluster = p.cluster → g.2.ctx ≠ p.ctx)
      ∧ (∀ g ∈ p.groups, let c := s.core ((p.die * 8 + p.cluster) * 8 + g.core)
          c.excluded = false ∧ c.retired = false ∧ g.scratch + k.scratch ≤ 786432 ∧ g.strands.length = k.strands
          ∧ (∀ t ∈ g.strands, t.1 < 4 ∧ t.2.1 < 16 ∧ t.2.2 + k.regs ≤ 1024
              ∧ ∀ u ∈ s.strandsOf ((p.die * 8 + p.cluster) * 8 + g.core), u.2.quad = t.1 → u.2.slot ≠ t.2.1)))

/-- R332, R334, R337, R345: AGE_INTERVAL_EXPIRY raises a waiting launch's level, up to CEIL, then makes it blocking, then drains a victim;
a drain that outlives its interval cancels its launch; an upcall that outlives its pager's time fails the launches that wait for it. -/
def Sys2Proof.Spec.IntervalsExpire : Prop :=
  (∀ (s : State) (id : Nat) (l : Launch), s.launch? id = some l →
    let due : Prop := l.ready = true ∧ l.dropped = false ∧ l.next < l.nx * l.ny * l.nz ∧ l.age ≠ 0 ∧ l.ageFrom + l.age * usCycles ≤ s.cycle
    let t := s.updLaunch id fun l => { l with ageFrom := s.cycle }
    let i : Instr := .ageIntervalExpiry id
    (¬ due → exec i s = .next s)
    ∧ (due → l.e < l.ceil → exec i s = .next (s.updLaunch id fun l => { l with ageFrom := s.cycle, e := l.e + 1 }))
    ∧ (due → l.ceil ≤ l.e →
        (l.drainAt ≠ none → exec i s = .next t)
        ∧ (l.drainAt = none → l.blocking = false → exec i s = .next (s.updLaunch id fun l => { l with ageFrom := s.cycle, blocking := true }))
        ∧ (l.drainAt = none → l.blocking = true →
            ((∃ v ∈ t.res.launches, v.2.drainBy = some id) → exec i s = .next t)
            ∧ ((∀ v ∈ t.res.launches, v.2.drainBy ≠ some id) → (t.victim l = none → exec i s = .next t)
                ∧ ∀ v, t.victim l = some v → exec i s = .next (t.startDrain v (some id)))))
    ∧ (let late : Prop := (∃ u, l.drainAt = some u ∧ u ≤ s.cycle) ∧ ∃ g ∈ s.gangs, g.2.launch = id ∧ ∃ x ∈ g.2.groups, 0 < x.live
       (¬ late → exec (.drainEscalation id) s = .next s)
       ∧ (late → exec (.drainEscalation id) s = .next ((s.cancelNode l.job l.node).jobRun l.job))))
  ∧ (∀ (s : State) (token : Nat),
    (∀ u, (s.res.upcalls.find? fun u => u.token == token && u.since + u.limit ≤ s.cycle) = some u →
        exec (.pagerTimeoutExpiry token) s = .next (s.upcallFails u 0xFFFF))
    ∧ ((∀ u ∈ s.res.upcalls, u.token = token → s.cycle < u.since + u.limit) → exec (.pagerTimeoutExpiry token) s = .next s))

/-- R113, R326, R329, R372: NODE_COMPLETE. A launch whose gangs have been placed and have ended, with its remote accesses answered, is
complete once its cores are written back; a copy is complete when its last byte is, and else moves to the next 4 KiB boundary; a collective
is complete when its entries are; and each takes its final STATE once. -/
def Sys2Proof.Spec.NodesComplete : Prop :=
  ∀ (s : State) (j n : Nat) (jb : Job) (x : Node), Running s j n jb x → x.ending = none →
    let i : Instr := .nodeComplete j n
    (∀ id l, x.kind = .launch id → s.launch? id = some l →
      let ended : Prop := l.ready = true ∧ l.dropped = false ∧ l.next = l.nx * l.ny * l.nz ∧ s.quiet j n = true
        ∧ ∀ q ∈ s.fab.qps, ∀ e ∈ q.2.queue, e.node ≠ nodeKey j n
      (¬ ended → exec i s = .next s)
      ∧ (ended → s.flushBlocked l.used = [] → exec i s = .next ((s.flush l.used false).nodeFinal j n .complete 0)))
    ∧ (∀ src dst len, x.kind = .copy src dst len →
      (0 < x.progress → len ≤ x.progress → s.copyDenied jb.space (src + x.progress) (dst + x.progress) (nodePiece dst len x.progress) = none →
        exec i s = .next (s.nodeFinal j n .complete 0))
      ∧ (∀ va info, x.progress = 0 → s.copyDenied jb.space src dst len = some (va, info) →
          exec i s = .next ((s.record { s.nodeRec 0x11 j n with addr := va, info := info }).endNode j n false (some .failed) 0x11))
      ∧ (∀ t, let a := src + x.progress
          let b := dst + x.progress
          let k := min (len - x.progress) (4096 - b % 4096)
          x.progress < len → s.copyDenied jb.space a b (if x.progress = 0 then len else k) = none →
          s.pieceFrozen jb.space a b k = false →
          s.homeAccess (nodeAgent j n) (s.pieceLines jb.space a b k) = (t, true) → (t.readPieces (t.pieces jb.space a k)).2 = false →
          exec i s = .next (((t.writePieces (nodeKey j n) (t.pieces jb.space b k) (t.readPieces (t.pieces jb.space a k)).1).homeDone (nodeAgent j n)
            (s.pieceLines jb.space a b k)).updNode j n fun x => { x with progress := x.progress + k })))
    ∧ (∀ h c va, x.kind = .coll h c va →
      (x.posted < c → exec i s = .next (s.collPost j n jb.space h va x))
      ∧ (c ≤ x.posted → s.quiet j n = true → exec i s = .next (s.nodeFinal j n .complete 0))
      ∧ (c ≤ x.posted → s.quiet j n = false → exec i s = .next s))
    ∧ (∀ tok, x.kind = .service tok → exec i s = .next s)

/-- R27, R29, R113, R326, R329, R332 to R337, R345, R372: placement, intervals and the end of nodes. Choices of the model it rests on: log
7, 66, 67, 68, 69. -/
def Obligations.Scheduling : Prop := Spec.ThreadsStart ∧ Spec.GangsArePlaced ∧ Spec.IntervalsExpire ∧ Spec.NodesComplete

/-! ### System calls -/

/-- R348, R368: calls are performed in RUN only, those of one space one after another; a space that is not one is invalid. -/
def Sys2Proof.Spec.CallsWaitTheirTurn : Prop :=
  ∀ (s : State) (i : Instr), Spec.isCall i = true →
    (s.mod.power ≠ .run → exec i s = .next s)
    ∧ (s.mod.power = .run → s.res.again = false →
        ((callSpace i = 0 ∨ 65535 < callSpace i) → exec i s = .next { s with res := { s.res with callStatus := 1, callValue := 0 } })
        ∧ (1 ≤ callSpace i → callSpace i ≤ 65535 → (∃ j ∈ s.res.calls, callSpace j = callSpace i) →
            exec i s = .next { s with res := { s.res with calls := s.res.calls ++ [i] } }))

/-- R342, R343, R345, R348: MAP, UNMAP, PROTECT, PIN, UNPIN, REGPAGER and SUPPLY. -/
def Sys2Proof.Spec.CallsOnPages : Prop :=
  ∀ (s t : State) (mark : Option Nat) (space va size : Nat), 
    let low : Prop := Pages va size ∧ va + size ≤ 0xF00000000000
    (∀ r w x hw home, Runs s (.map space va size r w x hw home) mark t →
      let i : Instr := .map space va size r w x hw home
      let e := home * 128 + bit hw * 64 + bit x * 32 + bit w * 16 + bit r * 8 + 2
      let ok : Prop := low ∧ home ≤ 1 ∧ ∀ p ∈ pages va size, t.presentPage space p = false
      (¬ ok → Returns s i t 1 0)
      ∧ (∀ u, ok → t.makeEntries space e (rangePages va size) = some u → Returns s i u 0 0)
      ∧ (ok → t.makeEntries space e (rangePages va size) = none → Returns s i t 3 0))
    ∧ (Runs s (.unmap space va size) mark t →
      let i : Instr := .unmap space va size
      let leased : Prop := ∃ p ∈ pages va size, ∃ a e, t.pte? space (p * 65536) = some (a, e) ∧ e.testBit 2 = true
      (¬ (Pages va size ∧ Mapped t space va size) → Returns s i t 1 0)
      ∧ (Pages va size → Mapped t space va size → leased → Returns s i t 2 0)
      ∧ (Pages va size → Mapped t space va size → ¬ leased → Returns s i (t.editPages space va size fun e => setBits 0 1 0 e) 0 0))
    ∧ (∀ r w x, Runs s (.protect space va size r w x) mark t →
      let i : Instr := .protect space va size r w x
      (¬ (low ∧ Mapped t space va size) → Returns s i t 1 0)
      ∧ (low → Mapped t space va size →
          Returns s i (t.editPages space va size fun e => setBits 3 3 (bit r + 2 * bit w + 4 * bit x) e) 0 0))
    ∧ (Runs s (.pin space va size) mark t →
      let i : Instr := .pin space va size
      let asked (t : State) : Prop := ∃ u ∈ t.res.upcalls, u.space = space ∧ u.va / 65536 ∈ pages va size
      let u := t.callIn space (rangePages va size)
      let all : Prop := ∀ p ∈ pages va size, u.presentPage space p = true
      (¬ (Pages va size ∧ Mapped t space va size) → Returns s i t 1 0)
      ∧ (Pages va size → Mapped t space va size → asked t → Returns s i t 2 0)
      ∧ (Pages va size → Mapped t space va size → ¬ asked t → all → Returns s i (u.hold space 0 (rangePages va size)) 0 0)
      ∧ (Pages va size → Mapped t space va size → ¬ asked t → ¬ all → asked u → Returns s i u 2 0)
      ∧ (Pages va size → Mapped t space va size → ¬ asked t → ¬ all → ¬ asked u → Returns s i u 3 0))
    ∧ (Runs s (.unpin space va size) mark t →
      let i : Instr := .unpin space va size
      (¬ Pages va size → Returns s i t 1 0)
      ∧ (Pages va size → (∀ p ∈ pages va size, (space, p, 0) ∉ t.res.holders) → Returns s i t 0 0)
      ∧ (∀ p, size = 65536 → Pages va size → pages va size = [p] → (space, p, 0) ∈ t.res.holders →
          let rest := t.res.holders.filter (· ≠ (space, p, 0))
          let u : State := { t with res := { t.res with holders := rest } }
          ((∃ h ∈ rest, h.1 = space ∧ h.2.1 = p) → Returns s i u 0 0)
          ∧ (∀ a e, (∀ h ∈ rest, h.1 ≠ space ∨ h.2.1 ≠ p) → p * 65536 < 0xF00000000000 → t.pte? space (p * 65536) = some (a, e) →
              Returns s i (u.pokeRaw a 8 (setBits 2 1 0 e)) 0 0)))
    ∧ (∀ proc, Runs s (.regpager space va size proc) mark t →
      let i : Instr := .regpager space va size proc
      let meets : Prop := ∃ p ∈ (t.space space).pagers, p.1 < va + size ∧ va < p.1 + p.2.1
      (¬ Pages va size ∨ meets → Returns s i t 1 0)
      ∧ (Pages va size → ¬ meets → Returns s i (t.updSpace space fun x => { x with pagers := x.pagers ++ [(va, size, proc)] }) 0 0))
    ∧ (∀ token buf status, Runs s (.supply space token buf status) mark t →
      let i : Instr := .supply space token buf status
      ((∀ u ∈ t.res.upcalls, u.token ≠ token ∨ u.space ≠ space) → Returns s i t 1 0)
      ∧ (∀ u, (t.res.upcalls.find? fun u => u.token == token && u.space == space) = some u →
          (status ≠ 0 → Returns s i (t.upcallFails u status) 0 0)
          ∧ (status = 0 → let read := t.readSpace (callAgent space) space buf 65536
              (read = .error .denied → Returns s i t 1 0)
              ∧ (∀ l, read = .error l → l ≠ .denied → Waits s i (t.readAsk (callAgent space) l) i 0)
              ∧ (∀ bs, read = .ok bs → t.supplyPage space (u.va / 65536) bs = none → Returns s i t 3 0)
              ∧ (∀ bs v, read = .ok bs → t.supplyPage space (u.va / 65536) bs = some v → t.poison = [] →
                  Returns s i { v with res := { v.res with upcalls := v.res.upcalls.filter fun x => x.token != token } } 0 0))))

/-- R341, R342: a change of a page's entry rewrites its eight bytes and no other byte of memory. -/
def Sys2Proof.Spec.EntriesAreRewritten : Prop :=
  ∀ (s : State) (space va a e : Nat) (f : Nat → Nat), s.memoryOk → va % 65536 = 0 → s.pte? space va = some (a, e) → f e < 2 ^ 64 →
    let t := s.editPages space va 65536 f
    Memory.le t.mem a 8 = f e ∧ (∀ b, (b < a ∨ a + 8 ≤ b) → Memory.read t.mem b = Memory.read s.mem b) ∧ t.threads = s.threads

/-- R138, R346: SETMODE and MIGRATE go page by page: an absent page's entry changes at once; a present one is marked, recalled from every
cache, and then takes its new mode, or its new frame and home die, to which what was queued for it is forwarded before it is free; with no
page left the call returns. -/
def Sys2Proof.Spec.CallsMovePages : Prop :=
  ∀ (s t : State) (mark : Option Nat) (space va size : Nat),
    let ok : Prop := mark = none → Pages va size ∧ Mapped t space va size
    (∀ hw, Runs s (.setmode space va size hw) mark t →
      let i : Instr := .setmode space va size hw
      let next : Instr := .setmode space (va + 65536) (size - 65536) hw
      (¬ ok → Returns s i t 1 0)
      ∧ (ok → size = 0 → Returns s i t 0 0)
      ∧ (ok → size ≠ 0 → t.pte? space va = none → Waits s i t next 0)
      ∧ (∀ a e, ok → size ≠ 0 → t.pte? space va = some (a, e) →
          let back := (t.pokeRaw a 8 (setBits 10 1 1 e)).recallPage (callAgent space) (e / 4096 % 2 ^ 40 * 4096)
          (e.testBit 6 = hw → Waits s i t next 0)
          ∧ (e.testBit 6 ≠ hw → e % 2 = 0 → Waits s i (t.pokeRaw a 8 (setBits 6 1 (bit hw) e)) next 0)
          ∧ (∀ u, e.testBit 6 ≠ hw → e % 2 = 1 → back = (u, false) → Waits s i u i 0)
          ∧ (∀ u, e.testBit 6 ≠ hw → e % 2 = 1 → back = (u, true) →
              Waits s i (u.pokeRaw a 8 (setBits 6 1 (bit hw) (setBits 10 1 0 e))) next 0)))
    ∧ (Runs s (.migrate space va size) mark t →
      let i : Instr := .migrate space va size
      let next : Instr := .migrate space (va + 65536) (size - 65536)
      (¬ ok → Returns s i t 1 0)
      ∧ (ok → size = 0 → Returns s i t 0 0)
      ∧ (ok → size ≠ 0 → t.pte? space va = none → Waits s i t next 0)
      ∧ (∀ a e, ok → size ≠ 0 → t.pte? space va = some (a, e) →
          let die := 1 - e / 128 % 2
          let base := e / 4096 % 2 ^ 40 * 4096
          let back := (t.pokeRaw a 8 (setBits 8 2 1 e)).recallPage (callAgent space) base
          (e % 2 = 0 → Waits s i (t.pokeRaw a 8 (setBits 7 1 die e)) next 0)
          ∧ (e % 2 = 1 → e / 256 % 4 = 2 → (t.forwarding space va base = true → Waits s i t i 0)
              ∧ (t.forwarding space va base = false → Waits s i (t.pokeRaw a 8 (setBits 8 2 0 e)) next 0))
          ∧ (e % 2 = 1 → e / 256 % 4 ≠ 2 →
              (∀ u, back = (u, false) → Waits s i u i 0)
              ∧ (∀ u, back = (u, true) → u.allocFrame die = none → Returns s i (u.pokeRaw a 8 (setBits 8 2 0 e)) 3 0)
              ∧ (∀ u f v, back = (u, true) → u.allocFrame die = some (f, v) →
                  Waits s i ((v.movePage base f).pokeRaw a 8 (setBits 7 1 die (setBits 8 2 2 (setBits 12 40 (f / 4096) e)))) i 0))))

/-- R138, R341 to R346, R348, R368: the order of system calls, and those that change pages. Choices of the model it rests on: log 18, 36,
70, 72, 73, 74, 95. -/
def Obligations.CallsOnMemory : Prop := Spec.CallsWaitTheirTurn ∧ Spec.CallsOnPages ∧ Spec.EntriesAreRewritten ∧ Spec.CallsMovePages

/-- R160, R161, R169, R176, R306, R347, R348: CAPSET, CAPREVOKE, CAPALLOW, QPALLOC, QPRESET, QPFREE, CHUNKSET and MAPEXEC. Choices of the
model it rests on: log 3, 7, 73, 78, 100. -/
def Obligations.CallsOnTables : Prop :=
  ∀ (s t : State) (mark : Option Nat) (space n : Nat),
    (∀ body, Runs s (.capset space n body) mark t →
      let i : Instr := .capset space n body
      let c := t.cap space n
      let ok : Prop := n < (t.space space).capSlots ∧ c.retired = false ∧ t.capBodyOk space body = true
      (¬ ok → Returns s i t 1 0) ∧ (ok → c.body ≠ none → Returns s i t 2 0)
      ∧ (ok → c.body = none → t.ensureTable space = none → Returns s i t 3 0)
      ∧ (∀ u, ok → c.body = none → t.ensureTable space = some u →
          Returns s i (u.updCap space n fun c => { c with body := some body }) 0 (c.gen * 65536 + n)))
    ∧ (Runs s (.caprevoke space n) mark t →
      let i : Instr := .caprevoke space n
      let c := t.cap space n
      let ok : Prop := mark = none → n < (t.space space).capSlots ∧ c.retired = false ∧ c.body ≠ none
      let queue : Option Nat := match c.body with
        | some (.queuePair _ _ lqp _) => some lqp
        | _ => none
      let cut := match queue with
        | some q => t.cancelUnfired q
        | none => t
      let u := match mark with
        | some _ => t
        | none => cut.updCap space n fun c => { c with gen := c.gen + 1 }
      let till := mark.getD (match queue.bind t.qpair? with
        | some q => q.nextPos
        | none => 0)
      let busy : Prop := u.transfers (space, n, (u.cap space n).gen - 1) = true
        ∨ ∃ q, queue.bind u.qpair? = some q ∧ ∃ e ∈ q.queue, e.pos < till
      (¬ ok → Returns s i t 1 0) ∧ (ok → busy → Waits s i u i till)
      ∧ (ok → ¬ busy → Returns s i (u.updCap space n fun c =>
          if 255 < c.gen then { gen := 255, retired := true, body := none } else { c with body := none }) 0 0))
    ∧ (∀ bytes, Runs s (.capallow space n bytes) mark t →
      let i : Instr := .capallow space n bytes
      let more (m : Nat) : Nat := if m = 2 ^ 48 - 1 then m else min (m + bytes) (2 ^ 48 - 2)
      ((t.cap space n).body = none → Returns s i t 1 0)
      ∧ (∀ d sp b l r w a m, (t.cap space n).body = some (.window d sp b l r w a m) →
          Returns s i (t.updCap space n fun c => { c with body := some (.window d sp b l r w a (more m)) }) 0 0)
      ∧ (∀ p q l m, (t.cap space n).body = some (.queuePair p q l m) →
          Returns s i (t.updCap space n fun c => { c with body := some (.queuePair p q l (more m)) }) 0 0))
    ∧ (Runs s (.qpalloc space) mark t →
      let i : Instr := .qpalloc space
      (∀ q va u, q < 4096 → t.qpair? q = none → (∀ m, m < q → t.qpair? m ≠ none) → t.residentPages space 256 false = some (va, u) →
        let pair : QPair := { space := space, queue := [], nextPos := 0, ctrs := [], refused := false, block := (u.pa? space va).getD 0,
                              blockVa := va }
        Returns s i { u with fab := { u.fab with qps := SMap.put u.fab.qps q pair } } 0 q)
      ∧ ((∀ m, m < 4096 → t.qpair? m ≠ none) → Returns s i t 3 0))
    ∧ (Runs s (.qpreset space n) mark t →
      let i : Instr := .qpreset space n
      ((∀ q, t.qpair? n = some q → q.space ≠ space) → Returns s i t 1 0)
      ∧ (∀ q, t.qpair? n = some q → q.space = space → (∀ e ∈ q.queue, e.fired = false) → SMap.risingFrom 0 t.fab.qps = true →
          Returns s i (t.resetQp n { q with queue := [] }) 0 0)
      ∧ (∀ q, t.qpair? n = some q → q.space = space → (∃ e ∈ q.queue, e.fired = true) → SMap.risingFrom 0 t.fab.qps = true →
          Waits s i (t.setQp n { q with queue := q.queue.filter fun e => e.fired }) i 0))
    ∧ (Runs s (.qpfree space n) mark t →
      let i : Instr := .qpfree space n
      let named : Prop := ∃ c ∈ (t.space space).caps, ∃ peer pqp m, c.2.body = some (.queuePair peer pqp n m)
      ((∀ q, t.qpair? n = some q → q.space ≠ space) → Returns s i t 1 0)
      ∧ (∀ q, t.qpair? n = some q → q.space = space → named → SMap.risingFrom 0 t.fab.qps = true → Returns s i t 2 0)
      ∧ (∀ q, t.qpair? n = some q → q.space = space → ¬ named → q.queue = [] → SMap.risingFrom 0 t.fab.qps = true →
          let u := t.resetQp n q
          Returns s i { u with fab := { u.fab with qps := SMap.del u.fab.qps n } } 0 0))
    ∧ (Runs s (.chunkset space n) mark t →
      let i : Instr := .chunkset space n
      let busy : Prop := ∃ q ∈ t.fab.qps, q.2.space = space ∧ q.2.queue ≠ []
      (n % 65536 ≠ 0 → Returns s i t 1 0) ∧ (n % 65536 = 0 → busy → Returns s i t 2 0)
      ∧ (n = 0 → ¬ busy → (t.space space).chunk = none → Returns s i (t.updSpace space fun x => { x with chunk := none }) 0 0)
      ∧ (∀ b, n % 65536 = 0 → n ≠ 0 → ¬ busy → (t.space space).chunk = none →
          freeRun (t.res.spaces.filterMap fun x => if x.1 = space then none else x.2.chunk) n (2 ^ 26) 65536 = some b →
          Returns s i (State.updSpace { t with fab := { t.fab with
            chunk := t.fab.chunk.filter fun c => !(b ≤ c.1 && c.1 < b + n)
            chunkPois := t.fab.chunkPois.filter fun w => !(b ≤ 8 * w && 8 * w < b + n) } } space
            fun x => { x with chunk := some (b, n) }) 0 0))
    ∧ (∀ va token, Runs s (.mapexec space va n token) mark t →
      let i : Instr := .mapexec space va n token
      let mine : Prop := ∃ x ∈ t.res.translators, x.token = token ∧ x.space = space
      (¬ mine → Returns s i t 1 0)
      ∧ (mine → let read := t.readSpace (callAgent space) space va n
          (read = .error .denied → Returns s i (t.endTranslator token 1 []) 1 0)
          ∧ (∀ l, read = .error l → l ≠ .denied → Waits s i (t.readAsk (callAgent space) l) i 0)
          ∧ (∀ b u hs, read = .ok b → t.loadObj space b = .done u hs → Returns s i (u.endTranslator token 0 hs) 0 0)
          ∧ (∀ b st, read = .ok b → (t.loadObj space b = .ends st ∨ ∃ a, t.loadObj space b = .relower st a) →
              Returns s i (t.endTranslator token st []) st 0)))

/-! ### The module -/

/-- R365, R368, R369: POWER_ON starts the valid image of the higher version, slot A when they are equal, under a new epoch, with its keys, its
stations and its ports; the slot that ran last has kept its image; without a valid one, or where a step fails, boot stops. Power off, and a sensor at 115 °C, keep only fuses, flash and identity. -/
def Sys2Proof.Spec.PowerAndBoot : Prop :=
  ∀ (s : State) (a b : Option ImageSlot) (step : Nat) (down bad : List Nat),
    let i : Instr := .powerOn a b step down bad
    let slots : Option ImageSlot × Option ImageSlot :=
      (if s.mod.running = some false then s.mod.slotA else a, if s.mod.running = some true then s.mod.slotB else b)
    let t : State := { s.unpowered with mod := { s.unpowered.mod with slotA := slots.1, slotB := slots.2, power := .boot } }
    let choice := bootChoice s.mod.floor slots.1 slots.2
    let ran := bootSlot s.mod.floor slots.1 slots.2
    (s.mod.power ≠ .off → exec i s = .next s)
    ∧ (s.mod.power = .off → choice = none → exec i s = .next { t with mod := { t.mod with bootFail := some 0 } })
    ∧ (∀ x, s.mod.power = .off → choice = some x → (step = 1 ∨ step = 2) →
        exec i s = .next { t with mod := { t.mod with running := ran, bootFail := some step, harts := t.mod.harts.map fun h => { h with held := false } } })
    ∧ (∀ x, s.mod.power = .off → choice = some x → step ≠ 1 → step ≠ 2 →
        ∃ u, exec i s = .next u ∧ u.mod.power = .boot ∧ u.mod.bootFail = none ∧ u.mod.version = x.version ∧ u.mod.digest = x.digest
          ∧ u.mod.slotA = slots.1 ∧ u.mod.slotB = slots.2 ∧ u.mod.running = ran
          ∧ u.res.epoch = (if 0xFFFFFFFF ≤ s.mod.flashEpoch then 1 else s.mod.flashEpoch + 1) ∧ u.mod.flashEpoch = u.res.epoch
          ∧ u.mod.imageKey = Config.deriveKey Config.deviceSecret (some x.digest) ∧ u.mem = [] ∧ u.threads = []
          ∧ (∀ h ∈ u.mod.harts, h.held = false) ∧ (∀ n, n < 18 → (u.station n).up = !down.contains n)
          ∧ ∀ n, n < 4 → (u.mod.ports[n]?).map (fun p => p.up) = some (!down.contains (18 + n)))
    ∧ (∀ x, bootChoice s.mod.floor a b = some x →
        (a = some x ∨ b = some x) ∧ imageValid s.mod.floor (some x) = true
        ∧ (∀ y, (a = some y ∨ b = some y) → imageValid s.mod.floor (some y) = true → y.version ≤ x.version)
        ∧ (∀ y, a = some y → imageValid s.mod.floor a = true → y.version = x.version → x = y))
    ∧ exec .powerRemoved s = .next s.unpowered
    ∧ (∀ die, exec (.thermalTrip die) s = .next (if die < 3 then s.unpowered else s))
    ∧ s.unpowered.mod.power = .off ∧ s.unpowered.mem = [] ∧ s.unpowered.threads = [] ∧ s.unpowered.res = Resident.reset
    ∧ s.unpowered.fab = Fabric.reset ∧ s.unpowered.mod.slotA = s.mod.slotA ∧ s.unpowered.mod.slotB = s.mod.slotB
    ∧ s.unpowered.mod.floor = s.mod.floor ∧ s.unpowered.mod.flashEpoch = s.mod.flashEpoch ∧ s.unpowered.mod.serial = s.mod.serial
    ∧ s.unpowered.mod.running = s.mod.running ∧ s.unpowered.mod.deviceCert = s.mod.deviceCert ∧ s.unpowered.mod.stepping = s.mod.stepping

/-- R366, R367, R369, R371: at 115 °C the module trips; the thermal value falls by 1 every 1 ms at 100 °C or more and rises by 1 every 10 ms below 95 °C, from 1 to 16, and
D is the least of it, the operator's value and 16; an attestation report holds its fields and their signature by the image key, and a
telemetry block, once in a second, its counters. -/
def Sys2Proof.Spec.ThermalAndReports : Prop :=
  ∀ s : State,
    (∀ temps, (∃ x ∈ temps, 115 ≤ x) → exec (.thermalDutyStep temps) s = .next s.unpowered)
    ∧ (∀ temps, s.mod.power = .run → (∀ x ∈ temps, x < 115) →
      let m := s.mod
      let hot : Prop := ∃ x ∈ temps, 100 ≤ x
      let cool : Prop := ∀ x ∈ temps, x < 95
      let fall : Prop := hot ∧ m.thermalAt + 1000 * usCycles ≤ s.cycle
      let rise : Prop := ¬ hot ∧ cool ∧ m.thermalAt + 10000 * usCycles ≤ s.cycle
      let step (v at' : Nat) : State :=
        { s with mod := { m with temps := temps, thermal := v, thermalAt := at', duty := min (min m.cap v) 16 } }
      (fall → exec (.thermalDutyStep temps) s = .next (step (max 1 (m.thermal - 1)) s.cycle))
      ∧ (rise → exec (.thermalDutyStep temps) s = .next (step (min 16 (m.thermal + 1)) s.cycle))
      ∧ (¬ fall → ¬ rise → exec (.thermalDutyStep temps) s = .next (step m.thermal m.thermalAt)))
    ∧ (∀ temps, s.mod.power ≠ .run → (∀ x ∈ temps, x < 115) → exec (.thermalDutyStep temps) s = .next s)
    ∧ (∀ watts, let ok : Prop := s.mod.power ≠ .off ∧ 1500 ≤ watts ∧ watts ≤ 4500
      let v := max 1 (min 16 (Config.capDuty watts))
      (ok → exec (.operatorCap watts) s = .next { s with mod := { s.mod with cap := v, duty := min (min v s.mod.thermal) 16 } })
      ∧ (¬ ok → exec (.operatorCap watts) s = .next s))
    ∧ (∀ nonce, Alive s → ∃ fields : List (Nat × Nat), ∃ t, exec (.attestationReport nonce) s = .next t
        ∧ t = { s with mod := { s.mod with report := t.mod.report } }
        ∧ t.mod.report = (fields.map (·.2)) ++ [(Config.ed25519Sign s.mod.imageKey (fields.flatMap fun f => leBytes f.1 f.2)).toNat]
        ∧ (8, s.mod.serial.toNat) ∈ fields ∧ (64, s.mod.digest.toNat) ∈ fields ∧ (4, s.mod.version) ∈ fields ∧ (32, nonce.toNat) ∈ fields
        ∧ (4, s.res.epoch) ∈ fields ∧ (4, s.mod.floor) ∈ fields)
    ∧ (∀ power temps, Alive s → s.mod.teleAt + 1000000 * usCycles ≤ s.cycle → ∃ t, exec (.telemetryBlock power temps) s = .next t
        ∧ t = { s with mod := { s.mod with report := t.mod.report, teleAt := s.cycle, temps := temps } }
        ∧ power ∈ t.mod.report ∧ s.mod.duty ∈ t.mod.report ∧ (∀ x ∈ temps, x ∈ t.mod.report)
        ∧ (∀ l ∈ s.mod.errs, ∀ x ∈ l, x ∈ t.mod.report) ∧ (∀ l ∈ s.mod.swtot, ∀ x ∈ l, x ∈ t.mod.report))
    ∧ (¬ Alive s → ∀ nonce, exec (.attestationReport nonce) s = .next s)
    ∧ ((¬ Alive s ∨ s.cycle < s.mod.teleAt + 1000000 * usCycles) → ∀ power temps, exec (.telemetryBlock power temps) s = .next s)

/-- R355, R358, R362, R364: the patrol scrub counts a corrected sector, and poisons and reports an uncorrectable one, once, where check symbols
cover it; when the interval is over it has read every sector. A core on which a lane has failed takes the spare, or a second time is
retired, when no group is resident on it, and is tested again. An error counter is cleared. -/
def Sys2Proof.Spec.ReliabilityEvents : Prop :=
  (∀ (s : State) (n : Nat) (bad : Bool), Alive s → n < 2 ^ 35 → s.hbmErrs = [] →
    let t := s.scrubFind { sector := n, uncorrectable := bad }
    exec (.scrubPass [{ sector := n, uncorrectable := bad }]) s = .next (if s.mod.scrubAt + s.res.scrubHours * 3600000000 * usCycles ≤ s.cycle
      then { t with mod := { t.mod with scrubAt := t.cycle } } else t)
    ∧ ((n ∈ s.poison ∨ s.sectorCoded n = false) → t = s)
    ∧ (n ∉ s.poison → s.sectorCoded n = true →
        (bad = true → n ∈ t.poison ∧ t.mem = s.mem
          ∧ ((∀ q ∈ s.faultqs, q.recs = []) → ∃ m, t.res.store.getLast? = some m ∧ m.op = opFAULT))
        ∧ (bad = false → t.poison = s.poison ∧ t.mem = s.mem)))
  ∧ (∀ (s : State) (n : Nat) (es : List (Nat × Byte)), Alive s → s.mod.scrubAt + s.res.scrubHours * 3600000000 * usCycles ≤ s.cycle →
    s.hbmErrs = [(n, es)] →
    let r := readSector (Memory.bytes s.mem (n * 32) 32) (s.sectorCoded n) es
    ∃ t, exec (.scrubPass []) s = .next t ∧ t.mod.scrubAt = s.cycle
      ∧ (r = .corrected → t.mem = s.mem ∧ t.poison = s.poison ∧ t.hbmErrs = [])
      ∧ (r = .lost → t.mem = s.mem ∧ n ∈ t.poison ∧ ∀ q, q ∈ t.poison → q = n ∨ q ∈ s.poison))
  ∧ (∀ (s : State) (core quad lane : Nat), s.mod.power ≠ .off → core < 128 → quad < 4 → lane ≤ 32 → s.res.again = false →
    (∀ j ∈ s.res.calls, callSpace j ≠ 65536 + core) →
    let i : Instr := .spareLaneRemap core quad lane
    let c := s.core core
    let t := s.laneFails core quad lane
    let u : State := { t with choice := t.choice + 1 }
    (s.occupied core = true → exec i s = .next (
      let t := s.updCore core fun c => { c with excluded := true }
      { t with res := { t.res with calls := t.res.calls ++ [i] } }))
    ∧ (s.occupied core = false →
        ((t.core core).retired = true → exec i s = .next t)
        ∧ ((t.core core).retired = false → Config.laneTest t.choice = none → exec i s = .next u)
        ∧ (∀ q l, (t.core core).retired = false → Config.laneTest t.choice = some (q, l) → q < 4 → l ≤ 32 →
            exec i s = .next (u.laneFails core q l)))
    ∧ ((c.retired = true ∨ c.spare.getD quad none = some lane) → t = s)
    ∧ (c.retired = false → c.spare.getD quad none = none → lane < 32 → SMap.wf Core.reset s.cores = true →
        t.mem = s.mem ∧ t.core core = { c with spare := setAt c.spare quad (some lane), excluded := false })
    ∧ (c.retired = false → c.spare.getD quad none ≠ some lane → (c.spare.getD quad none ≠ none ∨ lane = 32) →
        SMap.wf Core.reset s.cores = true → t.mem = s.mem ∧ t.core core = { c with retired := true, excluded := false }))
  ∧ (∀ (s : State) (unit k : Nat), exec (.errorCounterClear unit k) s = .next { s with mod := { s.mod with
      errs := updAt s.mod.errs unit fun l => updAt l k fun _ => 0 } })

/-- R358, R362, R364 to R369, R371: power, boot, cooling, reports and reliability. Choices of the model it rests on: log 4, 8, 75, 76, 77,
78, 79, 98. -/
def Obligations.TheModule : Prop := Spec.PowerAndBoot ∧ Spec.ThermalAndReports ∧ Spec.ReliabilityEvents

/-! ### Invariants -/

/-- The memory keeps its canonical form in every step. Choices of the model it rests on: log 3. -/
def Obligations.StepKeepsMemory : Prop := ∀ s t : State, s.memoryOk → step s = .next t → t.memoryOk

/-- At reset the module is off: nothing is resident, no message is in flight, the memory lists nothing, and the values that the spec states
for reset stand. Choices of the model it rests on: log 2, 3, 5, 6. -/
def Obligations.ResetIsOff : Prop :=
  let s := State.reset
  s.memoryOk ∧ s.mem = [] ∧ s.mod.power = .off ∧ s.threads = [] ∧ s.gangs = [] ∧ s.msgs = [] ∧ s.fab.timeoutUs = 20
  ∧ (∀ n, n < 18 → (s.station n).up = false ∧ (s.station n).urun = 16 ∧ (s.station n).erun = 64 ∧ (s.station n).heldDown = false)
  ∧ (∀ src dst k, k < 4 → slotOf (s.route src dst) k = none) ∧ s.mod.flashEpoch = 0 ∧ s.res.nextSeq = 1 ∧ s.mod.duty = 16
  ∧ ∀ i : Instr, i.event = true → ∃ t, exec i s = .next t

/-! ## Memory Order (chapter 7) -/

/-- R111 to R115: in an allowed execution a read of a byte takes it from a write that happens before the read, or from one after that write
in coherence order. A write that is program-ordered before a release, or is its own write, happens before what follows an acquire that
the release synchronises with; an acquire synchronises with a release at inclusive scopes when it reads from a write in the release's
sequence, and every arrival at a barrier's phase with every end of a wait for that phase in its group. What precedes the posting of a
command happens before the command's events, and the posting of a launch before the launch's. Choices of the model it rests on: log 101. -/
def Obligations.SynchronisedReadsSeeWrites : Prop :=
  ∀ x : Exec,
    (∀ w r l : Nat, x.allowed = true → w < x.events.length → r < x.events.length → x.hb w r = true → (x.ev w).writes = true →
      (x.ev r).reads = true → l ∈ (x.ev w).locs → l ∈ (x.ev r).locs → ∃ v, x.source r l = some v ∧ (v = w ∨ x.coAt l w v = true))
    ∧ (∀ w a b r : Nat, a < x.events.length → b < x.events.length → (w = a ∨ x.po w a = true) → x.sw a b = true →
        (b = r ∨ x.po b r = true) → x.hb w r = true)
    ∧ (∀ a b l v u : Nat, a ≠ b → x.inScope a b = true → a < x.events.length → b < x.events.length → (x.ev a).kind ≠ .f →
        (x.ev a).writes = true → (x.ev b).kind ≠ .f → (x.ev b).reads = true → v = a → x.source b l = some u → l ∈ (x.ev a).locs →
        l ∈ (x.ev b).locs → u ∈ x.releaseSeq l v → x.sw a b = true)
    ∧ (∀ a b bar n : Nat, a < x.events.length → b < x.events.length → (x.ev a).kind = .arrive bar n → (x.ev b).kind = .leave bar n →
        x.sameGroup a b = true → x.hb a b = true)
    ∧ (∀ a p b d : Nat, p < x.events.length → x.po a p = true → (x.ev p).kind = .posting d → x.cmdOf b = some d → x.hb a b = true)
    ∧ (∀ a b n : Nat, (x.ev a).kind = .launched n → (x.ev b).node = some n → x.hb a b = true)
end

