-- ==== Sys2Proof/Laws/Dispatch.lean ====
section
/-!
SUPPORT. The dispatch, arm by arm: the meaning that each instruction has.
-/
namespace Sys2Proof.Machine

theorem exec_iadd {pg d a b} (s : State) : exec (.iadd pg d a b) s = execIadd pg d a b s := rfl
theorem exec_isub {pg d a b} (s : State) : exec (.isub pg d a b) s = execIsub pg d a b s := rfl
theorem exec_iaddi {pg d a imm} (s : State) : exec (.iaddi pg d a imm) s = execIaddi pg d a imm s := rfl
theorem exec_imul {pg d a b} (s : State) : exec (.imul pg d a b) s = execImul pg d a b s := rfl
theorem exec_imad {pg d a b} (s : State) : exec (.imad pg d a b) s = execImad pg d a b s := rfl
theorem exec_imulhi {sg pg d a b} (s : State) : exec (.imulhi sg pg d a b) s = execImulhi sg pg d a b s := rfl
theorem exec_imulw {sg pg d a b} (s : State) : exec (.imulw sg pg d a b) s = execImulw sg pg d a b s := rfl
theorem exec_iaddSat {sg pg d a b} (s : State) : exec (.iaddSat sg pg d a b) s = execIaddSat sg pg d a b s := rfl
theorem exec_isubSat {sg pg d a b} (s : State) : exec (.isubSat sg pg d a b) s = execIsubSat sg pg d a b s := rfl
theorem exec_idiv {sg pg d a b} (s : State) : exec (.idiv sg pg d a b) s = execIdiv sg pg d a b s := rfl
theorem exec_irem {sg pg d a b} (s : State) : exec (.irem sg pg d a b) s = execIrem sg pg d a b s := rfl
theorem exec_imin {sg pg d a b} (s : State) : exec (.imin sg pg d a b) s = execImin sg pg d a b s := rfl
theorem exec_imax {sg pg d a b} (s : State) : exec (.imax sg pg d a b) s = execImax sg pg d a b s := rfl
theorem exec_iabs {pg d a} (s : State) : exec (.iabs pg d a) s = execIabs pg d a s := rfl
theorem exec_ineg {pg d a} (s : State) : exec (.ineg pg d a) s = execIneg pg d a s := rfl
theorem exec_not {pg d a} (s : State) : exec (.not pg d a) s = execNot pg d a s := rfl
theorem exec_and {pg d a b} (s : State) : exec (.and pg d a b) s = execAnd pg d a b s := rfl
theorem exec_or {pg d a b} (s : State) : exec (.or pg d a b) s = execOr pg d a b s := rfl
theorem exec_xor {pg d a b} (s : State) : exec (.xor pg d a b) s = execXor pg d a b s := rfl
theorem exec_andn {pg d a b} (s : State) : exec (.andn pg d a b) s = execAndn pg d a b s := rfl
theorem exec_shl {pg d a b} (s : State) : exec (.shl pg d a b) s = execShl pg d a b s := rfl
theorem exec_shr {pg d a b} (s : State) : exec (.shr pg d a b) s = execShr pg d a b s := rfl
theorem exec_sar {pg d a b} (s : State) : exec (.sar pg d a b) s = execSar pg d a b s := rfl
theorem exec_shli {pg d a sh} (s : State) : exec (.shli pg d a sh) s = execShli pg d a sh s := rfl
theorem exec_shri {pg d a sh} (s : State) : exec (.shri pg d a sh) s = execShri pg d a sh s := rfl
theorem exec_sari {pg d a sh} (s : State) : exec (.sari pg d a sh) s = execSari pg d a sh s := rfl
theorem exec_popc {pg d a} (s : State) : exec (.popc pg d a) s = execPopc pg d a s := rfl
theorem exec_clz {pg d a} (s : State) : exec (.clz pg d a) s = execClz pg d a s := rfl
theorem exec_ctz {pg d a} (s : State) : exec (.ctz pg d a) s = execCtz pg d a s := rfl
theorem exec_brev {pg d a} (s : State) : exec (.brev pg d a) s = execBrev pg d a s := rfl
theorem exec_bfx {sg pg d a b} (s : State) : exec (.bfx sg pg d a b) s = execBfx sg pg d a b s := rfl
theorem exec_bfi {pg d a b} (s : State) : exec (.bfi pg d a b) s = execBfi pg d a b s := rfl
theorem exec_bmix {pg d a b} (s : State) : exec (.bmix pg d a b) s = execBmix pg d a b s := rfl
theorem exec_sel {pg d a b} (s : State) : exec (.sel pg d a b) s = execSel pg d a b s := rfl
theorem exec_mov {pg d a} (s : State) : exec (.mov pg d a) s = execMov pg d a s := rfl
theorem exec_movi {pg d imm} (s : State) : exec (.movi pg d imm) s = execMovi pg d imm s := rfl
theorem exec_movh {d h} (s : State) : exec (.movh d h) s = execMovh d h s := rfl
theorem exec_movs {pg d sel} (s : State) : exec (.movs pg d sel) s = execMovs pg d sel s := rfl
theorem exec_icmp {cc sg pg pd a b} (s : State) : exec (.icmp cc sg pg pd a b) s = execIcmp cc sg pg pd a b s := rfl
theorem exec_icmpi {cc sg pg pd a imm} (s : State) : exec (.icmpi cc sg pg pd a imm) s = execIcmpi cc sg pg pd a imm s := rfl
theorem exec_add64 {pg d a b} (s : State) : exec (.add64 pg d a b) s = execAdd64 pg d a b s := rfl
theorem exec_sub64 {pg d a b} (s : State) : exec (.sub64 pg d a b) s = execSub64 pg d a b s := rfl
theorem exec_lea {pg d a sh} (s : State) : exec (.lea pg d a sh) s = execLea pg d a sh s := rfl
theorem exec_shl64 {pg d a b} (s : State) : exec (.shl64 pg d a b) s = execShl64 pg d a b s := rfl
theorem exec_shr64 {pg d a b} (s : State) : exec (.shr64 pg d a b) s = execShr64 pg d a b s := rfl
theorem exec_bra {pg disp} (s : State) : exec (.bra pg disp) s = execBra pg disp s := rfl
theorem exec_brx {pg a n1 tab} (s : State) : exec (.brx pg a n1 tab) s = execBrx pg a n1 tab s := rfl
theorem exec_call {pg disp} (s : State) : exec (.call pg disp) s = execCall pg disp s := rfl
theorem exec_ret {pg} (s : State) : exec (.ret pg) s = execRet pg s := rfl
theorem exec_joinat {disp} (s : State) : exec (.joinat disp) s = execJoinat disp s := rfl
theorem exec_exit {pg} (s : State) : exec (.exit pg) s = execExit pg s := rfl
theorem exec_trap {pg imm} (s : State) : exec (.trap pg imm) s = execTrap pg imm s := rfl
theorem exec_eret {pg} (s : State) : exec (.eret pg) s = execEret pg s := rfl
theorem exec_yield {pg} (s : State) : exec (.yield pg) s = execYield pg s := rfl
theorem exec_nop {pg} (s : State) : exec (.nop pg) s = execNop pg s := rfl
theorem exec_winb {pg n} (s : State) : exec (.winb pg n) s = execWinb pg n s := rfl
theorem exec_rgn {f1 l1 f2 l2} (s : State) : exec (.rgn f1 l1 f2 l2) s = execRgn f1 l1 f2 l2 s := rfl
theorem exec_sigchk {imm} (s : State) : exec (.sigchk imm) s = execSigchk imm s := rfl
theorem exec_barArv {pg a b} (s : State) : exec (.barArv pg a b) s = execBarArv pg a b s := rfl
theorem exec_barWait {pg a} (s : State) : exec (.barWait pg a) s = execBarWait pg a s := rfl
theorem exec_barSync {pg a b} (s : State) : exec (.barSync pg a b) s = execBarSync pg a b s := rfl
theorem exec_gbind {pg n a} (s : State) : exec (.gbind pg n a) s = execGbind pg n a s := rfl
theorem exec_gstat {pg pd n} (s : State) : exec (.gstat pg pd n) s = execGstat pg pd n s := rfl
theorem exec_gloop {pg n dim disp} (s : State) : exec (.gloop pg n dim disp) s = execGloop pg n dim disp s := rfl
theorem exec_rgwait {pg a disp} (s : State) : exec (.rgwait pg a disp) s = execRgwait pg a disp s := rfl
theorem exec_rgdone {pg a} (s : State) : exec (.rgdone pg a) s = execRgdone pg a s := rfl
theorem exec_cpyY {pg d a b lab} (s : State) : exec (.cpyY pg d a b lab) s = execCpyY pg d a b lab s := rfl
theorem exec_fadd {pg d a b} (s : State) : exec (.fadd pg d a b) s = execFadd pg d a b s := rfl
theorem exec_fsub {pg d a b} (s : State) : exec (.fsub pg d a b) s = execFsub pg d a b s := rfl
theorem exec_fmul {pg d a b} (s : State) : exec (.fmul pg d a b) s = execFmul pg d a b s := rfl
theorem exec_ffma {pg d a b} (s : State) : exec (.ffma pg d a b) s = execFfma pg d a b s := rfl
theorem exec_fdiv {pg d a b} (s : State) : exec (.fdiv pg d a b) s = execFdiv pg d a b s := rfl
theorem exec_sqrt {pg d a} (s : State) : exec (.sqrt pg d a) s = execSqrt pg d a s := rfl
theorem exec_fscale {pg d a b} (s : State) : exec (.fscale pg d a b) s = execFscale pg d a b s := rfl
theorem exec_fmin {pg d a b} (s : State) : exec (.fmin pg d a b) s = execFmin pg d a b s := rfl
theorem exec_fmax {pg d a b} (s : State) : exec (.fmax pg d a b) s = execFmax pg d a b s := rfl
theorem exec_fabs {pg d a} (s : State) : exec (.fabs pg d a) s = execFabs pg d a s := rfl
theorem exec_fneg {pg d a} (s : State) : exec (.fneg pg d a) s = execFneg pg d a s := rfl
theorem exec_fcmp {cc pg pd a b} (s : State) : exec (.fcmp cc pg pd a b) s = execFcmp cc pg pd a b s := rfl
theorem exec_frint {rm pg d a} (s : State) : exec (.frint rm pg d a) s = execFrint rm pg d a s := rfl
theorem exec_fclass {pg d a} (s : State) : exec (.fclass pg d a) s = execFclass pg d a s := rfl
theorem exec_rcp {pg d a} (s : State) : exec (.rcp pg d a) s = execRcp pg d a s := rfl
theorem exec_rsq {pg d a} (s : State) : exec (.rsq pg d a) s = execRsq pg d a s := rfl
theorem exec_exp2 {pg d a} (s : State) : exec (.exp2 pg d a) s = execExp2 pg d a s := rfl
theorem exec_log2 {pg d a} (s : State) : exec (.log2 pg d a) s = execLog2 pg d a s := rfl
theorem exec_sinpi {pg d a} (s : State) : exec (.sinpi pg d a) s = execSinpi pg d a s := rfl
theorem exec_cospi {pg d a} (s : State) : exec (.cospi pg d a) s = execCospi pg d a s := rfl
theorem exec_tanh {pg d a} (s : State) : exec (.tanh pg d a) s = execTanh pg d a s := rfl
theorem exec_hadd2 {bf pg d a b} (s : State) : exec (.hadd2 bf pg d a b) s = execHadd2 bf pg d a b s := rfl
theorem exec_hmul2 {bf pg d a b} (s : State) : exec (.hmul2 bf pg d a b) s = execHmul2 bf pg d a b s := rfl
theorem exec_hfma2 {bf pg d a b} (s : State) : exec (.hfma2 bf pg d a b) s = execHfma2 bf pg d a b s := rfl
theorem exec_hmin2 {bf pg d a b} (s : State) : exec (.hmin2 bf pg d a b) s = execHmin2 bf pg d a b s := rfl
theorem exec_hmax2 {bf pg d a b} (s : State) : exec (.hmax2 bf pg d a b) s = execHmax2 bf pg d a b s := rfl
theorem exec_setfpc {rm ftz pg} (s : State) : exec (.setfpc rm ftz pg) s = execSetfpc rm ftz pg s := rfl
theorem exec_cvt {toF32 ty elt pg d a} (s : State) : exec (.cvt toF32 ty elt pg d a) s = execCvt toF32 ty elt pg d a s := rfl
theorem exec_cvtSat {ty elt pg d a} (s : State) : exec (.cvtSat ty elt pg d a) s = execCvtSat ty elt pg d a s := rfl
theorem exec_qmx {pg d a sp} (s : State) : exec (.qmx pg d a sp) s = execQmx pg d a sp s := rfl
theorem exec_qdx {pg d a sp dd} (s : State) : exec (.qdx pg d a sp dd) s = execQdx pg d a sp dd s := rfl
theorem exec_dqmx {pg d a} (s : State) : exec (.dqmx pg d a) s = execDqmx pg d a s := rfl
theorem exec_dqdx {pg d a} (s : State) : exec (.dqdx pg d a) s = execDqdx pg d a s := rfl
theorem exec_plane {pg d a n} (s : State) : exec (.plane pg d a n) s = execPlane pg d a n s := rfl
theorem exec_xlaneG {pg d a b} (s : State) : exec (.xlaneG pg d a b) s = execXlaneG pg d a b s := rfl
theorem exec_xlaneRot {pg d a b} (s : State) : exec (.xlaneRot pg d a b) s = execXlaneRot pg d a b s := rfl
theorem exec_xlaneX {pg d a b} (s : State) : exec (.xlaneX pg d a b) s = execXlaneX pg d a b s := rfl
theorem exec_ptest {c pg pd ps} (s : State) : exec (.ptest c pg pd ps) s = execPtest c pg pd ps s := rfl
theorem exec_pmask {pg d ps} (s : State) : exec (.pmask pg d ps) s = execPmask pg d ps s := rfl
theorem exec_lfold {op pg d a} (s : State) : exec (.lfold op pg d a) s = execLfold op pg d a s := rfl
theorem exec_lkey {pg d a} (s : State) : exec (.lkey pg d a) s = execLkey pg d a s := rfl
theorem exec_ld {w pg d a off7 ext} (s : State) : exec (.ld w pg d a off7 ext) s = execLd w pg d a off7 ext s := rfl
theorem exec_st {w pg d a off7 ext} (s : State) : exec (.st w pg d a off7 ext) s = execSt w pg d a off7 ext s := rfl
theorem exec_ldB128Signed {w pg d a ext} (s : State) : exec (.ldB128Signed w pg d a ext) s = execLdB128Signed w pg d a ext s := rfl
theorem exec_stB128 {pg d a ext} (s : State) : exec (.stB128 pg d a ext) s = execStB128 pg d a ext s := rfl
theorem exec_ldAcq {w sc pg d a ext} (s : State) : exec (.ldAcq w sc pg d a ext) s = execLdAcq w sc pg d a ext s := rfl
theorem exec_stRel {w sc pg d a ext} (s : State) : exec (.stRel w sc pg d a ext) s = execStRel w sc pg d a ext s := rfl
theorem exec_ldw {w pg d a ext} (s : State) : exec (.ldw w pg d a ext) s = execLdw w pg d a ext s := rfl
theorem exec_lds {w pg d a} (s : State) : exec (.lds w pg d a) s = execLds w pg d a s := rfl
theorem exec_sts {w pg d a} (s : State) : exec (.sts w pg d a) s = execSts w pg d a s := rfl
theorem exec_ldk {w pg d a ext} (s : State) : exec (.ldk w pg d a ext) s = execLdk w pg d a ext s := rfl
theorem exec_atomAddS32 {pg d a b} (s : State) : exec (.atomAddS32 pg d a b) s = execAtomAddS32 pg d a b s := rfl
theorem exec_atom {op ord pg d a v} (s : State) : exec (.atom op ord pg d a v) s = execAtom op ord pg d a v s := rfl
theorem exec_atoms {op pg d a v} (s : State) : exec (.atoms op pg d a v) s = execAtoms op pg d a v s := rfl
theorem exec_atomsBcast {max sg pg d a v} (s : State) : exec (.atomsBcast max sg pg d a v) s = execAtomsBcast max sg pg d a v s := rfl
theorem exec_pf {pg a ext} (s : State) : exec (.pf pg a ext) s = execPf pg a ext s := rfl
theorem exec_lease {pg d a} (s : State) : exec (.lease pg d a) s = execLease pg d a s := rfl
theorem exec_unlease {pg} (s : State) : exec (.unlease pg) s = execUnlease pg s := rfl
theorem exec_wchk {pg pd} (s : State) : exec (.wchk pg pd) s = execWchk pg pd s := rfl
theorem exec_waitc {c sc pg d a} (s : State) : exec (.waitc c sc pg d a) s = execWaitc c sc pg d a s := rfl
theorem exec_fence {ord sc pg} (s : State) : exec (.fence ord sc pg) s = execFence ord sc pg s := rfl
theorem exec_dqpush {pg pd d a} (s : State) : exec (.dqpush pg pd d a) s = execDqpush pg pd d a s := rfl
theorem exec_dqpop {pg pd d a} (s : State) : exec (.dqpop pg pd d a) s = execDqpop pg pd d a s := rfl
theorem exec_dqsteal {pg pd d a} (s : State) : exec (.dqsteal pg pd d a) s = execDqsteal pg pd d a s := rfl
theorem exec_ctradd {pg d a b} (s : State) : exec (.ctradd pg d a b) s = execCtradd pg d a b s := rfl
theorem exec_ctrwait {pg d a b} (s : State) : exec (.ctrwait pg d a b) s = execCtrwait pg d a b s := rfl
theorem exec_ldf {w pg d o h} (s : State) : exec (.ldf w pg d o h) s = execLdf w pg d o h s := rfl
theorem exec_stf {w pg d o h} (s : State) : exec (.stf w pg d o h) s = execStf w pg d o h s := rfl
theorem exec_stfUrg {w pg d o h} (s : State) : exec (.stfUrg w pg d o h) s = execStfUrg w pg d o h s := rfl
theorem exec_fencef {pg d o h} (s : State) : exec (.fencef pg d o h) s = execFencef pg d o h s := rfl
theorem exec_atomf {op ord pg d o h a} (s : State) : exec (.atomf op ord pg d o h a) s = execAtomf op ord pg d o h a s := rfl
theorem exec_colpost {pg d a} (s : State) : exec (.colpost pg d a) s = execColpost pg d a s := rfl
theorem exec_mxacq {pg pd a} (s : State) : exec (.mxacq pg pd a) s = execMxacq pg pd a s := rfl
theorem exec_mxrel {pg a} (s : State) : exec (.mxrel pg a) s = execMxrel pg a s := rfl
theorem exec_mxld {pg d a} (s : State) : exec (.mxld pg d a) s = execMxld pg d a s := rfl
theorem exec_mxst {f pg d a} (s : State) : exec (.mxst f pg d a) s = execMxst f pg d a s := rfl
theorem exec_mxclr {pg d a} (s : State) : exec (.mxclr pg d a) s = execMxclr pg d a s := rfl
theorem exec_sqwait {pg a} (s : State) : exec (.sqwait pg a) s = execSqwait pg a s := rfl
theorem exec_gath {pg d a x} (s : State) : exec (.gath pg d a x) s = execGath pg d a x s := rfl
theorem exec_cpy {out t pg d a x} (s : State) : exec (.cpy out t pg d a x) s = execCpy out t pg d a x s := rfl
theorem exec_mxmon {pg d c} (s : State) : exec (.mxmon pg d c) s = execMxmon pg d c s := rfl
theorem exec_vwr {pg d a n} (s : State) : exec (.vwr pg d a n) s = execVwr pg d a n s := rfl
theorem exec_vrd {pg d a n} (s : State) : exec (.vrd pg d a n) s = execVrd pg d a n s := rfl
theorem exec_mma {pg d a b desc} (s : State) : exec (.mma pg d a b desc) s = execMma pg d a b desc s := rfl
theorem exec_mmaSp {pg d a b desc} (s : State) : exec (.mmaSp pg d a b desc) s = execMmaSp pg d a b desc s := rfl
theorem exec_mmaOl {pg d a b desc x} (s : State) : exec (.mmaOl pg d a b desc x) s = execMmaOl pg d a b desc x s := rfl
theorem exec_mmaSpOl {pg d a b desc x} (s : State) : exec (.mmaSpOl pg d a b desc x) s = execMmaSpOl pg d a b desc x s := rfl
theorem exec_brk {pg} (s : State) : exec (.brk pg) s = execBrk pg s := rfl
theorem exec_tick {pg d} (s : State) : exec (.tick pg d) s = execTick pg d s := rfl
theorem exec_stallCountExpiry {t e} (s : State) : exec (.stallCountExpiry t e) s = execStallCountExpiry t e s := rfl
theorem exec_splitPark {t e} (s : State) : exec (.splitPark t e) s = execSplitPark t e s := rfl
theorem exec_monitorRegistration {id} (s : State) : exec (.monitorRegistration id) s = execMonitorRegistration id s := rfl
theorem exec_monitorRetry {id} (s : State) : exec (.monitorRetry id) s = execMonitorRetry id s := rfl
theorem exec_copyLanded {t e} (s : State) : exec (.copyLanded t e) s = execCopyLanded t e s := rfl
theorem exec_commandStart {gang id} (s : State) : exec (.commandStart gang id) s = execCommandStart gang id s := rfl
theorem exec_commandComplete {gang id} (s : State) : exec (.commandComplete gang id) s = execCommandComplete gang id s := rfl
theorem exec_confirm {serial} (s : State) : exec (.confirm serial) s = execConfirm serial s := rfl
theorem exec_watchVerdict {serial strike} (s : State) : exec (.watchVerdict serial strike) s = execWatchVerdict serial strike s := rfl
theorem exec_watchTimeout {serial} (s : State) : exec (.watchTimeout serial) s = execWatchTimeout serial s := rfl
theorem exec_leaseExpiry {t} (s : State) : exec (.leaseExpiry t) s = execLeaseExpiry t s := rfl
theorem exec_getS {src srv line} (s : State) : exec (.getS src srv line) s = execGetS src srv line s := rfl
theorem exec_getM {src srv line} (s : State) : exec (.getM src srv line) s = execGetM src srv line s := rfl
theorem exec_upg {src srv line} (s : State) : exec (.upg src srv line) s = execUpg src srv line s := rfl
theorem exec_putM {src srv line data mask ret} (s : State) : exec (.putM src srv line data mask ret) s = execPutM src srv line data mask ret s := rfl
theorem exec_putC {src srv line} (s : State) : exec (.putC src srv line) s = execPutC src srv line s := rfl
theorem exec_inv {dst srv line} (s : State) : exec (.inv dst srv line) s = execInv dst srv line s := rfl
theorem exec_fwdS {dst srv line} (s : State) : exec (.fwdS dst srv line) s = execFwdS dst srv line s := rfl
theorem exec_fwdM {dst srv line} (s : State) : exec (.fwdM dst srv line) s = execFwdM dst srv line s := rfl
theorem exec_data {dst srv line dat ver g ret} (s : State) : exec (.data dst srv line dat ver g ret) s = execData dst srv line dat ver g ret s := rfl
theorem exec_grant {dst srv line ver ret} (s : State) : exec (.grant dst srv line ver ret) s = execGrant dst srv line ver ret s := rfl
theorem exec_invAck {src srv line} (s : State) : exec (.invAck src srv line) s = execInvAck src srv line s := rfl
theorem exec_snpData {src srv line dat dirty} (s : State) : exec (.snpData src srv line dat dirty) s = execSnpData src srv line dat dirty s := rfl
theorem exec_wback {dst srv line} (s : State) : exec (.wback dst srv line) s = execWback dst srv line s := rfl
theorem exec_wbstale {dst srv line} (s : State) : exec (.wbstale dst srv line) s = execWbstale dst srv line s := rfl
theorem exec_abort {port cls vc} (s : State) : exec (.abort port cls vc) s = execAbort port cls vc s := rfl
theorem exec_wr {port p} (s : State) : exec (.wr port p) s = execWr port p s := rfl
theorem exec_rdreq {port p} (s : State) : exec (.rdreq port p) s = execRdreq port p s := rfl
theorem exec_rdrsp {port p} (s : State) : exec (.rdrsp port p) s = execRdrsp port p s := rfl
theorem exec_atomPacket {port p} (s : State) : exec (.atomPacket port p) s = execAtomPacket port p s := rfl
theorem exec_atomrsp {port p} (s : State) : exec (.atomrsp port p) s = execAtomrsp port p s := rfl
theorem exec_ack {port p} (s : State) : exec (.ack port p) s = execAck port p s := rfl
theorem exec_close {port p} (s : State) : exec (.close port p) s = execClose port p s := rfl
theorem exec_closeack {port p} (s : State) : exec (.closeack port p) s = execCloseack port p s := rfl
theorem exec_coltrig {port p} (s : State) : exec (.coltrig port p) s = execColtrig port p s := rfl
theorem exec_expred {port p} (s : State) : exec (.expred port p) s = execExpred port p s := rfl
theorem exec_reddata {port p} (s : State) : exec (.reddata port p) s = execReddata port p s := rfl
theorem exec_linkDown {station} (s : State) : exec (.linkDown station) s = execLinkDown station s := rfl
theorem exec_acknowledgementTimeoutExpiry {src dst cls} (s : State) : exec (.acknowledgementTimeoutExpiry src dst cls) s = execAcknowledgementTimeoutExpiry src dst cls s := rfl
theorem exec_flowIdleClose {src dst cls} (s : State) : exec (.flowIdleClose src dst cls) s = execFlowIdleClose src dst cls s := rfl
theorem exec_closeResend {src dst cls} (s : State) : exec (.closeResend src dst cls) s = execCloseResend src dst cls s := rfl
theorem exec_packetLifetimeExpiry {station idx} (s : State) : exec (.packetLifetimeExpiry station idx) s = execPacketLifetimeExpiry station idx s := rfl
theorem exec_entryFire {qp pos} (s : State) : exec (.entryFire qp pos) s = execEntryFire qp pos s := rfl
theorem exec_localCompletion {qp pos} (s : State) : exec (.localCompletion qp pos) s = execLocalCompletion qp pos s := rfl
theorem exec_remoteCompletion {qp pos} (s : State) : exec (.remoteCompletion qp pos) s = execRemoteCompletion qp pos s := rfl
theorem exec_nodeComplete {job node} (s : State) : exec (.nodeComplete job node) s = execNodeComplete job node s := rfl
theorem exec_gangPlacement (s : State) : exec (.gangPlacement) s = execGangPlacement s := rfl
theorem exec_ageIntervalExpiry {launch} (s : State) : exec (.ageIntervalExpiry launch) s = execAgeIntervalExpiry launch s := rfl
theorem exec_drainEscalation {launch} (s : State) : exec (.drainEscalation launch) s = execDrainEscalation launch s := rfl
theorem exec_pagerTimeoutExpiry {token} (s : State) : exec (.pagerTimeoutExpiry token) s = execPagerTimeoutExpiry token s := rfl
theorem exec_illegal {w} (s : State) : exec (.illegal w) s = execIllegal w s := rfl
theorem exec_flitPosition {station} (s : State) : exec (.flitPosition station) s = execFlitPosition station s := rfl
theorem exec_map {space va size r w x hw home} (s : State) : exec (.map space va size r w x hw home) s = execMap space va size r w x hw home s := rfl
theorem exec_unmap {space va size} (s : State) : exec (.unmap space va size) s = execUnmap space va size s := rfl
theorem exec_protect {space va size r w x} (s : State) : exec (.protect space va size r w x) s = execProtect space va size r w x s := rfl
theorem exec_setmode {space va size hw} (s : State) : exec (.setmode space va size hw) s = execSetmode space va size hw s := rfl
theorem exec_migrate {space va size} (s : State) : exec (.migrate space va size) s = execMigrate space va size s := rfl
theorem exec_regpager {space va size proc} (s : State) : exec (.regpager space va size proc) s = execRegpager space va size proc s := rfl
theorem exec_supply {space token buf status} (s : State) : exec (.supply space token buf status) s = execSupply space token buf status s := rfl
theorem exec_capset {space slot body} (s : State) : exec (.capset space slot body) s = execCapset space slot body s := rfl
theorem exec_caprevoke {space slot} (s : State) : exec (.caprevoke space slot) s = execCaprevoke space slot s := rfl
theorem exec_capallow {space slot bytes} (s : State) : exec (.capallow space slot bytes) s = execCapallow space slot bytes s := rfl
theorem exec_pin {space va size} (s : State) : exec (.pin space va size) s = execPin space va size s := rfl
theorem exec_unpin {space va size} (s : State) : exec (.unpin space va size) s = execUnpin space va size s := rfl
theorem exec_qpalloc {space} (s : State) : exec (.qpalloc space) s = execQpalloc space s := rfl
theorem exec_qpreset {space qp} (s : State) : exec (.qpreset space qp) s = execQpreset space qp s := rfl
theorem exec_qpfree {space qp} (s : State) : exec (.qpfree space qp) s = execQpfree space qp s := rfl
theorem exec_chunkset {space bytes} (s : State) : exec (.chunkset space bytes) s = execChunkset space bytes s := rfl
theorem exec_mapexec {space va size token} (s : State) : exec (.mapexec space va size token) s = execMapexec space va size token s := rfl
theorem exec_scrubPass {finds} (s : State) : exec (.scrubPass finds) s = execScrubPass finds s := rfl
theorem exec_spareLaneRemap {core quad lane} (s : State) : exec (.spareLaneRemap core quad lane) s = execSpareLaneRemap core quad lane s := rfl
theorem exec_errorCounterClear {unit idx} (s : State) : exec (.errorCounterClear unit idx) s = execErrorCounterClear unit idx s := rfl
theorem exec_powerOn {a b failStep downStations badLanes} (s : State) : exec (.powerOn a b failStep downStations badLanes) s = execPowerOn a b failStep downStations badLanes s := rfl
theorem exec_powerRemoved (s : State) : exec (.powerRemoved) s = execPowerRemoved s := rfl
theorem exec_thermalTrip {die} (s : State) : exec (.thermalTrip die) s = execThermalTrip die s := rfl
theorem exec_thermalDutyStep {temps} (s : State) : exec (.thermalDutyStep temps) s = execThermalDutyStep temps s := rfl
theorem exec_operatorCap {watts} (s : State) : exec (.operatorCap watts) s = execOperatorCap watts s := rfl
theorem exec_attestationReport {nonce} (s : State) : exec (.attestationReport nonce) s = execAttestationReport nonce s := rfl
theorem exec_telemetryBlock {power temps} (s : State) : exec (.telemetryBlock power temps) s = execTelemetryBlock power temps s := rfl
theorem exec_malformedHeaderOrFlit {port f} (s : State) : exec (.malformedHeaderOrFlit port f) s = execMalformedHeaderOrFlit port f s := rfl
theorem exec_linkRetraining {link} (s : State) : exec (.linkRetraining link) s = execLinkRetraining link s := rfl
theorem exec_standardTransport {m} (s : State) : exec (.standardTransport m) s = execStandardTransport m s := rfl
theorem exec_processorTimeQuota {token} (s : State) : exec (.processorTimeQuota token) s = execProcessorTimeQuota token s := rfl
theorem exec_load {r space va size} (s : State) : exec (.load r space va size) s = execLoad r space va size s := rfl
theorem exec_unload {r kernel} (s : State) : exec (.unload r kernel) s = execUnload r kernel s := rfl
theorem exec_post {r space va} (s : State) : exec (.post r space va) s = execPost r space va s := rfl
theorem exec_cancel {r kind id unit} (s : State) : exec (.cancel r kind id unit) s = execCancel r kind id unit s := rfl
theorem exec_drain {r launch} (s : State) : exec (.drain r launch) s = execDrain r launch s := rfl
theorem exec_undrain {r launch} (s : State) : exec (.undrain r launch) s = execUndrain r launch s := rfl
theorem exec_resume {r stop} (s : State) : exec (.resume r stop) s = execResume r stop s := rfl
theorem exec_done {r job unit} (s : State) : exec (.done r job unit) s = execDone r job unit s := rfl
theorem exec_sync {r} (s : State) : exec (.sync r) s = execSync r s := rfl
theorem exec_routeTableEntry {r index value} (s : State) : exec (.routeTableEntry r index value) s = execRouteTableEntry r index value s := rfl
theorem exec_stationArbitrationRegister {r index value} (s : State) : exec (.stationArbitrationRegister r index value) s = execStationArbitrationRegister r index value s := rfl
theorem exec_stationReEnable {r index value} (s : State) : exec (.stationReEnable r index value) s = execStationReEnable r index value s := rfl
theorem exec_acknowledgementTimeout {r index value} (s : State) : exec (.acknowledgementTimeout r index value) s = execAcknowledgementTimeout r index value s := rfl
theorem exec_rollbackRetries {r index value} (s : State) : exec (.rollbackRetries r index value) s = execRollbackRetries r index value s := rfl
theorem exec_undoLogSize {r index value} (s : State) : exec (.undoLogSize r index value) s = execUndoLogSize r index value s := rfl
theorem exec_scrubInterval {r index value} (s : State) : exec (.scrubInterval r index value) s = execScrubInterval r index value s := rfl
theorem exec_pagerTimeout {r index value} (s : State) : exec (.pagerTimeout r index value) s = execPagerTimeout r index value s := rfl
theorem exec_defaultDrainInterval {r index value} (s : State) : exec (.defaultDrainInterval r index value) s = execDefaultDrainInterval r index value s := rfl
theorem exec_capabilityTableSize {r index value} (s : State) : exec (.capabilityTableSize r index value) s = execCapabilityTableSize r index value s := rfl
theorem exec_antiRollbackFloorRaise {r index value} (s : State) : exec (.antiRollbackFloorRaise r index value) s = execAntiRollbackFloorRaise r index value s := rfl

end Sys2Proof.Machine
end

