-- ==== Sys2Proof/Laws/Encoding.lean ====
section
/-!
SUPPORT. The bits of the encoder's fields as the decoder reads them: slices of appended fields, register and sub-field codes, and
the formats of R198.
-/
namespace Sys2Proof

/-! ## Slices -/

theorem append_toNat {m n : Nat} (x : BitVec m) (y : BitVec n) : (x ++ y).toNat = x.toNat * 2 ^ n + y.toNat := by
  rw [BitVec.toNat_append, ← Nat.shiftLeft_add_eq_or_of_lt y.isLt, Nat.shiftLeft_eq]

theorem slice_append_low {m n s l : Nat} (x : BitVec m) (y : BitVec n) (h : s + l ≤ n) :
    (x ++ y).extractLsb' s l = y.extractLsb' s l := by
  apply BitVec.eq_of_getLsbD_eq
  intro i hi
  have : s + i < n := by omega
  simp [BitVec.getLsbD_extractLsb', BitVec.getLsbD_append, this]

theorem slice_append_high {m n s l : Nat} (x : BitVec m) (y : BitVec n) (h : n ≤ s) :
    (x ++ y).extractLsb' s l = x.extractLsb' (s - n) l := by
  apply BitVec.eq_of_getLsbD_eq
  intro i hi
  have h1 : ¬ s + i < n := by omega
  have h2 : s + i - n = s - n + i := by omega
  simp [BitVec.getLsbD_extractLsb', BitVec.getLsbD_append, h1, h2]

theorem slice_full {w : Nat} (x : BitVec w) : x.extractLsb' 0 w = x := by
  apply BitVec.eq_of_getLsbD_eq
  intro i hi
  simp [hi]

theorem slice_slice {w s l s' l' : Nat} (x : BitVec w) (h : s' + l' ≤ l) :
    (x.extractLsb' s l).extractLsb' s' l' = x.extractLsb' (s + s') l' := by
  apply BitVec.eq_of_getLsbD_eq
  intro i hi
  have h1 : s' + i < l := by omega
  simp [hi, h1, Nat.add_assoc]

theorem slice_join {w s l m t : Nat} (x : BitVec w) (h : t = s + m) :
    x.extractLsb' t l ++ x.extractLsb' s m = x.extractLsb' s (l + m) := by
  subst h
  apply BitVec.eq_of_getLsbD_eq
  intro i hi
  rw [BitVec.getLsbD_append, BitVec.getLsbD_extractLsb', BitVec.getLsbD_extractLsb', BitVec.getLsbD_extractLsb']
  by_cases h1 : i < m
  · simp [h1, hi]
  · have h2 : s + m + (i - m) = s + i := by omega
    have h3 : i - m < l := by omega
    simp [h1, h2, h3, hi]

/-! ## Words and formats (R198) -/

@[simp] theorem Raw.ofWord_toWord (r : Raw) : Raw.ofWord r.toWord = r := by
  obtain ⟨op, n, p, d, a, b⟩ := r
  simp only [Raw.ofWord, Raw.toWord, Raw.mk.injEq]
  have := n.isLt; have := p.isLt; have := d.isLt; have := a.isLt; have := b.isLt
  refine ⟨?_, ?_, ?_, ?_, ?_, ?_⟩ <;>
    · apply BitVec.eq_of_toNat_eq
      simp only [BitVec.extractLsb'_toNat, append_toNat, Nat.shiftRight_eq_div_pow]
      omega

@[simp] theorem Raw.toWord_ofWord (w : Word) : (Raw.ofWord w).toWord = w := by
  simp only [Raw.ofWord, Raw.toWord]
  simp only [slice_join, slice_full]

@[simp] theorem fin8_bits3 (p : Fin 8) : fin8 (bits3 p) = p := by revert p; decide

section
variable (op : BitVec 7) (pg : Guard) (d a b : BitVec 7)

@[simp] theorem f3_op : (f3 op pg d a b).op = op := rfl
@[simp] theorem f3_d : (f3 op pg d a b).d = d := rfl
@[simp] theorem f3_a : (f3 op pg d a b).a = a := rfl
@[simp] theorem f3_b : (f3 op pg d a b).b = b := rfl
@[simp] theorem f3_pg : (f3 op pg d a b).pg = pg := by
  obtain ⟨n, p⟩ := pg
  cases n <;> simp [f3, Raw.pg]
@[simp] theorem f14_op (x : BitVec 14) : (f14 op pg d x).op = op := rfl
@[simp] theorem f14_d (x : BitVec 14) : (f14 op pg d x).d = d := rfl
@[simp] theorem f14_pg (x : BitVec 14) : (f14 op pg d x).pg = pg := f3_pg ..
@[simp] theorem f14_imm14 (x : BitVec 14) : (f14 op pg d x).imm14 = x :=
  (slice_join (s := 0) (m := 7) (l := 7) x rfl).trans (slice_full x)
@[simp] theorem f21_op (x : BitVec 21) : (f21 op pg x).op = op := rfl
@[simp] theorem f21_pg (x : BitVec 21) : (f21 op pg x).pg = pg := f3_pg ..
@[simp] theorem f21_n (x : BitVec 21) : (f21 op guard0 x).n = 0 := rfl
@[simp] theorem f21_p (x : BitVec 21) : (f21 op guard0 x).p = 0 := rfl
@[simp] theorem f21_d (x : BitVec 21) : (f21 op pg x).d = x.extractLsb' 14 7 := rfl
theorem f21_a (x : BitVec 21) : (f21 op pg x).a = x.extractLsb' 7 7 := rfl
theorem f21_b (x : BitVec 21) : (f21 op pg x).b = x.extractLsb' 0 7 := rfl
@[simp] theorem f21_disp21 (x : BitVec 21) : (f21 op pg x).disp21 = x := by
  show x.extractLsb' 14 7 ++ x.extractLsb' 7 7 ++ x.extractLsb' 0 7 = x
  simp only [slice_join, slice_full]
@[simp] theorem f21_imm16 (x : BitVec 21) : (f21 op pg x).imm16 = x.extractLsb' 0 16 := by
  show (x.extractLsb' 14 7).extractLsb' 0 2 ++ x.extractLsb' 7 7 ++ x.extractLsb' 0 7 = _
  rw [slice_slice x (by decide)]
  simp only [slice_join]
@[simp] theorem f25_op (x : BitVec 25) : (f25 op x).op = op := rfl
@[simp] theorem f25_low25 (x : BitVec 25) : (f25 op x).low25 = x := by
  show x.extractLsb' 24 1 ++ x.extractLsb' 21 3 ++ x.extractLsb' 14 7 ++ x.extractLsb' 7 7 ++ x.extractLsb' 0 7 = x
  simp only [slice_join, slice_full]
end

section
variable (op : BitVec 7) (pg : Guard) (d : Reg) (o : OPair) (h : Fin 24) (v : BitVec 3)
@[simp] theorem fm_op : (fm op pg d o h v).op = op := rfl
@[simp] theorem fm_d : (fm op pg d o h v).d = d.enc := rfl
@[simp] theorem fm_pg : (fm op pg d o h v).pg = pg := f3_pg ..
@[simp] theorem fm_o6 : (fm op pg d o h v).o6 = o.enc := by
  rw [Raw.o6, fm, f14_imm14, slice_append_high _ _ (by decide), slice_append_high _ _ (by decide)]
  exact slice_full _
@[simp] theorem fm_h5 : (fm op pg d o h v).h5.toNat = h.val := by
  rw [Raw.h5, fm, f14_imm14, slice_append_high _ _ (by decide), slice_append_low _ _ (by decide)]
  simp [slice_full]; omega
@[simp] theorem fm_v3 : (fm op pg d o h v).v3 = v := by
  rw [Raw.v3, fm, f14_imm14, slice_append_low _ _ (by decide)]
  exact slice_full _
end

/-! ## Registers and sub-fields -/

@[simp] theorem Reg.dec_enc (r : Reg) : Reg.dec r.enc = r := by
  cases r with
  | v n => revert n; decide
  | k n => revert n; decide
  | g n => revert n; decide

@[simp] theorem OPair.dec_enc (o : OPair) : OPair.dec o.enc = some o := by
  cases o with
  | v n => revert n; decide
  | k n => revert n; decide

@[simp] theorem fin24_val (n : Fin 24) : fin24? n.val = some n := by simp [fin24?]
@[simp] theorem fin12_val (n : Fin 12) : fin12? n.val = some n := by simp [fin12?]

@[simp] theorem extReg_regExt (r : Reg) : extReg (regExt r) = some r := by
  have h1 : (regExt r).extractLsb' 7 25 = 0 := by
    rw [regExt, slice_append_high _ _ (by decide)]; exact slice_full _
  have h2 : (regExt r).extractLsb' 0 7 = r.enc := by
    rw [regExt, slice_append_low _ _ (by decide)]; exact slice_full _
  simp [extReg, h1, h2]

@[simp] theorem Cmp.dec_enc (c : Cmp) (sg : Bool) : Cmp.dec (c.enc sg) = some (c, sg) := by cases c <;> cases sg <;> rfl
@[simp] theorem FCmp.dec_enc (c : FCmp) : FCmp.dec c.enc = some c := by cases c <;> rfl
@[simp] theorem Width.dec_enc (w : Width) : Width.dec w.enc = some w := by cases w <;> rfl
@[simp] theorem Scope.dec_code (s : Scope) : Scope.dec s.code = some s := by cases s <;> rfl
@[simp] theorem Scope.dec_bits (s : Scope) : Scope.dec (BitVec.ofNat 3 s.code).toNat = some s := by cases s <;> rfl
@[simp] theorem Fold.dec_enc (f : Fold) : Fold.dec f.enc = some f := by cases f <;> rfl
@[simp] theorem PCond.dec_enc (c : PCond) : PCond.dec c.enc = c := by cases c <;> rfl
@[simp] theorem RMode.dec_enc (m : RMode) : RMode.dec m.enc = m := by cases m <;> rfl
@[simp] theorem frintDec_enc (m : Option RMode) : frintDec (frintEnc m) = some m := by
  cases m with
  | none => rfl
  | some m => cases m <;> rfl
@[simp] theorem CvtTy.dec_enc (t : CvtTy) : CvtTy.dec t.enc = some t := by cases t <;> rfl
@[simp] theorem optExt_extList (e : Option (BitVec 32)) : optExt (extList e) = some e := by cases e <;> rfl
@[simp] theorem noExt_nil (i : Instr) : noExt [] i = some i := rfl
@[simp] theorem oneReg_regExt (r : Reg) (f : Reg → Instr) : oneReg [regExt r] f = some (f r) := by simp [oneReg]
@[simp] theorem oneExt_one (x : Word) (f : Word → Instr) : oneExt [x] f = some (f x) := rfl
@[simp] theorem twoOl_two (x : Word) (r : Reg) (f : Word → Reg → Instr) : twoOl [x, regExt r] f = some (f x r) := by
  simp [twoOl]
@[simp] theorem onlyIf_true (i : Option Instr) : onlyIf true i = i := rfl
theorem code7_toNat {n : Nat} (h : n < 128) : (code7 n).toNat = n := by simp [code7]; omega
@[simp] theorem dPred_hi (h : BitVec 4) (p : Fin 8) : (dPred h p).extractLsb' 3 4 = h :=
  (slice_append_high _ _ (by decide)).trans (slice_full _)
@[simp] theorem dPred_lo (h : BitVec 4) (p : Fin 8) : (dPred h p).extractLsb' 0 3 = bits3 p :=
  (slice_append_low _ _ (by decide)).trans (slice_full _)

/-! ## The encoder's fields, at their widths -/

section
variable (a2 : BitVec 2) (a3 b3 : BitVec 3) (a4 : BitVec 4) (a5 b5 : BitVec 5) (a6 : BitVec 6) (a7 b7 : BitVec 7)
  (a8 : BitVec 8) (a16 : BitVec 16) (a18 : BitVec 18) (a12 : BitVec 12) (a1 b1 : BitVec 1)

@[simp] theorem cut_2_5_hi : (a2 ++ b5 : BitVec 7).extractLsb' 5 2 = a2 :=
  (slice_append_high _ _ (by decide)).trans (slice_full _)
@[simp] theorem cut_2_5_lo : (a2 ++ b5 : BitVec 7).extractLsb' 0 5 = b5 :=
  (slice_append_low _ _ (by decide)).trans (slice_full _)
@[simp] theorem cut_7_18_hi : (a7 ++ a18 : BitVec 25).extractLsb' 18 7 = a7 :=
  (slice_append_high _ _ (by decide)).trans (slice_full _)
@[simp] theorem cut_7_18_lo : (a7 ++ a18 : BitVec 25).extractLsb' 0 18 = a18 :=
  (slice_append_low _ _ (by decide)).trans (slice_full _)
@[simp] theorem cut_6_8_hi : (a6 ++ a8 : BitVec 14).extractLsb' 8 6 = a6 :=
  (slice_append_high _ _ (by decide)).trans (slice_full _)
@[simp] theorem cut_6_8_lo : (a6 ++ a8 : BitVec 14).extractLsb' 0 8 = a8 :=
  (slice_append_low _ _ (by decide)).trans (slice_full _)
@[simp] theorem cut_5_16_hi : (a5 ++ a16 : BitVec 21).extractLsb' 16 5 = a5 :=
  (slice_append_high _ _ (by decide)).trans (slice_full _)
@[simp] theorem cut_5_16_lo : (a5 ++ a16 : BitVec 21).extractLsb' 0 16 = a16 :=
  (slice_append_low _ _ (by decide)).trans (slice_full _)
@[simp] theorem cut_3_4_hi : (a3 ++ a4 : BitVec 7).extractLsb' 4 3 = a3 :=
  (slice_append_high _ _ (by decide)).trans (slice_full _)
@[simp] theorem cut_3_4_lo : (a3 ++ a4 : BitVec 7).extractLsb' 0 4 = a4 :=
  (slice_append_low _ _ (by decide)).trans (slice_full _)
@[simp] theorem cut_4_3_hi : (a4 ++ a3 : BitVec 7).extractLsb' 3 4 = a4 :=
  (slice_append_high _ _ (by decide)).trans (slice_full _)
@[simp] theorem cut_4_3_lo : (a4 ++ a3 : BitVec 7).extractLsb' 0 3 = a3 :=
  (slice_append_low _ _ (by decide)).trans (slice_full _)
@[simp] theorem cut_5_2_hi : (a5 ++ a2 : BitVec 7).extractLsb' 2 5 = a5 :=
  (slice_append_high _ _ (by decide)).trans (slice_full _)
@[simp] theorem cut_5_2_lo : (a5 ++ a2 : BitVec 7).extractLsb' 0 2 = a2 :=
  (slice_append_low _ _ (by decide)).trans (slice_full _)
@[simp] theorem cut_rgn_1 : (a7 ++ a6 ++ b7 ++ a5 : BitVec 25).extractLsb' 18 7 = a7 :=
  (slice_append_high _ _ (by decide)).trans ((slice_append_high _ _ (by decide)).trans ((slice_append_high _ _ (by decide)).trans (slice_full _)))
@[simp] theorem cut_rgn_2 : (a7 ++ a6 ++ b7 ++ a5 : BitVec 25).extractLsb' 12 6 = a6 :=
  (slice_append_high _ _ (by decide)).trans ((slice_append_high _ _ (by decide)).trans ((slice_append_low _ _ (by decide)).trans (slice_full _)))
@[simp] theorem cut_rgn_3 : (a7 ++ a6 ++ b7 ++ a5 : BitVec 25).extractLsb' 5 7 = b7 :=
  (slice_append_high _ _ (by decide)).trans ((slice_append_low _ _ (by decide)).trans (slice_full _))
@[simp] theorem cut_rgn_4 : (a7 ++ a6 ++ b7 ++ a5 : BitVec 25).extractLsb' 0 5 = a5 :=
  (slice_append_low _ _ (by decide)).trans (slice_full _)
@[simp] theorem cut_gloop_1 : (a3 ++ a2 ++ a16 : BitVec 21).extractLsb' 18 3 = a3 :=
  (slice_append_high _ _ (by decide)).trans ((slice_append_high _ _ (by decide)).trans (slice_full _))
@[simp] theorem cut_gloop_2 : (a3 ++ a2 ++ a16 : BitVec 21).extractLsb' 16 2 = a2 :=
  (slice_append_high _ _ (by decide)).trans ((slice_append_low _ _ (by decide)).trans (slice_full _))
@[simp] theorem cut_gloop_3 : (a3 ++ a2 ++ a16 : BitVec 21).extractLsb' 0 16 = a16 :=
  (slice_append_low _ _ (by decide)).trans (slice_full _)
@[simp] theorem cut_cv_1 : (a2 ++ a1 ++ a4 : BitVec 7).extractLsb' 5 2 = a2 :=
  (slice_append_high _ _ (by decide)).trans ((slice_append_high _ _ (by decide)).trans (slice_full _))
@[simp] theorem cut_cv_2 : (a2 ++ a1 ++ a4 : BitVec 7).extractLsb' 4 1 = a1 :=
  (slice_append_high _ _ (by decide)).trans ((slice_append_low _ _ (by decide)).trans (slice_full _))
@[simp] theorem cut_cv_3 : (a2 ++ a1 ++ a4 : BitVec 7).extractLsb' 0 4 = a4 :=
  (slice_append_low _ _ (by decide)).trans (slice_full _)
@[simp] theorem cut_qdx_1 : (a1 ++ a3 ++ b3 : BitVec 7).extractLsb' 6 1 = a1 :=
  (slice_append_high _ _ (by decide)).trans ((slice_append_high _ _ (by decide)).trans (slice_full _))
@[simp] theorem cut_qdx_2 : (a1 ++ a3 ++ b3 : BitVec 7).extractLsb' 3 3 = a3 :=
  (slice_append_high _ _ (by decide)).trans ((slice_append_low _ _ (by decide)).trans (slice_full _))
@[simp] theorem cut_qdx_3 : (a1 ++ a3 ++ b3 : BitVec 7).extractLsb' 0 3 = b3 :=
  (slice_append_low _ _ (by decide)).trans (slice_full _)
@[simp] theorem cut_ms_1 : (a3 ++ b3 ++ a1 : BitVec 7).extractLsb' 4 3 = a3 :=
  (slice_append_high _ _ (by decide)).trans ((slice_append_high _ _ (by decide)).trans (slice_full _))
@[simp] theorem cut_ms_2 : (a3 ++ b3 ++ a1 : BitVec 7).extractLsb' 1 3 = b3 :=
  (slice_append_high _ _ (by decide)).trans ((slice_append_low _ _ (by decide)).trans (slice_full _))
@[simp] theorem cut_ms_3 : (a3 ++ b3 ++ a1 : BitVec 7).extractLsb' 0 1 = a1 :=
  (slice_append_low _ _ (by decide)).trans (slice_full _)
@[simp] theorem cut_fpc_2 : (a4 ++ a2 ++ a1 : BitVec 7).extractLsb' 1 2 = a2 :=
  (slice_append_high _ _ (by decide)).trans ((slice_append_low _ _ (by decide)).trans (slice_full _))
@[simp] theorem cut_fpc_3 : (a4 ++ a2 ++ a1 : BitVec 7).extractLsb' 0 1 = a1 :=
  (slice_append_low _ _ (by decide)).trans (slice_full _)
@[simp] theorem cut_ms_plain : (a3 ++ a4 : BitVec 7).extractLsb' 1 3 = a4.extractLsb' 1 3 := slice_append_low _ _ (by decide)
@[simp] theorem cut_ms_acq : (a3 ++ a4 : BitVec 7).extractLsb' 0 1 = a4.extractLsb' 0 1 := slice_append_low _ _ (by decide)
@[simp] theorem cut_lds_zero : (a3 ++ a4 : BitVec 7).extractLsb' 0 3 = a4.extractLsb' 0 3 := slice_append_low _ _ (by decide)
@[simp] theorem cut_lds_store : (a3 ++ a4 : BitVec 7).extractLsb' 3 1 = a4.extractLsb' 3 1 := slice_append_low _ _ (by decide)
@[simp] theorem cut_atoms_zero : (a4 ++ a3 : BitVec 7).extractLsb' 0 2 = a3.extractLsb' 0 2 := slice_append_low _ _ (by decide)
@[simp] theorem cut_atoms_bcast : (a4 ++ a3 : BitVec 7).extractLsb' 2 1 = a3.extractLsb' 2 1 := slice_append_low _ _ (by decide)
@[simp] theorem join_7_5 (x : BitVec 12) : (x.extractLsb' 7 5 ++ x.extractLsb' 0 7 : BitVec 12) = x :=
  (slice_join x rfl).trans (slice_full _)
@[simp] theorem nat_4_3 (p : Fin 8) : (a4 ++ bits3 p : BitVec 7).toNat = a4.toNat * 8 + p.val := by
  have h : (bits3 p).toNat = p.val := by revert p; decide
  exact (append_toNat a4 (bits3 p)).trans (by rw [h]; norm_num)
@[simp] theorem nat_3_4 : (a3 ++ a4 : BitVec 7).toNat = a3.toNat * 16 + a4.toNat := append_toNat a3 a4
@[simp] theorem nat_fpc : (a4 ++ a2 ++ a1 : BitVec 7).toNat = (a4.toNat * 4 + a2.toNat) * 2 + a1.toNat :=
  (append_toNat (a4 ++ a2) a1).trans (by rw [append_toNat a4 a2]; norm_num)
end

@[simp] theorem Scope.dec_mod (s : Scope) : Scope.dec (s.code % 8) = some s := by cases s <;> rfl
@[simp] theorem Scope.dec_zero : Scope.dec 0 = some .str := rfl
@[simp] theorem AOp.dec_code (o : AOp) : AOp.dec o.code = some o := by cases o <;> rfl
@[simp] theorem AOp.dec_mod (o : AOp) : AOp.dec (o.code % 16) = some o := by cases o <;> rfl
@[simp] theorem AOrd.dec_code (o : AOrd) : AOrd.dec o.code = some o := by cases o <;> rfl
@[simp] theorem WCond.dec_code (c : WCond) : WCond.dec c.code = some c := by cases c <;> rfl
@[simp] theorem bit1_eq (b : Bool) : (bit1 b == 1#1) = b := by cases b <;> rfl
theorem AOp.code_lt (o : AOp) : o.code < 12 := by cases o <;> decide
theorem AOrd.code_lt (o : AOrd) : o.code < 3 := by cases o <;> decide
theorem Scope.code_lt (s : Scope) : s.code < 6 := by cases s <;> decide
theorem WCond.code_lt (c : WCond) : c.code < 6 := by cases c <;> decide
theorem ordCode_lt (o : Option (AOrd × Scope)) : ordCode o < 19 := by
  rcases o with _ | ⟨o, s⟩
  · decide
  · have := o.code_lt; have := s.code_lt; simp only [ordCode]; omega
@[simp] theorem ordDec_code (o : Option (AOrd × Scope)) : ordDec (ordCode o) = some o := by
  rcases o with _ | ⟨o, s⟩
  · rfl
  · cases o <;> cases s <;> rfl

/-- From the decoding of the fields to that of the words. -/
theorem decode_encode_of {i : Instr} (hw : i.wf = true) (h : decodeRaw (encodeRaw i).1 (encodeRaw i).2 = some i) :
    decode (encode i).1 (encode i).2 = some i := by
  simp [decode, encode, h, keepWf, hw]

/-! ## Which table of the decoder a major opcode names (R203) -/

theorem decodeRaw_arith {r : Raw} (e : List Word) (h : r.op.toNat < 0x50) : decodeRaw r e = decodeArith r e := by
  simp [decodeRaw, h]
theorem decodeRaw_mem {r : Raw} (e : List Word) (h : 0x50 ≤ r.op.toNat) (h2 : r.op.toNat < 0x6C) :
    decodeRaw r e = decodeMem r e := by
  simp [decodeRaw, h2, Nat.not_lt.mpr h]
theorem decodeRaw_control {r : Raw} (e : List Word) (h : 0x6C ≤ r.op.toNat) (h2 : r.op.toNat < 0x7C) :
    decodeRaw r e = decodeControl r e := by
  have h1 : ¬ r.op.toNat < 0x50 := by omega
  simp [decodeRaw, h2, Nat.not_lt.mpr h, h1]
theorem decodeMem_atomf {r : Raw} (e : List Word) {k : Nat} (hk : k < 6) (h : r.op.toNat = 0x66 + k) :
    decodeMem r e = decodeAtomf (8 * k + r.v3.toNat) r e := by
  interval_cases k <;> simp [decodeMem, h]
theorem decodeRaw_7E {r : Raw} (e : List Word) (h : r.op.toNat = 0x7E) : decodeRaw r e = decode7E r e := by
  simp [decodeRaw, h]

end Sys2Proof
end

