-- ==== Sys2Proof/Laws/Maps.lean ====
section
/-!
SUPPORT. Sparse maps and memory: a read after a write, what a write leaves alone, and that every operation keeps the canonical form.
-/
namespace Sys2Proof.Machine

section
variable {α : Type}

@[simp] theorem SMap.find?_put_same (m : SMap α) (k : Nat) (x : α) : SMap.find? (SMap.put m k x) k = some x := by
  induction m with
  | nil => simp [SMap.put, SMap.find?]
  | cons c r ih =>
    obtain ⟨a, y⟩ := c
    unfold SMap.put
    split
    · simp [SMap.find?]
    · split
      · simp [SMap.find?]
      · rename_i h h2
        unfold SMap.find?
        rw [if_neg h, if_neg h2]
        exact ih

theorem SMap.find?_put_ne (m : SMap α) {k j : Nat} (x : α) (h : j ≠ k) : SMap.find? (SMap.put m k x) j = SMap.find? m j := by
  induction m with
  | nil => unfold SMap.put SMap.find?; rw [if_neg (Ne.symm h)]; split <;> simp [SMap.find?]
  | cons c r ih =>
    obtain ⟨a, y⟩ := c
    unfold SMap.put
    split
    · rename_i hk
      subst hk
      unfold SMap.find?
      rw [if_neg (Ne.symm h), if_neg (Ne.symm h)]
    · split
      · rename_i hk hl
        rw [SMap.find?, if_neg (Ne.symm h)]
        split
        · rename_i hj
          unfold SMap.find?
          rw [if_neg (by omega), if_pos (by omega)]
        · rfl
      · unfold SMap.find?
        rw [ih]

@[simp] theorem SMap.put_put (m : SMap α) (k : Nat) (x y : α) : SMap.put (SMap.put m k x) k y = SMap.put m k y := by
  induction m with
  | nil => simp [SMap.put]
  | cons c r ih =>
    obtain ⟨a, z⟩ := c
    by_cases h : a = k
    · simp [SMap.put, h]
    · by_cases h2 : k < a
      · simp [SMap.put, h, h2]
      · simp [SMap.put, h, h2, ih]

theorem SMap.find?_below {m : SMap α} {b k : Nat} (h : SMap.risingFrom b m = true) (hk : k < b) : SMap.find? m k = none := by
  cases m with
  | nil => rfl
  | cons c r =>
    obtain ⟨a, y⟩ := c
    simp [SMap.risingFrom] at h
    unfold SMap.find?
    rw [if_neg (by omega), if_pos (by omega)]

theorem SMap.risingFrom_weaken {m : SMap α} {b c : Nat} (h : SMap.risingFrom b m = true) (hc : c ≤ b) :
    SMap.risingFrom c m = true := by
  cases m with
  | nil => rfl
  | cons d r => obtain ⟨a, y⟩ := d; simp [SMap.risingFrom] at h ⊢; exact ⟨by omega, h.2⟩

theorem SMap.put_rising {m : SMap α} {b k : Nat} (x : α) (h : SMap.risingFrom b m = true) (hk : b ≤ k) :
    SMap.risingFrom b (SMap.put m k x) = true := by
  induction m generalizing b with
  | nil => simp [SMap.put, SMap.risingFrom, hk]
  | cons c r ih =>
    obtain ⟨a, y⟩ := c
    simp [SMap.risingFrom] at h
    unfold SMap.put
    split
    · rename_i hak; subst hak; simp [SMap.risingFrom, h]
    · split
      · rename_i h1 h2; simp [SMap.risingFrom, hk, h.2]; omega
      · rename_i h1 h2; simp [SMap.risingFrom, h.1]; exact ih h.2 (by omega)

theorem SMap.del_rising {m : SMap α} {b : Nat} (k : Nat) (h : SMap.risingFrom b m = true) :
    SMap.risingFrom b (SMap.del m k) = true := by
  induction m generalizing b with
  | nil => rfl
  | cons c r ih =>
    obtain ⟨a, y⟩ := c
    simp [SMap.risingFrom] at h
    unfold SMap.del
    split
    · exact SMap.risingFrom_weaken h.2 (by omega)
    · split
      · simp [SMap.risingFrom, h]
      · simp [SMap.risingFrom, h.1]; exact ih h.2

theorem SMap.find?_del_same {m : SMap α} {b : Nat} (k : Nat) (h : SMap.risingFrom b m = true) : SMap.find? (SMap.del m k) k = none := by
  induction m generalizing b with
  | nil => rfl
  | cons c r ih =>
    obtain ⟨a, y⟩ := c
    simp [SMap.risingFrom] at h
    unfold SMap.del
    split
    · rename_i hak; subst hak; exact SMap.find?_below h.2 (by omega)
    · rename_i h1
      split
      · rename_i h2; unfold SMap.find?; rw [if_neg h1, if_pos h2]
      · rename_i h2; unfold SMap.find?; rw [if_neg h1, if_neg h2]; exact ih h.2

theorem SMap.find?_del_ne {m : SMap α} {b k j : Nat} (h : SMap.risingFrom b m = true) (hj : j ≠ k) :
    SMap.find? (SMap.del m k) j = SMap.find? m j := by
  induction m generalizing b with
  | nil => rfl
  | cons c r ih =>
    obtain ⟨a, y⟩ := c
    simp [SMap.risingFrom] at h
    unfold SMap.del
    split
    · rename_i hak
      subst hak
      rw [SMap.find?, if_neg (Ne.symm hj)]
      split
      · rename_i hl; exact SMap.find?_below h.2 (by omega)
      · rfl
    · split
      · rfl
      · unfold SMap.find?; rw [ih h.2]

theorem SMap.all_put {m : SMap α} {k : Nat} {x : α} {p : Nat × α → Bool} (h : m.all p = true) (hx : p (k, x) = true) :
    (SMap.put m k x).all p = true := by
  induction m with
  | nil => simp [SMap.put, hx]
  | cons c r ih =>
    obtain ⟨a, y⟩ := c
    rw [List.all_cons, Bool.and_eq_true] at h
    unfold SMap.put
    split
    · rw [List.all_cons, hx, h.2]; rfl
    · split
      · rw [List.all_cons, List.all_cons, hx, h.1, h.2]; rfl
      · rw [List.all_cons, h.1, ih h.2]; rfl

theorem SMap.all_del {m : SMap α} (k : Nat) {p : Nat × α → Bool} (h : m.all p = true) : (SMap.del m k).all p = true := by
  induction m with
  | nil => rfl
  | cons c r ih =>
    obtain ⟨a, y⟩ := c
    rw [List.all_cons, Bool.and_eq_true] at h
    unfold SMap.del
    split
    · exact h.2
    · split
      · rw [List.all_cons, h.1, h.2]; rfl
      · rw [List.all_cons, h.1, ih h.2]; rfl

variable [DecidableEq α]

/-- Setting a value keeps the canonical form. -/
theorem SMap.set_wf {d : α} {m : SMap α} (k : Nat) (x : α) (h : SMap.wf d m = true) : SMap.wf d (SMap.set d m k x) = true := by
  rw [SMap.wf, Bool.and_eq_true] at h ⊢
  unfold SMap.set
  split
  · exact ⟨SMap.del_rising k h.1, SMap.all_del k h.2⟩
  · rename_i hx
    exact ⟨SMap.put_rising x h.1 (Nat.zero_le _), SMap.all_put h.2 (by simpa using hx)⟩

/-- A value that was set is read back. -/
theorem SMap.getD_set_same {d : α} {m : SMap α} (k : Nat) (x : α) (h : SMap.wf d m = true) : SMap.getD (SMap.set d m k x) k d = x := by
  rw [SMap.wf, Bool.and_eq_true] at h
  unfold SMap.set SMap.getD
  split
  · rename_i hx; rw [SMap.find?_del_same k h.1, hx]; rfl
  · rw [SMap.find?_put_same]; rfl

/-- Setting a value leaves every other key alone. -/
theorem SMap.getD_set_ne {d : α} {m : SMap α} {k j : Nat} (x : α) (h : SMap.wf d m = true) (hj : j ≠ k) :
    SMap.getD (SMap.set d m k x) j d = SMap.getD m j d := by
  rw [SMap.wf, Bool.and_eq_true] at h
  unfold SMap.set SMap.getD
  split
  · rw [SMap.find?_del_ne h.1 hj]
  · rw [SMap.find?_put_ne _ _ hj]

end

/-! ## Memory -/

theorem Memory.write_wf {m : List Host.Cell} (a : Nat) (x : Byte) (h : Memory.wf m = true) : Memory.wf (Memory.write m a x) = true :=
  SMap.set_wf a x h

theorem Memory.writeBytes_wf {m : List Host.Cell} (a : Nat) (bs : List Byte) (h : Memory.wf m = true) :
    Memory.wf (Memory.writeBytes m a bs) = true := by
  induction bs generalizing m a with
  | nil => exact h
  | cons b r ih => exact ih (a + 1) (Memory.write_wf a b h)

theorem Memory.read_write_same {m : List Host.Cell} (a : Nat) (x : Byte) (h : Memory.wf m = true) :
    Memory.read (Memory.write m a x) a = x := SMap.getD_set_same a x h

theorem Memory.read_write_ne {m : List Host.Cell} {a b : Nat} (x : Byte) (h : Memory.wf m = true) (hb : b ≠ a) :
    Memory.read (Memory.write m a x) b = Memory.read m b := SMap.getD_set_ne x h hb

theorem Memory.read_writeBytes_outside {m : List Host.Cell} {a b : Nat} {bs : List Byte} (h : Memory.wf m = true)
    (hb : b < a ∨ a + bs.length ≤ b) : Memory.read (Memory.writeBytes m a bs) b = Memory.read m b := by
  induction bs generalizing m a with
  | nil => rfl
  | cons x r ih =>
    simp only [List.length_cons] at hb
    rw [Memory.writeBytes, ih (Memory.write_wf a x h) (by omega), Memory.read_write_ne x h (by omega)]

theorem Memory.read_writeBytes_inside {m : List Host.Cell} {a i : Nat} {bs : List Byte} (h : Memory.wf m = true)
    (hi : i < bs.length) : Memory.read (Memory.writeBytes m a bs) (a + i) = bs.getD i 0 := by
  induction bs generalizing m a i with
  | nil => simp at hi
  | cons x r ih =>
    cases i with
    | zero =>
      rw [Memory.writeBytes, Memory.read_writeBytes_outside (Memory.write_wf a x h) (by omega)]
      simpa using Memory.read_write_same a x h
    | succ i =>
      have := ih (a := a + 1) (i := i) (Memory.write_wf a x h) (by simpa using hi)
      simpa [Memory.writeBytes, Nat.add_assoc, Nat.add_comm 1 i] using this

/-! ## Lists -/

@[simp] theorem updAt_length {α : Type} (l : List α) (i : Nat) (f : α → α) : (updAt l i f).length = l.length := by
  induction l generalizing i with
  | nil => cases i <;> rfl
  | cons x r ih => cases i <;> simp [updAt, ih]

theorem updAt_getD_same {α : Type} {l : List α} {i : Nat} (f : α → α) (d : α) (h : i < l.length) :
    (updAt l i f).getD i d = f (l.getD i d) := by
  induction l generalizing i with
  | nil => simp at h
  | cons x r ih =>
    cases i with
    | zero => rfl
    | succ i => simpa [updAt] using ih (by simpa using h)

theorem updAt_getD_ne {α : Type} {l : List α} {i j : Nat} (f : α → α) (d : α) (h : j ≠ i) :
    (updAt l i f).getD j d = l.getD j d := by
  induction l generalizing i j with
  | nil => cases i <;> rfl
  | cons x r ih =>
    cases i with
    | zero => cases j with
      | zero => exact absurd rfl h
      | succ j => rfl
    | succ i => cases j with
      | zero => rfl
      | succ j => simpa [updAt] using ih (by omega)

end Sys2Proof.Machine
end

