-- ==== Sys2Proof/Laws/State.lean ====
section
/-!
SUPPORT. What each update of the state leaves as it was: one lemma per field per update.
-/
namespace Sys2Proof.Machine

section
variable (s : State)

@[simp] theorem State.setThread_cycle (t : Nat) (x : Thread) : (s.setThread t x).cycle = s.cycle := rfl
@[simp] theorem State.setThread_inputs (t : Nat) (x : Thread) : (s.setThread t x).inputs = s.inputs := rfl
@[simp] theorem State.setThread_turn (t : Nat) (x : Thread) : (s.setThread t x).turn = s.turn := rfl
@[simp] theorem State.setThread_iss (t : Nat) (x : Thread) : (s.setThread t x).iss = s.iss := rfl
@[simp] theorem State.setThread_ops (t : Nat) (x : Thread) : (s.setThread t x).ops = s.ops := rfl
@[simp] theorem State.setThread_nextOp (t : Nat) (x : Thread) : (s.setThread t x).nextOp = s.nextOp := rfl
@[simp] theorem State.setThread_wake (t : Nat) (x : Thread) : (s.setThread t x).wake = s.wake := rfl
@[simp] theorem State.setThread_leases (t : Nat) (x : Thread) : (s.setThread t x).leases = s.leases := rfl
@[simp] theorem State.setThread_choice (t : Nat) (x : Thread) : (s.setThread t x).choice = s.choice := rfl
@[simp] theorem State.setThread_passed (t : Nat) (x : Thread) : (s.setThread t x).passed = s.passed := rfl
@[simp] theorem State.setThread_uid (t : Nat) (x : Thread) : (s.setThread t x).uid = s.uid := rfl
@[simp] theorem State.setThread_gangs (t : Nat) (x : Thread) : (s.setThread t x).gangs = s.gangs := rfl
@[simp] theorem State.setThread_cores (t : Nat) (x : Thread) : (s.setThread t x).cores = s.cores := rfl
@[simp] theorem State.setThread_quads (t : Nat) (x : Thread) : (s.setThread t x).quads = s.quads := rfl
@[simp] theorem State.setThread_clusters (t : Nat) (x : Thread) : (s.setThread t x).clusters = s.clusters := rfl
@[simp] theorem State.setThread_mem (t : Nat) (x : Thread) : (s.setThread t x).mem = s.mem := rfl
@[simp] theorem State.setThread_homes (t : Nat) (x : Thread) : (s.setThread t x).homes = s.homes := rfl
@[simp] theorem State.setThread_peers (t : Nat) (x : Thread) : (s.setThread t x).peers = s.peers := rfl
@[simp] theorem State.setThread_msgs (t : Nat) (x : Thread) : (s.setThread t x).msgs = s.msgs := rfl
@[simp] theorem State.setThread_hubActs (t : Nat) (x : Thread) : (s.setThread t x).hubActs = s.hubActs := rfl
@[simp] theorem State.setThread_monitors (t : Nat) (x : Thread) : (s.setThread t x).monitors = s.monitors := rfl
@[simp] theorem State.setThread_watches (t : Nat) (x : Thread) : (s.setThread t x).watches = s.watches := rfl
@[simp] theorem State.setThread_poison (t : Nat) (x : Thread) : (s.setThread t x).poison = s.poison := rfl
@[simp] theorem State.setThread_writers (t : Nat) (x : Thread) : (s.setThread t x).writers = s.writers := rfl
@[simp] theorem State.setThread_hbmErrs (t : Nat) (x : Thread) : (s.setThread t x).hbmErrs = s.hbmErrs := rfl
@[simp] theorem State.setThread_frames (t : Nat) (x : Thread) : (s.setThread t x).frames = s.frames := rfl
@[simp] theorem State.setThread_weak (t : Nat) (x : Thread) : (s.setThread t x).weak = s.weak := rfl
@[simp] theorem State.setThread_faultqs (t : Nat) (x : Thread) : (s.setThread t x).faultqs = s.faultqs := rfl
@[simp] theorem State.setThread_fab (t : Nat) (x : Thread) : (s.setThread t x).fab = s.fab := rfl
@[simp] theorem State.setThread_res (t : Nat) (x : Thread) : (s.setThread t x).res = s.res := rfl
@[simp] theorem State.setThread_mod (t : Nat) (x : Thread) : (s.setThread t x).mod = s.mod := rfl

@[simp] theorem State.setCore_cycle (c : Nat) (x : Core) : (s.setCore c x).cycle = s.cycle := rfl
@[simp] theorem State.setCore_inputs (c : Nat) (x : Core) : (s.setCore c x).inputs = s.inputs := rfl
@[simp] theorem State.setCore_turn (c : Nat) (x : Core) : (s.setCore c x).turn = s.turn := rfl
@[simp] theorem State.setCore_iss (c : Nat) (x : Core) : (s.setCore c x).iss = s.iss := rfl
@[simp] theorem State.setCore_ops (c : Nat) (x : Core) : (s.setCore c x).ops = s.ops := rfl
@[simp] theorem State.setCore_nextOp (c : Nat) (x : Core) : (s.setCore c x).nextOp = s.nextOp := rfl
@[simp] theorem State.setCore_wake (c : Nat) (x : Core) : (s.setCore c x).wake = s.wake := rfl
@[simp] theorem State.setCore_leases (c : Nat) (x : Core) : (s.setCore c x).leases = s.leases := rfl
@[simp] theorem State.setCore_choice (c : Nat) (x : Core) : (s.setCore c x).choice = s.choice := rfl
@[simp] theorem State.setCore_passed (c : Nat) (x : Core) : (s.setCore c x).passed = s.passed := rfl
@[simp] theorem State.setCore_uid (c : Nat) (x : Core) : (s.setCore c x).uid = s.uid := rfl
@[simp] theorem State.setCore_threads (c : Nat) (x : Core) : (s.setCore c x).threads = s.threads := rfl
@[simp] theorem State.setCore_gangs (c : Nat) (x : Core) : (s.setCore c x).gangs = s.gangs := rfl
@[simp] theorem State.setCore_quads (c : Nat) (x : Core) : (s.setCore c x).quads = s.quads := rfl
@[simp] theorem State.setCore_clusters (c : Nat) (x : Core) : (s.setCore c x).clusters = s.clusters := rfl
@[simp] theorem State.setCore_mem (c : Nat) (x : Core) : (s.setCore c x).mem = s.mem := rfl
@[simp] theorem State.setCore_homes (c : Nat) (x : Core) : (s.setCore c x).homes = s.homes := rfl
@[simp] theorem State.setCore_peers (c : Nat) (x : Core) : (s.setCore c x).peers = s.peers := rfl
@[simp] theorem State.setCore_msgs (c : Nat) (x : Core) : (s.setCore c x).msgs = s.msgs := rfl
@[simp] theorem State.setCore_hubActs (c : Nat) (x : Core) : (s.setCore c x).hubActs = s.hubActs := rfl
@[simp] theorem State.setCore_monitors (c : Nat) (x : Core) : (s.setCore c x).monitors = s.monitors := rfl
@[simp] theorem State.setCore_watches (c : Nat) (x : Core) : (s.setCore c x).watches = s.watches := rfl
@[simp] theorem State.setCore_poison (c : Nat) (x : Core) : (s.setCore c x).poison = s.poison := rfl
@[simp] theorem State.setCore_writers (c : Nat) (x : Core) : (s.setCore c x).writers = s.writers := rfl
@[simp] theorem State.setCore_hbmErrs (c : Nat) (x : Core) : (s.setCore c x).hbmErrs = s.hbmErrs := rfl
@[simp] theorem State.setCore_frames (c : Nat) (x : Core) : (s.setCore c x).frames = s.frames := rfl
@[simp] theorem State.setCore_weak (c : Nat) (x : Core) : (s.setCore c x).weak = s.weak := rfl
@[simp] theorem State.setCore_faultqs (c : Nat) (x : Core) : (s.setCore c x).faultqs = s.faultqs := rfl
@[simp] theorem State.setCore_fab (c : Nat) (x : Core) : (s.setCore c x).fab = s.fab := rfl
@[simp] theorem State.setCore_res (c : Nat) (x : Core) : (s.setCore c x).res = s.res := rfl
@[simp] theorem State.setCore_mod (c : Nat) (x : Core) : (s.setCore c x).mod = s.mod := rfl

@[simp] theorem State.setQuad_cycle (q : Nat) (x : Quad) : (s.setQuad q x).cycle = s.cycle := rfl
@[simp] theorem State.setQuad_inputs (q : Nat) (x : Quad) : (s.setQuad q x).inputs = s.inputs := rfl
@[simp] theorem State.setQuad_turn (q : Nat) (x : Quad) : (s.setQuad q x).turn = s.turn := rfl
@[simp] theorem State.setQuad_iss (q : Nat) (x : Quad) : (s.setQuad q x).iss = s.iss := rfl
@[simp] theorem State.setQuad_ops (q : Nat) (x : Quad) : (s.setQuad q x).ops = s.ops := rfl
@[simp] theorem State.setQuad_nextOp (q : Nat) (x : Quad) : (s.setQuad q x).nextOp = s.nextOp := rfl
@[simp] theorem State.setQuad_wake (q : Nat) (x : Quad) : (s.setQuad q x).wake = s.wake := rfl
@[simp] theorem State.setQuad_leases (q : Nat) (x : Quad) : (s.setQuad q x).leases = s.leases := rfl
@[simp] theorem State.setQuad_choice (q : Nat) (x : Quad) : (s.setQuad q x).choice = s.choice := rfl
@[simp] theorem State.setQuad_passed (q : Nat) (x : Quad) : (s.setQuad q x).passed = s.passed := rfl
@[simp] theorem State.setQuad_uid (q : Nat) (x : Quad) : (s.setQuad q x).uid = s.uid := rfl
@[simp] theorem State.setQuad_threads (q : Nat) (x : Quad) : (s.setQuad q x).threads = s.threads := rfl
@[simp] theorem State.setQuad_gangs (q : Nat) (x : Quad) : (s.setQuad q x).gangs = s.gangs := rfl
@[simp] theorem State.setQuad_cores (q : Nat) (x : Quad) : (s.setQuad q x).cores = s.cores := rfl
@[simp] theorem State.setQuad_clusters (q : Nat) (x : Quad) : (s.setQuad q x).clusters = s.clusters := rfl
@[simp] theorem State.setQuad_mem (q : Nat) (x : Quad) : (s.setQuad q x).mem = s.mem := rfl
@[simp] theorem State.setQuad_homes (q : Nat) (x : Quad) : (s.setQuad q x).homes = s.homes := rfl
@[simp] theorem State.setQuad_peers (q : Nat) (x : Quad) : (s.setQuad q x).peers = s.peers := rfl
@[simp] theorem State.setQuad_msgs (q : Nat) (x : Quad) : (s.setQuad q x).msgs = s.msgs := rfl
@[simp] theorem State.setQuad_hubActs (q : Nat) (x : Quad) : (s.setQuad q x).hubActs = s.hubActs := rfl
@[simp] theorem State.setQuad_monitors (q : Nat) (x : Quad) : (s.setQuad q x).monitors = s.monitors := rfl
@[simp] theorem State.setQuad_watches (q : Nat) (x : Quad) : (s.setQuad q x).watches = s.watches := rfl
@[simp] theorem State.setQuad_poison (q : Nat) (x : Quad) : (s.setQuad q x).poison = s.poison := rfl
@[simp] theorem State.setQuad_writers (q : Nat) (x : Quad) : (s.setQuad q x).writers = s.writers := rfl
@[simp] theorem State.setQuad_hbmErrs (q : Nat) (x : Quad) : (s.setQuad q x).hbmErrs = s.hbmErrs := rfl
@[simp] theorem State.setQuad_frames (q : Nat) (x : Quad) : (s.setQuad q x).frames = s.frames := rfl
@[simp] theorem State.setQuad_weak (q : Nat) (x : Quad) : (s.setQuad q x).weak = s.weak := rfl
@[simp] theorem State.setQuad_faultqs (q : Nat) (x : Quad) : (s.setQuad q x).faultqs = s.faultqs := rfl
@[simp] theorem State.setQuad_fab (q : Nat) (x : Quad) : (s.setQuad q x).fab = s.fab := rfl
@[simp] theorem State.setQuad_res (q : Nat) (x : Quad) : (s.setQuad q x).res = s.res := rfl
@[simp] theorem State.setQuad_mod (q : Nat) (x : Quad) : (s.setQuad q x).mod = s.mod := rfl

@[simp] theorem State.setCluster_cycle (k : Nat) (x : Cluster) : (s.setCluster k x).cycle = s.cycle := rfl
@[simp] theorem State.setCluster_inputs (k : Nat) (x : Cluster) : (s.setCluster k x).inputs = s.inputs := rfl
@[simp] theorem State.setCluster_turn (k : Nat) (x : Cluster) : (s.setCluster k x).turn = s.turn := rfl
@[simp] theorem State.setCluster_iss (k : Nat) (x : Cluster) : (s.setCluster k x).iss = s.iss := rfl
@[simp] theorem State.setCluster_ops (k : Nat) (x : Cluster) : (s.setCluster k x).ops = s.ops := rfl
@[simp] theorem State.setCluster_nextOp (k : Nat) (x : Cluster) : (s.setCluster k x).nextOp = s.nextOp := rfl
@[simp] theorem State.setCluster_wake (k : Nat) (x : Cluster) : (s.setCluster k x).wake = s.wake := rfl
@[simp] theorem State.setCluster_leases (k : Nat) (x : Cluster) : (s.setCluster k x).leases = s.leases := rfl
@[simp] theorem State.setCluster_choice (k : Nat) (x : Cluster) : (s.setCluster k x).choice = s.choice := rfl
@[simp] theorem State.setCluster_passed (k : Nat) (x : Cluster) : (s.setCluster k x).passed = s.passed := rfl
@[simp] theorem State.setCluster_uid (k : Nat) (x : Cluster) : (s.setCluster k x).uid = s.uid := rfl
@[simp] theorem State.setCluster_threads (k : Nat) (x : Cluster) : (s.setCluster k x).threads = s.threads := rfl
@[simp] theorem State.setCluster_gangs (k : Nat) (x : Cluster) : (s.setCluster k x).gangs = s.gangs := rfl
@[simp] theorem State.setCluster_cores (k : Nat) (x : Cluster) : (s.setCluster k x).cores = s.cores := rfl
@[simp] theorem State.setCluster_quads (k : Nat) (x : Cluster) : (s.setCluster k x).quads = s.quads := rfl
@[simp] theorem State.setCluster_mem (k : Nat) (x : Cluster) : (s.setCluster k x).mem = s.mem := rfl
@[simp] theorem State.setCluster_homes (k : Nat) (x : Cluster) : (s.setCluster k x).homes = s.homes := rfl
@[simp] theorem State.setCluster_peers (k : Nat) (x : Cluster) : (s.setCluster k x).peers = s.peers := rfl
@[simp] theorem State.setCluster_msgs (k : Nat) (x : Cluster) : (s.setCluster k x).msgs = s.msgs := rfl
@[simp] theorem State.setCluster_hubActs (k : Nat) (x : Cluster) : (s.setCluster k x).hubActs = s.hubActs := rfl
@[simp] theorem State.setCluster_monitors (k : Nat) (x : Cluster) : (s.setCluster k x).monitors = s.monitors := rfl
@[simp] theorem State.setCluster_watches (k : Nat) (x : Cluster) : (s.setCluster k x).watches = s.watches := rfl
@[simp] theorem State.setCluster_poison (k : Nat) (x : Cluster) : (s.setCluster k x).poison = s.poison := rfl
@[simp] theorem State.setCluster_writers (k : Nat) (x : Cluster) : (s.setCluster k x).writers = s.writers := rfl
@[simp] theorem State.setCluster_hbmErrs (k : Nat) (x : Cluster) : (s.setCluster k x).hbmErrs = s.hbmErrs := rfl
@[simp] theorem State.setCluster_frames (k : Nat) (x : Cluster) : (s.setCluster k x).frames = s.frames := rfl
@[simp] theorem State.setCluster_weak (k : Nat) (x : Cluster) : (s.setCluster k x).weak = s.weak := rfl
@[simp] theorem State.setCluster_faultqs (k : Nat) (x : Cluster) : (s.setCluster k x).faultqs = s.faultqs := rfl
@[simp] theorem State.setCluster_fab (k : Nat) (x : Cluster) : (s.setCluster k x).fab = s.fab := rfl
@[simp] theorem State.setCluster_res (k : Nat) (x : Cluster) : (s.setCluster k x).res = s.res := rfl
@[simp] theorem State.setCluster_mod (k : Nat) (x : Cluster) : (s.setCluster k x).mod = s.mod := rfl

@[simp] theorem State.setHome_cycle (l : Nat) (x : Home) : (s.setHome l x).cycle = s.cycle := rfl
@[simp] theorem State.setHome_inputs (l : Nat) (x : Home) : (s.setHome l x).inputs = s.inputs := rfl
@[simp] theorem State.setHome_turn (l : Nat) (x : Home) : (s.setHome l x).turn = s.turn := rfl
@[simp] theorem State.setHome_iss (l : Nat) (x : Home) : (s.setHome l x).iss = s.iss := rfl
@[simp] theorem State.setHome_ops (l : Nat) (x : Home) : (s.setHome l x).ops = s.ops := rfl
@[simp] theorem State.setHome_nextOp (l : Nat) (x : Home) : (s.setHome l x).nextOp = s.nextOp := rfl
@[simp] theorem State.setHome_wake (l : Nat) (x : Home) : (s.setHome l x).wake = s.wake := rfl
@[simp] theorem State.setHome_leases (l : Nat) (x : Home) : (s.setHome l x).leases = s.leases := rfl
@[simp] theorem State.setHome_choice (l : Nat) (x : Home) : (s.setHome l x).choice = s.choice := rfl
@[simp] theorem State.setHome_passed (l : Nat) (x : Home) : (s.setHome l x).passed = s.passed := rfl
@[simp] theorem State.setHome_uid (l : Nat) (x : Home) : (s.setHome l x).uid = s.uid := rfl
@[simp] theorem State.setHome_threads (l : Nat) (x : Home) : (s.setHome l x).threads = s.threads := rfl
@[simp] theorem State.setHome_gangs (l : Nat) (x : Home) : (s.setHome l x).gangs = s.gangs := rfl
@[simp] theorem State.setHome_cores (l : Nat) (x : Home) : (s.setHome l x).cores = s.cores := rfl
@[simp] theorem State.setHome_quads (l : Nat) (x : Home) : (s.setHome l x).quads = s.quads := rfl
@[simp] theorem State.setHome_clusters (l : Nat) (x : Home) : (s.setHome l x).clusters = s.clusters := rfl
@[simp] theorem State.setHome_mem (l : Nat) (x : Home) : (s.setHome l x).mem = s.mem := rfl
@[simp] theorem State.setHome_peers (l : Nat) (x : Home) : (s.setHome l x).peers = s.peers := rfl
@[simp] theorem State.setHome_msgs (l : Nat) (x : Home) : (s.setHome l x).msgs = s.msgs := rfl
@[simp] theorem State.setHome_hubActs (l : Nat) (x : Home) : (s.setHome l x).hubActs = s.hubActs := rfl
@[simp] theorem State.setHome_monitors (l : Nat) (x : Home) : (s.setHome l x).monitors = s.monitors := rfl
@[simp] theorem State.setHome_watches (l : Nat) (x : Home) : (s.setHome l x).watches = s.watches := rfl
@[simp] theorem State.setHome_poison (l : Nat) (x : Home) : (s.setHome l x).poison = s.poison := rfl
@[simp] theorem State.setHome_writers (l : Nat) (x : Home) : (s.setHome l x).writers = s.writers := rfl
@[simp] theorem State.setHome_hbmErrs (l : Nat) (x : Home) : (s.setHome l x).hbmErrs = s.hbmErrs := rfl
@[simp] theorem State.setHome_frames (l : Nat) (x : Home) : (s.setHome l x).frames = s.frames := rfl
@[simp] theorem State.setHome_weak (l : Nat) (x : Home) : (s.setHome l x).weak = s.weak := rfl
@[simp] theorem State.setHome_faultqs (l : Nat) (x : Home) : (s.setHome l x).faultqs = s.faultqs := rfl
@[simp] theorem State.setHome_fab (l : Nat) (x : Home) : (s.setHome l x).fab = s.fab := rfl
@[simp] theorem State.setHome_res (l : Nat) (x : Home) : (s.setHome l x).res = s.res := rfl
@[simp] theorem State.setHome_mod (l : Nat) (x : Home) : (s.setHome l x).mod = s.mod := rfl

@[simp] theorem State.setPeer_cycle (l : Nat) (x : Line) : (s.setPeer l x).cycle = s.cycle := rfl
@[simp] theorem State.setPeer_inputs (l : Nat) (x : Line) : (s.setPeer l x).inputs = s.inputs := rfl
@[simp] theorem State.setPeer_turn (l : Nat) (x : Line) : (s.setPeer l x).turn = s.turn := rfl
@[simp] theorem State.setPeer_iss (l : Nat) (x : Line) : (s.setPeer l x).iss = s.iss := rfl
@[simp] theorem State.setPeer_ops (l : Nat) (x : Line) : (s.setPeer l x).ops = s.ops := rfl
@[simp] theorem State.setPeer_nextOp (l : Nat) (x : Line) : (s.setPeer l x).nextOp = s.nextOp := rfl
@[simp] theorem State.setPeer_wake (l : Nat) (x : Line) : (s.setPeer l x).wake = s.wake := rfl
@[simp] theorem State.setPeer_leases (l : Nat) (x : Line) : (s.setPeer l x).leases = s.leases := rfl
@[simp] theorem State.setPeer_choice (l : Nat) (x : Line) : (s.setPeer l x).choice = s.choice := rfl
@[simp] theorem State.setPeer_passed (l : Nat) (x : Line) : (s.setPeer l x).passed = s.passed := rfl
@[simp] theorem State.setPeer_uid (l : Nat) (x : Line) : (s.setPeer l x).uid = s.uid := rfl
@[simp] theorem State.setPeer_threads (l : Nat) (x : Line) : (s.setPeer l x).threads = s.threads := rfl
@[simp] theorem State.setPeer_gangs (l : Nat) (x : Line) : (s.setPeer l x).gangs = s.gangs := rfl
@[simp] theorem State.setPeer_cores (l : Nat) (x : Line) : (s.setPeer l x).cores = s.cores := rfl
@[simp] theorem State.setPeer_quads (l : Nat) (x : Line) : (s.setPeer l x).quads = s.quads := rfl
@[simp] theorem State.setPeer_clusters (l : Nat) (x : Line) : (s.setPeer l x).clusters = s.clusters := rfl
@[simp] theorem State.setPeer_mem (l : Nat) (x : Line) : (s.setPeer l x).mem = s.mem := rfl
@[simp] theorem State.setPeer_homes (l : Nat) (x : Line) : (s.setPeer l x).homes = s.homes := rfl
@[simp] theorem State.setPeer_msgs (l : Nat) (x : Line) : (s.setPeer l x).msgs = s.msgs := rfl
@[simp] theorem State.setPeer_hubActs (l : Nat) (x : Line) : (s.setPeer l x).hubActs = s.hubActs := rfl
@[simp] theorem State.setPeer_monitors (l : Nat) (x : Line) : (s.setPeer l x).monitors = s.monitors := rfl
@[simp] theorem State.setPeer_watches (l : Nat) (x : Line) : (s.setPeer l x).watches = s.watches := rfl
@[simp] theorem State.setPeer_poison (l : Nat) (x : Line) : (s.setPeer l x).poison = s.poison := rfl
@[simp] theorem State.setPeer_writers (l : Nat) (x : Line) : (s.setPeer l x).writers = s.writers := rfl
@[simp] theorem State.setPeer_hbmErrs (l : Nat) (x : Line) : (s.setPeer l x).hbmErrs = s.hbmErrs := rfl
@[simp] theorem State.setPeer_frames (l : Nat) (x : Line) : (s.setPeer l x).frames = s.frames := rfl
@[simp] theorem State.setPeer_weak (l : Nat) (x : Line) : (s.setPeer l x).weak = s.weak := rfl
@[simp] theorem State.setPeer_faultqs (l : Nat) (x : Line) : (s.setPeer l x).faultqs = s.faultqs := rfl
@[simp] theorem State.setPeer_fab (l : Nat) (x : Line) : (s.setPeer l x).fab = s.fab := rfl
@[simp] theorem State.setPeer_res (l : Nat) (x : Line) : (s.setPeer l x).res = s.res := rfl
@[simp] theorem State.setPeer_mod (l : Nat) (x : Line) : (s.setPeer l x).mod = s.mod := rfl

@[simp] theorem State.setL1_cycle (c l : Nat) (x : Line) : (s.setL1 c l x).cycle = s.cycle := rfl
@[simp] theorem State.setL1_inputs (c l : Nat) (x : Line) : (s.setL1 c l x).inputs = s.inputs := rfl
@[simp] theorem State.setL1_turn (c l : Nat) (x : Line) : (s.setL1 c l x).turn = s.turn := rfl
@[simp] theorem State.setL1_iss (c l : Nat) (x : Line) : (s.setL1 c l x).iss = s.iss := rfl
@[simp] theorem State.setL1_ops (c l : Nat) (x : Line) : (s.setL1 c l x).ops = s.ops := rfl
@[simp] theorem State.setL1_nextOp (c l : Nat) (x : Line) : (s.setL1 c l x).nextOp = s.nextOp := rfl
@[simp] theorem State.setL1_wake (c l : Nat) (x : Line) : (s.setL1 c l x).wake = s.wake := rfl
@[simp] theorem State.setL1_leases (c l : Nat) (x : Line) : (s.setL1 c l x).leases = s.leases := rfl
@[simp] theorem State.setL1_choice (c l : Nat) (x : Line) : (s.setL1 c l x).choice = s.choice := rfl
@[simp] theorem State.setL1_passed (c l : Nat) (x : Line) : (s.setL1 c l x).passed = s.passed := rfl
@[simp] theorem State.setL1_uid (c l : Nat) (x : Line) : (s.setL1 c l x).uid = s.uid := rfl
@[simp] theorem State.setL1_threads (c l : Nat) (x : Line) : (s.setL1 c l x).threads = s.threads := rfl
@[simp] theorem State.setL1_gangs (c l : Nat) (x : Line) : (s.setL1 c l x).gangs = s.gangs := rfl
@[simp] theorem State.setL1_quads (c l : Nat) (x : Line) : (s.setL1 c l x).quads = s.quads := rfl
@[simp] theorem State.setL1_clusters (c l : Nat) (x : Line) : (s.setL1 c l x).clusters = s.clusters := rfl
@[simp] theorem State.setL1_mem (c l : Nat) (x : Line) : (s.setL1 c l x).mem = s.mem := rfl
@[simp] theorem State.setL1_homes (c l : Nat) (x : Line) : (s.setL1 c l x).homes = s.homes := rfl
@[simp] theorem State.setL1_peers (c l : Nat) (x : Line) : (s.setL1 c l x).peers = s.peers := rfl
@[simp] theorem State.setL1_msgs (c l : Nat) (x : Line) : (s.setL1 c l x).msgs = s.msgs := rfl
@[simp] theorem State.setL1_hubActs (c l : Nat) (x : Line) : (s.setL1 c l x).hubActs = s.hubActs := rfl
@[simp] theorem State.setL1_monitors (c l : Nat) (x : Line) : (s.setL1 c l x).monitors = s.monitors := rfl
@[simp] theorem State.setL1_watches (c l : Nat) (x : Line) : (s.setL1 c l x).watches = s.watches := rfl
@[simp] theorem State.setL1_poison (c l : Nat) (x : Line) : (s.setL1 c l x).poison = s.poison := rfl
@[simp] theorem State.setL1_writers (c l : Nat) (x : Line) : (s.setL1 c l x).writers = s.writers := rfl
@[simp] theorem State.setL1_hbmErrs (c l : Nat) (x : Line) : (s.setL1 c l x).hbmErrs = s.hbmErrs := rfl
@[simp] theorem State.setL1_frames (c l : Nat) (x : Line) : (s.setL1 c l x).frames = s.frames := rfl
@[simp] theorem State.setL1_weak (c l : Nat) (x : Line) : (s.setL1 c l x).weak = s.weak := rfl
@[simp] theorem State.setL1_faultqs (c l : Nat) (x : Line) : (s.setL1 c l x).faultqs = s.faultqs := rfl
@[simp] theorem State.setL1_fab (c l : Nat) (x : Line) : (s.setL1 c l x).fab = s.fab := rfl
@[simp] theorem State.setL1_res (c l : Nat) (x : Line) : (s.setL1 c l x).res = s.res := rfl
@[simp] theorem State.setL1_mod (c l : Nat) (x : Line) : (s.setL1 c l x).mod = s.mod := rfl

@[simp] theorem State.setGang_cycle (g : Nat) (x : Gang) : (s.setGang g x).cycle = s.cycle := rfl
@[simp] theorem State.setGang_inputs (g : Nat) (x : Gang) : (s.setGang g x).inputs = s.inputs := rfl
@[simp] theorem State.setGang_turn (g : Nat) (x : Gang) : (s.setGang g x).turn = s.turn := rfl
@[simp] theorem State.setGang_iss (g : Nat) (x : Gang) : (s.setGang g x).iss = s.iss := rfl
@[simp] theorem State.setGang_ops (g : Nat) (x : Gang) : (s.setGang g x).ops = s.ops := rfl
@[simp] theorem State.setGang_nextOp (g : Nat) (x : Gang) : (s.setGang g x).nextOp = s.nextOp := rfl
@[simp] theorem State.setGang_wake (g : Nat) (x : Gang) : (s.setGang g x).wake = s.wake := rfl
@[simp] theorem State.setGang_leases (g : Nat) (x : Gang) : (s.setGang g x).leases = s.leases := rfl
@[simp] theorem State.setGang_choice (g : Nat) (x : Gang) : (s.setGang g x).choice = s.choice := rfl
@[simp] theorem State.setGang_passed (g : Nat) (x : Gang) : (s.setGang g x).passed = s.passed := rfl
@[simp] theorem State.setGang_uid (g : Nat) (x : Gang) : (s.setGang g x).uid = s.uid := rfl
@[simp] theorem State.setGang_threads (g : Nat) (x : Gang) : (s.setGang g x).threads = s.threads := rfl
@[simp] theorem State.setGang_cores (g : Nat) (x : Gang) : (s.setGang g x).cores = s.cores := rfl
@[simp] theorem State.setGang_quads (g : Nat) (x : Gang) : (s.setGang g x).quads = s.quads := rfl
@[simp] theorem State.setGang_clusters (g : Nat) (x : Gang) : (s.setGang g x).clusters = s.clusters := rfl
@[simp] theorem State.setGang_mem (g : Nat) (x : Gang) : (s.setGang g x).mem = s.mem := rfl
@[simp] theorem State.setGang_homes (g : Nat) (x : Gang) : (s.setGang g x).homes = s.homes := rfl
@[simp] theorem State.setGang_peers (g : Nat) (x : Gang) : (s.setGang g x).peers = s.peers := rfl
@[simp] theorem State.setGang_msgs (g : Nat) (x : Gang) : (s.setGang g x).msgs = s.msgs := rfl
@[simp] theorem State.setGang_hubActs (g : Nat) (x : Gang) : (s.setGang g x).hubActs = s.hubActs := rfl
@[simp] theorem State.setGang_monitors (g : Nat) (x : Gang) : (s.setGang g x).monitors = s.monitors := rfl
@[simp] theorem State.setGang_watches (g : Nat) (x : Gang) : (s.setGang g x).watches = s.watches := rfl
@[simp] theorem State.setGang_poison (g : Nat) (x : Gang) : (s.setGang g x).poison = s.poison := rfl
@[simp] theorem State.setGang_writers (g : Nat) (x : Gang) : (s.setGang g x).writers = s.writers := rfl
@[simp] theorem State.setGang_hbmErrs (g : Nat) (x : Gang) : (s.setGang g x).hbmErrs = s.hbmErrs := rfl
@[simp] theorem State.setGang_frames (g : Nat) (x : Gang) : (s.setGang g x).frames = s.frames := rfl
@[simp] theorem State.setGang_weak (g : Nat) (x : Gang) : (s.setGang g x).weak = s.weak := rfl
@[simp] theorem State.setGang_faultqs (g : Nat) (x : Gang) : (s.setGang g x).faultqs = s.faultqs := rfl
@[simp] theorem State.setGang_fab (g : Nat) (x : Gang) : (s.setGang g x).fab = s.fab := rfl
@[simp] theorem State.setGang_res (g : Nat) (x : Gang) : (s.setGang g x).res = s.res := rfl
@[simp] theorem State.setGang_mod (g : Nat) (x : Gang) : (s.setGang g x).mod = s.mod := rfl

@[simp] theorem State.updRes_cycle (f : Resident → Resident) : (s.updRes f).cycle = s.cycle := rfl
@[simp] theorem State.updRes_inputs (f : Resident → Resident) : (s.updRes f).inputs = s.inputs := rfl
@[simp] theorem State.updRes_turn (f : Resident → Resident) : (s.updRes f).turn = s.turn := rfl
@[simp] theorem State.updRes_iss (f : Resident → Resident) : (s.updRes f).iss = s.iss := rfl
@[simp] theorem State.updRes_ops (f : Resident → Resident) : (s.updRes f).ops = s.ops := rfl
@[simp] theorem State.updRes_nextOp (f : Resident → Resident) : (s.updRes f).nextOp = s.nextOp := rfl
@[simp] theorem State.updRes_wake (f : Resident → Resident) : (s.updRes f).wake = s.wake := rfl
@[simp] theorem State.updRes_leases (f : Resident → Resident) : (s.updRes f).leases = s.leases := rfl
@[simp] theorem State.updRes_choice (f : Resident → Resident) : (s.updRes f).choice = s.choice := rfl
@[simp] theorem State.updRes_passed (f : Resident → Resident) : (s.updRes f).passed = s.passed := rfl
@[simp] theorem State.updRes_uid (f : Resident → Resident) : (s.updRes f).uid = s.uid := rfl
@[simp] theorem State.updRes_threads (f : Resident → Resident) : (s.updRes f).threads = s.threads := rfl
@[simp] theorem State.updRes_gangs (f : Resident → Resident) : (s.updRes f).gangs = s.gangs := rfl
@[simp] theorem State.updRes_cores (f : Resident → Resident) : (s.updRes f).cores = s.cores := rfl
@[simp] theorem State.updRes_quads (f : Resident → Resident) : (s.updRes f).quads = s.quads := rfl
@[simp] theorem State.updRes_clusters (f : Resident → Resident) : (s.updRes f).clusters = s.clusters := rfl
@[simp] theorem State.updRes_mem (f : Resident → Resident) : (s.updRes f).mem = s.mem := rfl
@[simp] theorem State.updRes_homes (f : Resident → Resident) : (s.updRes f).homes = s.homes := rfl
@[simp] theorem State.updRes_peers (f : Resident → Resident) : (s.updRes f).peers = s.peers := rfl
@[simp] theorem State.updRes_msgs (f : Resident → Resident) : (s.updRes f).msgs = s.msgs := rfl
@[simp] theorem State.updRes_hubActs (f : Resident → Resident) : (s.updRes f).hubActs = s.hubActs := rfl
@[simp] theorem State.updRes_monitors (f : Resident → Resident) : (s.updRes f).monitors = s.monitors := rfl
@[simp] theorem State.updRes_watches (f : Resident → Resident) : (s.updRes f).watches = s.watches := rfl
@[simp] theorem State.updRes_poison (f : Resident → Resident) : (s.updRes f).poison = s.poison := rfl
@[simp] theorem State.updRes_writers (f : Resident → Resident) : (s.updRes f).writers = s.writers := rfl
@[simp] theorem State.updRes_hbmErrs (f : Resident → Resident) : (s.updRes f).hbmErrs = s.hbmErrs := rfl
@[simp] theorem State.updRes_frames (f : Resident → Resident) : (s.updRes f).frames = s.frames := rfl
@[simp] theorem State.updRes_weak (f : Resident → Resident) : (s.updRes f).weak = s.weak := rfl
@[simp] theorem State.updRes_faultqs (f : Resident → Resident) : (s.updRes f).faultqs = s.faultqs := rfl
@[simp] theorem State.updRes_fab (f : Resident → Resident) : (s.updRes f).fab = s.fab := rfl
@[simp] theorem State.updRes_mod (f : Resident → Resident) : (s.updRes f).mod = s.mod := rfl

@[simp] theorem State.updFab_cycle (f : Fabric → Fabric) : (s.updFab f).cycle = s.cycle := rfl
@[simp] theorem State.updFab_inputs (f : Fabric → Fabric) : (s.updFab f).inputs = s.inputs := rfl
@[simp] theorem State.updFab_turn (f : Fabric → Fabric) : (s.updFab f).turn = s.turn := rfl
@[simp] theorem State.updFab_iss (f : Fabric → Fabric) : (s.updFab f).iss = s.iss := rfl
@[simp] theorem State.updFab_ops (f : Fabric → Fabric) : (s.updFab f).ops = s.ops := rfl
@[simp] theorem State.updFab_nextOp (f : Fabric → Fabric) : (s.updFab f).nextOp = s.nextOp := rfl
@[simp] theorem State.updFab_wake (f : Fabric → Fabric) : (s.updFab f).wake = s.wake := rfl
@[simp] theorem State.updFab_leases (f : Fabric → Fabric) : (s.updFab f).leases = s.leases := rfl
@[simp] theorem State.updFab_choice (f : Fabric → Fabric) : (s.updFab f).choice = s.choice := rfl
@[simp] theorem State.updFab_passed (f : Fabric → Fabric) : (s.updFab f).passed = s.passed := rfl
@[simp] theorem State.updFab_uid (f : Fabric → Fabric) : (s.updFab f).uid = s.uid := rfl
@[simp] theorem State.updFab_threads (f : Fabric → Fabric) : (s.updFab f).threads = s.threads := rfl
@[simp] theorem State.updFab_gangs (f : Fabric → Fabric) : (s.updFab f).gangs = s.gangs := rfl
@[simp] theorem State.updFab_cores (f : Fabric → Fabric) : (s.updFab f).cores = s.cores := rfl
@[simp] theorem State.updFab_quads (f : Fabric → Fabric) : (s.updFab f).quads = s.quads := rfl
@[simp] theorem State.updFab_clusters (f : Fabric → Fabric) : (s.updFab f).clusters = s.clusters := rfl
@[simp] theorem State.updFab_mem (f : Fabric → Fabric) : (s.updFab f).mem = s.mem := rfl
@[simp] theorem State.updFab_homes (f : Fabric → Fabric) : (s.updFab f).homes = s.homes := rfl
@[simp] theorem State.updFab_peers (f : Fabric → Fabric) : (s.updFab f).peers = s.peers := rfl
@[simp] theorem State.updFab_msgs (f : Fabric → Fabric) : (s.updFab f).msgs = s.msgs := rfl
@[simp] theorem State.updFab_hubActs (f : Fabric → Fabric) : (s.updFab f).hubActs = s.hubActs := rfl
@[simp] theorem State.updFab_monitors (f : Fabric → Fabric) : (s.updFab f).monitors = s.monitors := rfl
@[simp] theorem State.updFab_watches (f : Fabric → Fabric) : (s.updFab f).watches = s.watches := rfl
@[simp] theorem State.updFab_poison (f : Fabric → Fabric) : (s.updFab f).poison = s.poison := rfl
@[simp] theorem State.updFab_writers (f : Fabric → Fabric) : (s.updFab f).writers = s.writers := rfl
@[simp] theorem State.updFab_hbmErrs (f : Fabric → Fabric) : (s.updFab f).hbmErrs = s.hbmErrs := rfl
@[simp] theorem State.updFab_frames (f : Fabric → Fabric) : (s.updFab f).frames = s.frames := rfl
@[simp] theorem State.updFab_weak (f : Fabric → Fabric) : (s.updFab f).weak = s.weak := rfl
@[simp] theorem State.updFab_faultqs (f : Fabric → Fabric) : (s.updFab f).faultqs = s.faultqs := rfl
@[simp] theorem State.updFab_res (f : Fabric → Fabric) : (s.updFab f).res = s.res := rfl
@[simp] theorem State.updFab_mod (f : Fabric → Fabric) : (s.updFab f).mod = s.mod := rfl

@[simp] theorem State.updMod_cycle (f : Module → Module) : (s.updMod f).cycle = s.cycle := rfl
@[simp] theorem State.updMod_inputs (f : Module → Module) : (s.updMod f).inputs = s.inputs := rfl
@[simp] theorem State.updMod_turn (f : Module → Module) : (s.updMod f).turn = s.turn := rfl
@[simp] theorem State.updMod_iss (f : Module → Module) : (s.updMod f).iss = s.iss := rfl
@[simp] theorem State.updMod_ops (f : Module → Module) : (s.updMod f).ops = s.ops := rfl
@[simp] theorem State.updMod_nextOp (f : Module → Module) : (s.updMod f).nextOp = s.nextOp := rfl
@[simp] theorem State.updMod_wake (f : Module → Module) : (s.updMod f).wake = s.wake := rfl
@[simp] theorem State.updMod_leases (f : Module → Module) : (s.updMod f).leases = s.leases := rfl
@[simp] theorem State.updMod_choice (f : Module → Module) : (s.updMod f).choice = s.choice := rfl
@[simp] theorem State.updMod_passed (f : Module → Module) : (s.updMod f).passed = s.passed := rfl
@[simp] theorem State.updMod_uid (f : Module → Module) : (s.updMod f).uid = s.uid := rfl
@[simp] theorem State.updMod_threads (f : Module → Module) : (s.updMod f).threads = s.threads := rfl
@[simp] theorem State.updMod_gangs (f : Module → Module) : (s.updMod f).gangs = s.gangs := rfl
@[simp] theorem State.updMod_cores (f : Module → Module) : (s.updMod f).cores = s.cores := rfl
@[simp] theorem State.updMod_quads (f : Module → Module) : (s.updMod f).quads = s.quads := rfl
@[simp] theorem State.updMod_clusters (f : Module → Module) : (s.updMod f).clusters = s.clusters := rfl
@[simp] theorem State.updMod_mem (f : Module → Module) : (s.updMod f).mem = s.mem := rfl
@[simp] theorem State.updMod_homes (f : Module → Module) : (s.updMod f).homes = s.homes := rfl
@[simp] theorem State.updMod_peers (f : Module → Module) : (s.updMod f).peers = s.peers := rfl
@[simp] theorem State.updMod_msgs (f : Module → Module) : (s.updMod f).msgs = s.msgs := rfl
@[simp] theorem State.updMod_hubActs (f : Module → Module) : (s.updMod f).hubActs = s.hubActs := rfl
@[simp] theorem State.updMod_monitors (f : Module → Module) : (s.updMod f).monitors = s.monitors := rfl
@[simp] theorem State.updMod_watches (f : Module → Module) : (s.updMod f).watches = s.watches := rfl
@[simp] theorem State.updMod_poison (f : Module → Module) : (s.updMod f).poison = s.poison := rfl
@[simp] theorem State.updMod_writers (f : Module → Module) : (s.updMod f).writers = s.writers := rfl
@[simp] theorem State.updMod_hbmErrs (f : Module → Module) : (s.updMod f).hbmErrs = s.hbmErrs := rfl
@[simp] theorem State.updMod_frames (f : Module → Module) : (s.updMod f).frames = s.frames := rfl
@[simp] theorem State.updMod_weak (f : Module → Module) : (s.updMod f).weak = s.weak := rfl
@[simp] theorem State.updMod_faultqs (f : Module → Module) : (s.updMod f).faultqs = s.faultqs := rfl
@[simp] theorem State.updMod_fab (f : Module → Module) : (s.updMod f).fab = s.fab := rfl
@[simp] theorem State.updMod_res (f : Module → Module) : (s.updMod f).res = s.res := rfl

@[simp] theorem State.updSpace_cycle (n : Nat) (f : Space → Space) : (s.updSpace n f).cycle = s.cycle := rfl
@[simp] theorem State.updSpace_inputs (n : Nat) (f : Space → Space) : (s.updSpace n f).inputs = s.inputs := rfl
@[simp] theorem State.updSpace_turn (n : Nat) (f : Space → Space) : (s.updSpace n f).turn = s.turn := rfl
@[simp] theorem State.updSpace_iss (n : Nat) (f : Space → Space) : (s.updSpace n f).iss = s.iss := rfl
@[simp] theorem State.updSpace_ops (n : Nat) (f : Space → Space) : (s.updSpace n f).ops = s.ops := rfl
@[simp] theorem State.updSpace_nextOp (n : Nat) (f : Space → Space) : (s.updSpace n f).nextOp = s.nextOp := rfl
@[simp] theorem State.updSpace_wake (n : Nat) (f : Space → Space) : (s.updSpace n f).wake = s.wake := rfl
@[simp] theorem State.updSpace_leases (n : Nat) (f : Space → Space) : (s.updSpace n f).leases = s.leases := rfl
@[simp] theorem State.updSpace_choice (n : Nat) (f : Space → Space) : (s.updSpace n f).choice = s.choice := rfl
@[simp] theorem State.updSpace_passed (n : Nat) (f : Space → Space) : (s.updSpace n f).passed = s.passed := rfl
@[simp] theorem State.updSpace_uid (n : Nat) (f : Space → Space) : (s.updSpace n f).uid = s.uid := rfl
@[simp] theorem State.updSpace_threads (n : Nat) (f : Space → Space) : (s.updSpace n f).threads = s.threads := rfl
@[simp] theorem State.updSpace_gangs (n : Nat) (f : Space → Space) : (s.updSpace n f).gangs = s.gangs := rfl
@[simp] theorem State.updSpace_cores (n : Nat) (f : Space → Space) : (s.updSpace n f).cores = s.cores := rfl
@[simp] theorem State.updSpace_quads (n : Nat) (f : Space → Space) : (s.updSpace n f).quads = s.quads := rfl
@[simp] theorem State.updSpace_clusters (n : Nat) (f : Space → Space) : (s.updSpace n f).clusters = s.clusters := rfl
@[simp] theorem State.updSpace_mem (n : Nat) (f : Space → Space) : (s.updSpace n f).mem = s.mem := rfl
@[simp] theorem State.updSpace_homes (n : Nat) (f : Space → Space) : (s.updSpace n f).homes = s.homes := rfl
@[simp] theorem State.updSpace_peers (n : Nat) (f : Space → Space) : (s.updSpace n f).peers = s.peers := rfl
@[simp] theorem State.updSpace_msgs (n : Nat) (f : Space → Space) : (s.updSpace n f).msgs = s.msgs := rfl
@[simp] theorem State.updSpace_hubActs (n : Nat) (f : Space → Space) : (s.updSpace n f).hubActs = s.hubActs := rfl
@[simp] theorem State.updSpace_monitors (n : Nat) (f : Space → Space) : (s.updSpace n f).monitors = s.monitors := rfl
@[simp] theorem State.updSpace_watches (n : Nat) (f : Space → Space) : (s.updSpace n f).watches = s.watches := rfl
@[simp] theorem State.updSpace_poison (n : Nat) (f : Space → Space) : (s.updSpace n f).poison = s.poison := rfl
@[simp] theorem State.updSpace_writers (n : Nat) (f : Space → Space) : (s.updSpace n f).writers = s.writers := rfl
@[simp] theorem State.updSpace_hbmErrs (n : Nat) (f : Space → Space) : (s.updSpace n f).hbmErrs = s.hbmErrs := rfl
@[simp] theorem State.updSpace_frames (n : Nat) (f : Space → Space) : (s.updSpace n f).frames = s.frames := rfl
@[simp] theorem State.updSpace_weak (n : Nat) (f : Space → Space) : (s.updSpace n f).weak = s.weak := rfl
@[simp] theorem State.updSpace_faultqs (n : Nat) (f : Space → Space) : (s.updSpace n f).faultqs = s.faultqs := rfl
@[simp] theorem State.updSpace_fab (n : Nat) (f : Space → Space) : (s.updSpace n f).fab = s.fab := rfl
@[simp] theorem State.updSpace_mod (n : Nat) (f : Space → Space) : (s.updSpace n f).mod = s.mod := rfl

@[simp] theorem State.updCore_cycle (c : Nat) (f : Core → Core) : (s.updCore c f).cycle = s.cycle := rfl
@[simp] theorem State.updCore_inputs (c : Nat) (f : Core → Core) : (s.updCore c f).inputs = s.inputs := rfl
@[simp] theorem State.updCore_turn (c : Nat) (f : Core → Core) : (s.updCore c f).turn = s.turn := rfl
@[simp] theorem State.updCore_iss (c : Nat) (f : Core → Core) : (s.updCore c f).iss = s.iss := rfl
@[simp] theorem State.updCore_ops (c : Nat) (f : Core → Core) : (s.updCore c f).ops = s.ops := rfl
@[simp] theorem State.updCore_nextOp (c : Nat) (f : Core → Core) : (s.updCore c f).nextOp = s.nextOp := rfl
@[simp] theorem State.updCore_wake (c : Nat) (f : Core → Core) : (s.updCore c f).wake = s.wake := rfl
@[simp] theorem State.updCore_leases (c : Nat) (f : Core → Core) : (s.updCore c f).leases = s.leases := rfl
@[simp] theorem State.updCore_choice (c : Nat) (f : Core → Core) : (s.updCore c f).choice = s.choice := rfl
@[simp] theorem State.updCore_passed (c : Nat) (f : Core → Core) : (s.updCore c f).passed = s.passed := rfl
@[simp] theorem State.updCore_uid (c : Nat) (f : Core → Core) : (s.updCore c f).uid = s.uid := rfl
@[simp] theorem State.updCore_threads (c : Nat) (f : Core → Core) : (s.updCore c f).threads = s.threads := rfl
@[simp] theorem State.updCore_gangs (c : Nat) (f : Core → Core) : (s.updCore c f).gangs = s.gangs := rfl
@[simp] theorem State.updCore_quads (c : Nat) (f : Core → Core) : (s.updCore c f).quads = s.quads := rfl
@[simp] theorem State.updCore_clusters (c : Nat) (f : Core → Core) : (s.updCore c f).clusters = s.clusters := rfl
@[simp] theorem State.updCore_mem (c : Nat) (f : Core → Core) : (s.updCore c f).mem = s.mem := rfl
@[simp] theorem State.updCore_homes (c : Nat) (f : Core → Core) : (s.updCore c f).homes = s.homes := rfl
@[simp] theorem State.updCore_peers (c : Nat) (f : Core → Core) : (s.updCore c f).peers = s.peers := rfl
@[simp] theorem State.updCore_msgs (c : Nat) (f : Core → Core) : (s.updCore c f).msgs = s.msgs := rfl
@[simp] theorem State.updCore_hubActs (c : Nat) (f : Core → Core) : (s.updCore c f).hubActs = s.hubActs := rfl
@[simp] theorem State.updCore_monitors (c : Nat) (f : Core → Core) : (s.updCore c f).monitors = s.monitors := rfl
@[simp] theorem State.updCore_watches (c : Nat) (f : Core → Core) : (s.updCore c f).watches = s.watches := rfl
@[simp] theorem State.updCore_poison (c : Nat) (f : Core → Core) : (s.updCore c f).poison = s.poison := rfl
@[simp] theorem State.updCore_writers (c : Nat) (f : Core → Core) : (s.updCore c f).writers = s.writers := rfl
@[simp] theorem State.updCore_hbmErrs (c : Nat) (f : Core → Core) : (s.updCore c f).hbmErrs = s.hbmErrs := rfl
@[simp] theorem State.updCore_frames (c : Nat) (f : Core → Core) : (s.updCore c f).frames = s.frames := rfl
@[simp] theorem State.updCore_weak (c : Nat) (f : Core → Core) : (s.updCore c f).weak = s.weak := rfl
@[simp] theorem State.updCore_faultqs (c : Nat) (f : Core → Core) : (s.updCore c f).faultqs = s.faultqs := rfl
@[simp] theorem State.updCore_fab (c : Nat) (f : Core → Core) : (s.updCore c f).fab = s.fab := rfl
@[simp] theorem State.updCore_res (c : Nat) (f : Core → Core) : (s.updCore c f).res = s.res := rfl
@[simp] theorem State.updCore_mod (c : Nat) (f : Core → Core) : (s.updCore c f).mod = s.mod := rfl

@[simp] theorem State.updHome_cycle (l : Nat) (f : Home → Home) : (s.updHome l f).cycle = s.cycle := rfl
@[simp] theorem State.updHome_inputs (l : Nat) (f : Home → Home) : (s.updHome l f).inputs = s.inputs := rfl
@[simp] theorem State.updHome_turn (l : Nat) (f : Home → Home) : (s.updHome l f).turn = s.turn := rfl
@[simp] theorem State.updHome_iss (l : Nat) (f : Home → Home) : (s.updHome l f).iss = s.iss := rfl
@[simp] theorem State.updHome_ops (l : Nat) (f : Home → Home) : (s.updHome l f).ops = s.ops := rfl
@[simp] theorem State.updHome_nextOp (l : Nat) (f : Home → Home) : (s.updHome l f).nextOp = s.nextOp := rfl
@[simp] theorem State.updHome_wake (l : Nat) (f : Home → Home) : (s.updHome l f).wake = s.wake := rfl
@[simp] theorem State.updHome_leases (l : Nat) (f : Home → Home) : (s.updHome l f).leases = s.leases := rfl
@[simp] theorem State.updHome_choice (l : Nat) (f : Home → Home) : (s.updHome l f).choice = s.choice := rfl
@[simp] theorem State.updHome_passed (l : Nat) (f : Home → Home) : (s.updHome l f).passed = s.passed := rfl
@[simp] theorem State.updHome_uid (l : Nat) (f : Home → Home) : (s.updHome l f).uid = s.uid := rfl
@[simp] theorem State.updHome_threads (l : Nat) (f : Home → Home) : (s.updHome l f).threads = s.threads := rfl
@[simp] theorem State.updHome_gangs (l : Nat) (f : Home → Home) : (s.updHome l f).gangs = s.gangs := rfl
@[simp] theorem State.updHome_cores (l : Nat) (f : Home → Home) : (s.updHome l f).cores = s.cores := rfl
@[simp] theorem State.updHome_quads (l : Nat) (f : Home → Home) : (s.updHome l f).quads = s.quads := rfl
@[simp] theorem State.updHome_clusters (l : Nat) (f : Home → Home) : (s.updHome l f).clusters = s.clusters := rfl
@[simp] theorem State.updHome_mem (l : Nat) (f : Home → Home) : (s.updHome l f).mem = s.mem := rfl
@[simp] theorem State.updHome_peers (l : Nat) (f : Home → Home) : (s.updHome l f).peers = s.peers := rfl
@[simp] theorem State.updHome_msgs (l : Nat) (f : Home → Home) : (s.updHome l f).msgs = s.msgs := rfl
@[simp] theorem State.updHome_hubActs (l : Nat) (f : Home → Home) : (s.updHome l f).hubActs = s.hubActs := rfl
@[simp] theorem State.updHome_monitors (l : Nat) (f : Home → Home) : (s.updHome l f).monitors = s.monitors := rfl
@[simp] theorem State.updHome_watches (l : Nat) (f : Home → Home) : (s.updHome l f).watches = s.watches := rfl
@[simp] theorem State.updHome_poison (l : Nat) (f : Home → Home) : (s.updHome l f).poison = s.poison := rfl
@[simp] theorem State.updHome_writers (l : Nat) (f : Home → Home) : (s.updHome l f).writers = s.writers := rfl
@[simp] theorem State.updHome_hbmErrs (l : Nat) (f : Home → Home) : (s.updHome l f).hbmErrs = s.hbmErrs := rfl
@[simp] theorem State.updHome_frames (l : Nat) (f : Home → Home) : (s.updHome l f).frames = s.frames := rfl
@[simp] theorem State.updHome_weak (l : Nat) (f : Home → Home) : (s.updHome l f).weak = s.weak := rfl
@[simp] theorem State.updHome_faultqs (l : Nat) (f : Home → Home) : (s.updHome l f).faultqs = s.faultqs := rfl
@[simp] theorem State.updHome_fab (l : Nat) (f : Home → Home) : (s.updHome l f).fab = s.fab := rfl
@[simp] theorem State.updHome_res (l : Nat) (f : Home → Home) : (s.updHome l f).res = s.res := rfl
@[simp] theorem State.updHome_mod (l : Nat) (f : Home → Home) : (s.updHome l f).mod = s.mod := rfl

@[simp] theorem State.updPeer_cycle (l : Nat) (f : Line → Line) : (s.updPeer l f).cycle = s.cycle := rfl
@[simp] theorem State.updPeer_inputs (l : Nat) (f : Line → Line) : (s.updPeer l f).inputs = s.inputs := rfl
@[simp] theorem State.updPeer_turn (l : Nat) (f : Line → Line) : (s.updPeer l f).turn = s.turn := rfl
@[simp] theorem State.updPeer_iss (l : Nat) (f : Line → Line) : (s.updPeer l f).iss = s.iss := rfl
@[simp] theorem State.updPeer_ops (l : Nat) (f : Line → Line) : (s.updPeer l f).ops = s.ops := rfl
@[simp] theorem State.updPeer_nextOp (l : Nat) (f : Line → Line) : (s.updPeer l f).nextOp = s.nextOp := rfl
@[simp] theorem State.updPeer_wake (l : Nat) (f : Line → Line) : (s.updPeer l f).wake = s.wake := rfl
@[simp] theorem State.updPeer_leases (l : Nat) (f : Line → Line) : (s.updPeer l f).leases = s.leases := rfl
@[simp] theorem State.updPeer_choice (l : Nat) (f : Line → Line) : (s.updPeer l f).choice = s.choice := rfl
@[simp] theorem State.updPeer_passed (l : Nat) (f : Line → Line) : (s.updPeer l f).passed = s.passed := rfl
@[simp] theorem State.updPeer_uid (l : Nat) (f : Line → Line) : (s.updPeer l f).uid = s.uid := rfl
@[simp] theorem State.updPeer_threads (l : Nat) (f : Line → Line) : (s.updPeer l f).threads = s.threads := rfl
@[simp] theorem State.updPeer_gangs (l : Nat) (f : Line → Line) : (s.updPeer l f).gangs = s.gangs := rfl
@[simp] theorem State.updPeer_cores (l : Nat) (f : Line → Line) : (s.updPeer l f).cores = s.cores := rfl
@[simp] theorem State.updPeer_quads (l : Nat) (f : Line → Line) : (s.updPeer l f).quads = s.quads := rfl
@[simp] theorem State.updPeer_clusters (l : Nat) (f : Line → Line) : (s.updPeer l f).clusters = s.clusters := rfl
@[simp] theorem State.updPeer_mem (l : Nat) (f : Line → Line) : (s.updPeer l f).mem = s.mem := rfl
@[simp] theorem State.updPeer_homes (l : Nat) (f : Line → Line) : (s.updPeer l f).homes = s.homes := rfl
@[simp] theorem State.updPeer_msgs (l : Nat) (f : Line → Line) : (s.updPeer l f).msgs = s.msgs := rfl
@[simp] theorem State.updPeer_hubActs (l : Nat) (f : Line → Line) : (s.updPeer l f).hubActs = s.hubActs := rfl
@[simp] theorem State.updPeer_monitors (l : Nat) (f : Line → Line) : (s.updPeer l f).monitors = s.monitors := rfl
@[simp] theorem State.updPeer_watches (l : Nat) (f : Line → Line) : (s.updPeer l f).watches = s.watches := rfl
@[simp] theorem State.updPeer_poison (l : Nat) (f : Line → Line) : (s.updPeer l f).poison = s.poison := rfl
@[simp] theorem State.updPeer_writers (l : Nat) (f : Line → Line) : (s.updPeer l f).writers = s.writers := rfl
@[simp] theorem State.updPeer_hbmErrs (l : Nat) (f : Line → Line) : (s.updPeer l f).hbmErrs = s.hbmErrs := rfl
@[simp] theorem State.updPeer_frames (l : Nat) (f : Line → Line) : (s.updPeer l f).frames = s.frames := rfl
@[simp] theorem State.updPeer_weak (l : Nat) (f : Line → Line) : (s.updPeer l f).weak = s.weak := rfl
@[simp] theorem State.updPeer_faultqs (l : Nat) (f : Line → Line) : (s.updPeer l f).faultqs = s.faultqs := rfl
@[simp] theorem State.updPeer_fab (l : Nat) (f : Line → Line) : (s.updPeer l f).fab = s.fab := rfl
@[simp] theorem State.updPeer_res (l : Nat) (f : Line → Line) : (s.updPeer l f).res = s.res := rfl
@[simp] theorem State.updPeer_mod (l : Nat) (f : Line → Line) : (s.updPeer l f).mod = s.mod := rfl

@[simp] theorem State.updL1_cycle (c l : Nat) (f : Line → Line) : (s.updL1 c l f).cycle = s.cycle := rfl
@[simp] theorem State.updL1_inputs (c l : Nat) (f : Line → Line) : (s.updL1 c l f).inputs = s.inputs := rfl
@[simp] theorem State.updL1_turn (c l : Nat) (f : Line → Line) : (s.updL1 c l f).turn = s.turn := rfl
@[simp] theorem State.updL1_iss (c l : Nat) (f : Line → Line) : (s.updL1 c l f).iss = s.iss := rfl
@[simp] theorem State.updL1_ops (c l : Nat) (f : Line → Line) : (s.updL1 c l f).ops = s.ops := rfl
@[simp] theorem State.updL1_nextOp (c l : Nat) (f : Line → Line) : (s.updL1 c l f).nextOp = s.nextOp := rfl
@[simp] theorem State.updL1_wake (c l : Nat) (f : Line → Line) : (s.updL1 c l f).wake = s.wake := rfl
@[simp] theorem State.updL1_leases (c l : Nat) (f : Line → Line) : (s.updL1 c l f).leases = s.leases := rfl
@[simp] theorem State.updL1_choice (c l : Nat) (f : Line → Line) : (s.updL1 c l f).choice = s.choice := rfl
@[simp] theorem State.updL1_passed (c l : Nat) (f : Line → Line) : (s.updL1 c l f).passed = s.passed := rfl
@[simp] theorem State.updL1_uid (c l : Nat) (f : Line → Line) : (s.updL1 c l f).uid = s.uid := rfl
@[simp] theorem State.updL1_threads (c l : Nat) (f : Line → Line) : (s.updL1 c l f).threads = s.threads := rfl
@[simp] theorem State.updL1_gangs (c l : Nat) (f : Line → Line) : (s.updL1 c l f).gangs = s.gangs := rfl
@[simp] theorem State.updL1_quads (c l : Nat) (f : Line → Line) : (s.updL1 c l f).quads = s.quads := rfl
@[simp] theorem State.updL1_clusters (c l : Nat) (f : Line → Line) : (s.updL1 c l f).clusters = s.clusters := rfl
@[simp] theorem State.updL1_mem (c l : Nat) (f : Line → Line) : (s.updL1 c l f).mem = s.mem := rfl
@[simp] theorem State.updL1_homes (c l : Nat) (f : Line → Line) : (s.updL1 c l f).homes = s.homes := rfl
@[simp] theorem State.updL1_peers (c l : Nat) (f : Line → Line) : (s.updL1 c l f).peers = s.peers := rfl
@[simp] theorem State.updL1_msgs (c l : Nat) (f : Line → Line) : (s.updL1 c l f).msgs = s.msgs := rfl
@[simp] theorem State.updL1_hubActs (c l : Nat) (f : Line → Line) : (s.updL1 c l f).hubActs = s.hubActs := rfl
@[simp] theorem State.updL1_monitors (c l : Nat) (f : Line → Line) : (s.updL1 c l f).monitors = s.monitors := rfl
@[simp] theorem State.updL1_watches (c l : Nat) (f : Line → Line) : (s.updL1 c l f).watches = s.watches := rfl
@[simp] theorem State.updL1_poison (c l : Nat) (f : Line → Line) : (s.updL1 c l f).poison = s.poison := rfl
@[simp] theorem State.updL1_writers (c l : Nat) (f : Line → Line) : (s.updL1 c l f).writers = s.writers := rfl
@[simp] theorem State.updL1_hbmErrs (c l : Nat) (f : Line → Line) : (s.updL1 c l f).hbmErrs = s.hbmErrs := rfl
@[simp] theorem State.updL1_frames (c l : Nat) (f : Line → Line) : (s.updL1 c l f).frames = s.frames := rfl
@[simp] theorem State.updL1_weak (c l : Nat) (f : Line → Line) : (s.updL1 c l f).weak = s.weak := rfl
@[simp] theorem State.updL1_faultqs (c l : Nat) (f : Line → Line) : (s.updL1 c l f).faultqs = s.faultqs := rfl
@[simp] theorem State.updL1_fab (c l : Nat) (f : Line → Line) : (s.updL1 c l f).fab = s.fab := rfl
@[simp] theorem State.updL1_res (c l : Nat) (f : Line → Line) : (s.updL1 c l f).res = s.res := rfl
@[simp] theorem State.updL1_mod (c l : Nat) (f : Line → Line) : (s.updL1 c l f).mod = s.mod := rfl

@[simp] theorem State.send_cycle (m : Instr) : (s.send m).cycle = s.cycle := rfl
@[simp] theorem State.send_inputs (m : Instr) : (s.send m).inputs = s.inputs := rfl
@[simp] theorem State.send_turn (m : Instr) : (s.send m).turn = s.turn := rfl
@[simp] theorem State.send_iss (m : Instr) : (s.send m).iss = s.iss := rfl
@[simp] theorem State.send_ops (m : Instr) : (s.send m).ops = s.ops := rfl
@[simp] theorem State.send_nextOp (m : Instr) : (s.send m).nextOp = s.nextOp := rfl
@[simp] theorem State.send_wake (m : Instr) : (s.send m).wake = s.wake := rfl
@[simp] theorem State.send_leases (m : Instr) : (s.send m).leases = s.leases := rfl
@[simp] theorem State.send_choice (m : Instr) : (s.send m).choice = s.choice := rfl
@[simp] theorem State.send_passed (m : Instr) : (s.send m).passed = s.passed := rfl
@[simp] theorem State.send_uid (m : Instr) : (s.send m).uid = s.uid := rfl
@[simp] theorem State.send_threads (m : Instr) : (s.send m).threads = s.threads := rfl
@[simp] theorem State.send_gangs (m : Instr) : (s.send m).gangs = s.gangs := rfl
@[simp] theorem State.send_cores (m : Instr) : (s.send m).cores = s.cores := rfl
@[simp] theorem State.send_quads (m : Instr) : (s.send m).quads = s.quads := rfl
@[simp] theorem State.send_clusters (m : Instr) : (s.send m).clusters = s.clusters := rfl
@[simp] theorem State.send_mem (m : Instr) : (s.send m).mem = s.mem := rfl
@[simp] theorem State.send_homes (m : Instr) : (s.send m).homes = s.homes := rfl
@[simp] theorem State.send_peers (m : Instr) : (s.send m).peers = s.peers := rfl
@[simp] theorem State.send_hubActs (m : Instr) : (s.send m).hubActs = s.hubActs := rfl
@[simp] theorem State.send_monitors (m : Instr) : (s.send m).monitors = s.monitors := rfl
@[simp] theorem State.send_watches (m : Instr) : (s.send m).watches = s.watches := rfl
@[simp] theorem State.send_poison (m : Instr) : (s.send m).poison = s.poison := rfl
@[simp] theorem State.send_writers (m : Instr) : (s.send m).writers = s.writers := rfl
@[simp] theorem State.send_hbmErrs (m : Instr) : (s.send m).hbmErrs = s.hbmErrs := rfl
@[simp] theorem State.send_frames (m : Instr) : (s.send m).frames = s.frames := rfl
@[simp] theorem State.send_weak (m : Instr) : (s.send m).weak = s.weak := rfl
@[simp] theorem State.send_faultqs (m : Instr) : (s.send m).faultqs = s.faultqs := rfl
@[simp] theorem State.send_fab (m : Instr) : (s.send m).fab = s.fab := rfl
@[simp] theorem State.send_res (m : Instr) : (s.send m).res = s.res := rfl
@[simp] theorem State.send_mod (m : Instr) : (s.send m).mod = s.mod := rfl

@[simp] theorem State.count_cycle (u i n : Nat) : (s.count u i n).cycle = s.cycle := rfl
@[simp] theorem State.count_inputs (u i n : Nat) : (s.count u i n).inputs = s.inputs := rfl
@[simp] theorem State.count_turn (u i n : Nat) : (s.count u i n).turn = s.turn := rfl
@[simp] theorem State.count_iss (u i n : Nat) : (s.count u i n).iss = s.iss := rfl
@[simp] theorem State.count_ops (u i n : Nat) : (s.count u i n).ops = s.ops := rfl
@[simp] theorem State.count_nextOp (u i n : Nat) : (s.count u i n).nextOp = s.nextOp := rfl
@[simp] theorem State.count_wake (u i n : Nat) : (s.count u i n).wake = s.wake := rfl
@[simp] theorem State.count_leases (u i n : Nat) : (s.count u i n).leases = s.leases := rfl
@[simp] theorem State.count_choice (u i n : Nat) : (s.count u i n).choice = s.choice := rfl
@[simp] theorem State.count_passed (u i n : Nat) : (s.count u i n).passed = s.passed := rfl
@[simp] theorem State.count_uid (u i n : Nat) : (s.count u i n).uid = s.uid := rfl
@[simp] theorem State.count_threads (u i n : Nat) : (s.count u i n).threads = s.threads := rfl
@[simp] theorem State.count_gangs (u i n : Nat) : (s.count u i n).gangs = s.gangs := rfl
@[simp] theorem State.count_cores (u i n : Nat) : (s.count u i n).cores = s.cores := rfl
@[simp] theorem State.count_quads (u i n : Nat) : (s.count u i n).quads = s.quads := rfl
@[simp] theorem State.count_clusters (u i n : Nat) : (s.count u i n).clusters = s.clusters := rfl
@[simp] theorem State.count_mem (u i n : Nat) : (s.count u i n).mem = s.mem := rfl
@[simp] theorem State.count_homes (u i n : Nat) : (s.count u i n).homes = s.homes := rfl
@[simp] theorem State.count_peers (u i n : Nat) : (s.count u i n).peers = s.peers := rfl
@[simp] theorem State.count_msgs (u i n : Nat) : (s.count u i n).msgs = s.msgs := rfl
@[simp] theorem State.count_hubActs (u i n : Nat) : (s.count u i n).hubActs = s.hubActs := rfl
@[simp] theorem State.count_monitors (u i n : Nat) : (s.count u i n).monitors = s.monitors := rfl
@[simp] theorem State.count_watches (u i n : Nat) : (s.count u i n).watches = s.watches := rfl
@[simp] theorem State.count_poison (u i n : Nat) : (s.count u i n).poison = s.poison := rfl
@[simp] theorem State.count_writers (u i n : Nat) : (s.count u i n).writers = s.writers := rfl
@[simp] theorem State.count_hbmErrs (u i n : Nat) : (s.count u i n).hbmErrs = s.hbmErrs := rfl
@[simp] theorem State.count_frames (u i n : Nat) : (s.count u i n).frames = s.frames := rfl
@[simp] theorem State.count_weak (u i n : Nat) : (s.count u i n).weak = s.weak := rfl
@[simp] theorem State.count_faultqs (u i n : Nat) : (s.count u i n).faultqs = s.faultqs := rfl
@[simp] theorem State.count_fab (u i n : Nat) : (s.count u i n).fab = s.fab := rfl
@[simp] theorem State.count_res (u i n : Nat) : (s.count u i n).res = s.res := rfl

end

@[simp] theorem State.updThread_cycle (s : State) (t : Nat) (f : Thread → Thread) : (s.updThread t f).cycle = s.cycle := by
  unfold State.updThread; split <;> rfl
@[simp] theorem State.updThread_inputs (s : State) (t : Nat) (f : Thread → Thread) : (s.updThread t f).inputs = s.inputs := by
  unfold State.updThread; split <;> rfl
@[simp] theorem State.updThread_turn (s : State) (t : Nat) (f : Thread → Thread) : (s.updThread t f).turn = s.turn := by
  unfold State.updThread; split <;> rfl
@[simp] theorem State.updThread_iss (s : State) (t : Nat) (f : Thread → Thread) : (s.updThread t f).iss = s.iss := by
  unfold State.updThread; split <;> rfl
@[simp] theorem State.updThread_ops (s : State) (t : Nat) (f : Thread → Thread) : (s.updThread t f).ops = s.ops := by
  unfold State.updThread; split <;> rfl
@[simp] theorem State.updThread_nextOp (s : State) (t : Nat) (f : Thread → Thread) : (s.updThread t f).nextOp = s.nextOp := by
  unfold State.updThread; split <;> rfl
@[simp] theorem State.updThread_wake (s : State) (t : Nat) (f : Thread → Thread) : (s.updThread t f).wake = s.wake := by
  unfold State.updThread; split <;> rfl
@[simp] theorem State.updThread_leases (s : State) (t : Nat) (f : Thread → Thread) : (s.updThread t f).leases = s.leases := by
  unfold State.updThread; split <;> rfl
@[simp] theorem State.updThread_choice (s : State) (t : Nat) (f : Thread → Thread) : (s.updThread t f).choice = s.choice := by
  unfold State.updThread; split <;> rfl
@[simp] theorem State.updThread_passed (s : State) (t : Nat) (f : Thread → Thread) : (s.updThread t f).passed = s.passed := by
  unfold State.updThread; split <;> rfl
@[simp] theorem State.updThread_uid (s : State) (t : Nat) (f : Thread → Thread) : (s.updThread t f).uid = s.uid := by
  unfold State.updThread; split <;> rfl
@[simp] theorem State.updThread_gangs (s : State) (t : Nat) (f : Thread → Thread) : (s.updThread t f).gangs = s.gangs := by
  unfold State.updThread; split <;> rfl
@[simp] theorem State.updThread_cores (s : State) (t : Nat) (f : Thread → Thread) : (s.updThread t f).cores = s.cores := by
  unfold State.updThread; split <;> rfl
@[simp] theorem State.updThread_quads (s : State) (t : Nat) (f : Thread → Thread) : (s.updThread t f).quads = s.quads := by
  unfold State.updThread; split <;> rfl
@[simp] theorem State.updThread_clusters (s : State) (t : Nat) (f : Thread → Thread) : (s.updThread t f).clusters = s.clusters := by
  unfold State.updThread; split <;> rfl
@[simp] theorem State.updThread_mem (s : State) (t : Nat) (f : Thread → Thread) : (s.updThread t f).mem = s.mem := by
  unfold State.updThread; split <;> rfl
@[simp] theorem State.updThread_homes (s : State) (t : Nat) (f : Thread → Thread) : (s.updThread t f).homes = s.homes := by
  unfold State.updThread; split <;> rfl
@[simp] theorem State.updThread_peers (s : State) (t : Nat) (f : Thread → Thread) : (s.updThread t f).peers = s.peers := by
  unfold State.updThread; split <;> rfl
@[simp] theorem State.updThread_msgs (s : State) (t : Nat) (f : Thread → Thread) : (s.updThread t f).msgs = s.msgs := by
  unfold State.updThread; split <;> rfl
@[simp] theorem State.updThread_hubActs (s : State) (t : Nat) (f : Thread → Thread) : (s.updThread t f).hubActs = s.hubActs := by
  unfold State.updThread; split <;> rfl
@[simp] theorem State.updThread_monitors (s : State) (t : Nat) (f : Thread → Thread) : (s.updThread t f).monitors = s.monitors := by
  unfold State.updThread; split <;> rfl
@[simp] theorem State.updThread_watches (s : State) (t : Nat) (f : Thread → Thread) : (s.updThread t f).watches = s.watches := by
  unfold State.updThread; split <;> rfl
@[simp] theorem State.updThread_poison (s : State) (t : Nat) (f : Thread → Thread) : (s.updThread t f).poison = s.poison := by
  unfold State.updThread; split <;> rfl
@[simp] theorem State.updThread_writers (s : State) (t : Nat) (f : Thread → Thread) : (s.updThread t f).writers = s.writers := by
  unfold State.updThread; split <;> rfl
@[simp] theorem State.updThread_hbmErrs (s : State) (t : Nat) (f : Thread → Thread) : (s.updThread t f).hbmErrs = s.hbmErrs := by
  unfold State.updThread; split <;> rfl
@[simp] theorem State.updThread_frames (s : State) (t : Nat) (f : Thread → Thread) : (s.updThread t f).frames = s.frames := by
  unfold State.updThread; split <;> rfl
@[simp] theorem State.updThread_weak (s : State) (t : Nat) (f : Thread → Thread) : (s.updThread t f).weak = s.weak := by
  unfold State.updThread; split <;> rfl
@[simp] theorem State.updThread_faultqs (s : State) (t : Nat) (f : Thread → Thread) : (s.updThread t f).faultqs = s.faultqs := by
  unfold State.updThread; split <;> rfl
@[simp] theorem State.updThread_fab (s : State) (t : Nat) (f : Thread → Thread) : (s.updThread t f).fab = s.fab := by
  unfold State.updThread; split <;> rfl
@[simp] theorem State.updThread_res (s : State) (t : Nat) (f : Thread → Thread) : (s.updThread t f).res = s.res := by
  unfold State.updThread; split <;> rfl
@[simp] theorem State.updThread_mod (s : State) (t : Nat) (f : Thread → Thread) : (s.updThread t f).mod = s.mod := by
  unfold State.updThread; split <;> rfl

@[simp] theorem State.updGang_cycle (s : State) (g : Nat) (f : Gang → Gang) : (s.updGang g f).cycle = s.cycle := by
  unfold State.updGang; split <;> rfl
@[simp] theorem State.updGang_inputs (s : State) (g : Nat) (f : Gang → Gang) : (s.updGang g f).inputs = s.inputs := by
  unfold State.updGang; split <;> rfl
@[simp] theorem State.updGang_turn (s : State) (g : Nat) (f : Gang → Gang) : (s.updGang g f).turn = s.turn := by
  unfold State.updGang; split <;> rfl
@[simp] theorem State.updGang_iss (s : State) (g : Nat) (f : Gang → Gang) : (s.updGang g f).iss = s.iss := by
  unfold State.updGang; split <;> rfl
@[simp] theorem State.updGang_ops (s : State) (g : Nat) (f : Gang → Gang) : (s.updGang g f).ops = s.ops := by
  unfold State.updGang; split <;> rfl
@[simp] theorem State.updGang_nextOp (s : State) (g : Nat) (f : Gang → Gang) : (s.updGang g f).nextOp = s.nextOp := by
  unfold State.updGang; split <;> rfl
@[simp] theorem State.updGang_wake (s : State) (g : Nat) (f : Gang → Gang) : (s.updGang g f).wake = s.wake := by
  unfold State.updGang; split <;> rfl
@[simp] theorem State.updGang_leases (s : State) (g : Nat) (f : Gang → Gang) : (s.updGang g f).leases = s.leases := by
  unfold State.updGang; split <;> rfl
@[simp] theorem State.updGang_choice (s : State) (g : Nat) (f : Gang → Gang) : (s.updGang g f).choice = s.choice := by
  unfold State.updGang; split <;> rfl
@[simp] theorem State.updGang_passed (s : State) (g : Nat) (f : Gang → Gang) : (s.updGang g f).passed = s.passed := by
  unfold State.updGang; split <;> rfl
@[simp] theorem State.updGang_uid (s : State) (g : Nat) (f : Gang → Gang) : (s.updGang g f).uid = s.uid := by
  unfold State.updGang; split <;> rfl
@[simp] theorem State.updGang_threads (s : State) (g : Nat) (f : Gang → Gang) : (s.updGang g f).threads = s.threads := by
  unfold State.updGang; split <;> rfl
@[simp] theorem State.updGang_cores (s : State) (g : Nat) (f : Gang → Gang) : (s.updGang g f).cores = s.cores := by
  unfold State.updGang; split <;> rfl
@[simp] theorem State.updGang_quads (s : State) (g : Nat) (f : Gang → Gang) : (s.updGang g f).quads = s.quads := by
  unfold State.updGang; split <;> rfl
@[simp] theorem State.updGang_clusters (s : State) (g : Nat) (f : Gang → Gang) : (s.updGang g f).clusters = s.clusters := by
  unfold State.updGang; split <;> rfl
@[simp] theorem State.updGang_mem (s : State) (g : Nat) (f : Gang → Gang) : (s.updGang g f).mem = s.mem := by
  unfold State.updGang; split <;> rfl
@[simp] theorem State.updGang_homes (s : State) (g : Nat) (f : Gang → Gang) : (s.updGang g f).homes = s.homes := by
  unfold State.updGang; split <;> rfl
@[simp] theorem State.updGang_peers (s : State) (g : Nat) (f : Gang → Gang) : (s.updGang g f).peers = s.peers := by
  unfold State.updGang; split <;> rfl
@[simp] theorem State.updGang_msgs (s : State) (g : Nat) (f : Gang → Gang) : (s.updGang g f).msgs = s.msgs := by
  unfold State.updGang; split <;> rfl
@[simp] theorem State.updGang_hubActs (s : State) (g : Nat) (f : Gang → Gang) : (s.updGang g f).hubActs = s.hubActs := by
  unfold State.updGang; split <;> rfl
@[simp] theorem State.updGang_monitors (s : State) (g : Nat) (f : Gang → Gang) : (s.updGang g f).monitors = s.monitors := by
  unfold State.updGang; split <;> rfl
@[simp] theorem State.updGang_watches (s : State) (g : Nat) (f : Gang → Gang) : (s.updGang g f).watches = s.watches := by
  unfold State.updGang; split <;> rfl
@[simp] theorem State.updGang_poison (s : State) (g : Nat) (f : Gang → Gang) : (s.updGang g f).poison = s.poison := by
  unfold State.updGang; split <;> rfl
@[simp] theorem State.updGang_writers (s : State) (g : Nat) (f : Gang → Gang) : (s.updGang g f).writers = s.writers := by
  unfold State.updGang; split <;> rfl
@[simp] theorem State.updGang_hbmErrs (s : State) (g : Nat) (f : Gang → Gang) : (s.updGang g f).hbmErrs = s.hbmErrs := by
  unfold State.updGang; split <;> rfl
@[simp] theorem State.updGang_frames (s : State) (g : Nat) (f : Gang → Gang) : (s.updGang g f).frames = s.frames := by
  unfold State.updGang; split <;> rfl
@[simp] theorem State.updGang_weak (s : State) (g : Nat) (f : Gang → Gang) : (s.updGang g f).weak = s.weak := by
  unfold State.updGang; split <;> rfl
@[simp] theorem State.updGang_faultqs (s : State) (g : Nat) (f : Gang → Gang) : (s.updGang g f).faultqs = s.faultqs := by
  unfold State.updGang; split <;> rfl
@[simp] theorem State.updGang_fab (s : State) (g : Nat) (f : Gang → Gang) : (s.updGang g f).fab = s.fab := by
  unfold State.updGang; split <;> rfl
@[simp] theorem State.updGang_res (s : State) (g : Nat) (f : Gang → Gang) : (s.updGang g f).res = s.res := by
  unfold State.updGang; split <;> rfl
@[simp] theorem State.updGang_mod (s : State) (g : Nat) (f : Gang → Gang) : (s.updGang g f).mod = s.mod := by
  unfold State.updGang; split <;> rfl

@[simp] theorem State.updLaunch_cycle (s : State) (n : Nat) (f : Launch → Launch) : (s.updLaunch n f).cycle = s.cycle := by
  unfold State.updLaunch; split <;> rfl
@[simp] theorem State.updLaunch_inputs (s : State) (n : Nat) (f : Launch → Launch) : (s.updLaunch n f).inputs = s.inputs := by
  unfold State.updLaunch; split <;> rfl
@[simp] theorem State.updLaunch_turn (s : State) (n : Nat) (f : Launch → Launch) : (s.updLaunch n f).turn = s.turn := by
  unfold State.updLaunch; split <;> rfl
@[simp] theorem State.updLaunch_iss (s : State) (n : Nat) (f : Launch → Launch) : (s.updLaunch n f).iss = s.iss := by
  unfold State.updLaunch; split <;> rfl
@[simp] theorem State.updLaunch_ops (s : State) (n : Nat) (f : Launch → Launch) : (s.updLaunch n f).ops = s.ops := by
  unfold State.updLaunch; split <;> rfl
@[simp] theorem State.updLaunch_nextOp (s : State) (n : Nat) (f : Launch → Launch) : (s.updLaunch n f).nextOp = s.nextOp := by
  unfold State.updLaunch; split <;> rfl
@[simp] theorem State.updLaunch_wake (s : State) (n : Nat) (f : Launch → Launch) : (s.updLaunch n f).wake = s.wake := by
  unfold State.updLaunch; split <;> rfl
@[simp] theorem State.updLaunch_leases (s : State) (n : Nat) (f : Launch → Launch) : (s.updLaunch n f).leases = s.leases := by
  unfold State.updLaunch; split <;> rfl
@[simp] theorem State.updLaunch_choice (s : State) (n : Nat) (f : Launch → Launch) : (s.updLaunch n f).choice = s.choice := by
  unfold State.updLaunch; split <;> rfl
@[simp] theorem State.updLaunch_passed (s : State) (n : Nat) (f : Launch → Launch) : (s.updLaunch n f).passed = s.passed := by
  unfold State.updLaunch; split <;> rfl
@[simp] theorem State.updLaunch_uid (s : State) (n : Nat) (f : Launch → Launch) : (s.updLaunch n f).uid = s.uid := by
  unfold State.updLaunch; split <;> rfl
@[simp] theorem State.updLaunch_threads (s : State) (n : Nat) (f : Launch → Launch) : (s.updLaunch n f).threads = s.threads := by
  unfold State.updLaunch; split <;> rfl
@[simp] theorem State.updLaunch_gangs (s : State) (n : Nat) (f : Launch → Launch) : (s.updLaunch n f).gangs = s.gangs := by
  unfold State.updLaunch; split <;> rfl
@[simp] theorem State.updLaunch_cores (s : State) (n : Nat) (f : Launch → Launch) : (s.updLaunch n f).cores = s.cores := by
  unfold State.updLaunch; split <;> rfl
@[simp] theorem State.updLaunch_quads (s : State) (n : Nat) (f : Launch → Launch) : (s.updLaunch n f).quads = s.quads := by
  unfold State.updLaunch; split <;> rfl
@[simp] theorem State.updLaunch_clusters (s : State) (n : Nat) (f : Launch → Launch) : (s.updLaunch n f).clusters = s.clusters := by
  unfold State.updLaunch; split <;> rfl
@[simp] theorem State.updLaunch_mem (s : State) (n : Nat) (f : Launch → Launch) : (s.updLaunch n f).mem = s.mem := by
  unfold State.updLaunch; split <;> rfl
@[simp] theorem State.updLaunch_homes (s : State) (n : Nat) (f : Launch → Launch) : (s.updLaunch n f).homes = s.homes := by
  unfold State.updLaunch; split <;> rfl
@[simp] theorem State.updLaunch_peers (s : State) (n : Nat) (f : Launch → Launch) : (s.updLaunch n f).peers = s.peers := by
  unfold State.updLaunch; split <;> rfl
@[simp] theorem State.updLaunch_msgs (s : State) (n : Nat) (f : Launch → Launch) : (s.updLaunch n f).msgs = s.msgs := by
  unfold State.updLaunch; split <;> rfl
@[simp] theorem State.updLaunch_hubActs (s : State) (n : Nat) (f : Launch → Launch) : (s.updLaunch n f).hubActs = s.hubActs := by
  unfold State.updLaunch; split <;> rfl
@[simp] theorem State.updLaunch_monitors (s : State) (n : Nat) (f : Launch → Launch) : (s.updLaunch n f).monitors = s.monitors := by
  unfold State.updLaunch; split <;> rfl
@[simp] theorem State.updLaunch_watches (s : State) (n : Nat) (f : Launch → Launch) : (s.updLaunch n f).watches = s.watches := by
  unfold State.updLaunch; split <;> rfl
@[simp] theorem State.updLaunch_poison (s : State) (n : Nat) (f : Launch → Launch) : (s.updLaunch n f).poison = s.poison := by
  unfold State.updLaunch; split <;> rfl
@[simp] theorem State.updLaunch_writers (s : State) (n : Nat) (f : Launch → Launch) : (s.updLaunch n f).writers = s.writers := by
  unfold State.updLaunch; split <;> rfl
@[simp] theorem State.updLaunch_hbmErrs (s : State) (n : Nat) (f : Launch → Launch) : (s.updLaunch n f).hbmErrs = s.hbmErrs := by
  unfold State.updLaunch; split <;> rfl
@[simp] theorem State.updLaunch_frames (s : State) (n : Nat) (f : Launch → Launch) : (s.updLaunch n f).frames = s.frames := by
  unfold State.updLaunch; split <;> rfl
@[simp] theorem State.updLaunch_weak (s : State) (n : Nat) (f : Launch → Launch) : (s.updLaunch n f).weak = s.weak := by
  unfold State.updLaunch; split <;> rfl
@[simp] theorem State.updLaunch_faultqs (s : State) (n : Nat) (f : Launch → Launch) : (s.updLaunch n f).faultqs = s.faultqs := by
  unfold State.updLaunch; split <;> rfl
@[simp] theorem State.updLaunch_fab (s : State) (n : Nat) (f : Launch → Launch) : (s.updLaunch n f).fab = s.fab := by
  unfold State.updLaunch; split <;> rfl
@[simp] theorem State.updLaunch_mod (s : State) (n : Nat) (f : Launch → Launch) : (s.updLaunch n f).mod = s.mod := by
  unfold State.updLaunch; split <;> rfl

@[simp] theorem State.updJob_cycle (s : State) (n : Nat) (f : Job → Job) : (s.updJob n f).cycle = s.cycle := by
  unfold State.updJob; split <;> rfl
@[simp] theorem State.updJob_inputs (s : State) (n : Nat) (f : Job → Job) : (s.updJob n f).inputs = s.inputs := by
  unfold State.updJob; split <;> rfl
@[simp] theorem State.updJob_turn (s : State) (n : Nat) (f : Job → Job) : (s.updJob n f).turn = s.turn := by
  unfold State.updJob; split <;> rfl
@[simp] theorem State.updJob_iss (s : State) (n : Nat) (f : Job → Job) : (s.updJob n f).iss = s.iss := by
  unfold State.updJob; split <;> rfl
@[simp] theorem State.updJob_ops (s : State) (n : Nat) (f : Job → Job) : (s.updJob n f).ops = s.ops := by
  unfold State.updJob; split <;> rfl
@[simp] theorem State.updJob_nextOp (s : State) (n : Nat) (f : Job → Job) : (s.updJob n f).nextOp = s.nextOp := by
  unfold State.updJob; split <;> rfl
@[simp] theorem State.updJob_wake (s : State) (n : Nat) (f : Job → Job) : (s.updJob n f).wake = s.wake := by
  unfold State.updJob; split <;> rfl
@[simp] theorem State.updJob_leases (s : State) (n : Nat) (f : Job → Job) : (s.updJob n f).leases = s.leases := by
  unfold State.updJob; split <;> rfl
@[simp] theorem State.updJob_choice (s : State) (n : Nat) (f : Job → Job) : (s.updJob n f).choice = s.choice := by
  unfold State.updJob; split <;> rfl
@[simp] theorem State.updJob_passed (s : State) (n : Nat) (f : Job → Job) : (s.updJob n f).passed = s.passed := by
  unfold State.updJob; split <;> rfl
@[simp] theorem State.updJob_uid (s : State) (n : Nat) (f : Job → Job) : (s.updJob n f).uid = s.uid := by
  unfold State.updJob; split <;> rfl
@[simp] theorem State.updJob_threads (s : State) (n : Nat) (f : Job → Job) : (s.updJob n f).threads = s.threads := by
  unfold State.updJob; split <;> rfl
@[simp] theorem State.updJob_gangs (s : State) (n : Nat) (f : Job → Job) : (s.updJob n f).gangs = s.gangs := by
  unfold State.updJob; split <;> rfl
@[simp] theorem State.updJob_cores (s : State) (n : Nat) (f : Job → Job) : (s.updJob n f).cores = s.cores := by
  unfold State.updJob; split <;> rfl
@[simp] theorem State.updJob_quads (s : State) (n : Nat) (f : Job → Job) : (s.updJob n f).quads = s.quads := by
  unfold State.updJob; split <;> rfl
@[simp] theorem State.updJob_clusters (s : State) (n : Nat) (f : Job → Job) : (s.updJob n f).clusters = s.clusters := by
  unfold State.updJob; split <;> rfl
@[simp] theorem State.updJob_mem (s : State) (n : Nat) (f : Job → Job) : (s.updJob n f).mem = s.mem := by
  unfold State.updJob; split <;> rfl
@[simp] theorem State.updJob_homes (s : State) (n : Nat) (f : Job → Job) : (s.updJob n f).homes = s.homes := by
  unfold State.updJob; split <;> rfl
@[simp] theorem State.updJob_peers (s : State) (n : Nat) (f : Job → Job) : (s.updJob n f).peers = s.peers := by
  unfold State.updJob; split <;> rfl
@[simp] theorem State.updJob_msgs (s : State) (n : Nat) (f : Job → Job) : (s.updJob n f).msgs = s.msgs := by
  unfold State.updJob; split <;> rfl
@[simp] theorem State.updJob_hubActs (s : State) (n : Nat) (f : Job → Job) : (s.updJob n f).hubActs = s.hubActs := by
  unfold State.updJob; split <;> rfl
@[simp] theorem State.updJob_monitors (s : State) (n : Nat) (f : Job → Job) : (s.updJob n f).monitors = s.monitors := by
  unfold State.updJob; split <;> rfl
@[simp] theorem State.updJob_watches (s : State) (n : Nat) (f : Job → Job) : (s.updJob n f).watches = s.watches := by
  unfold State.updJob; split <;> rfl
@[simp] theorem State.updJob_poison (s : State) (n : Nat) (f : Job → Job) : (s.updJob n f).poison = s.poison := by
  unfold State.updJob; split <;> rfl
@[simp] theorem State.updJob_writers (s : State) (n : Nat) (f : Job → Job) : (s.updJob n f).writers = s.writers := by
  unfold State.updJob; split <;> rfl
@[simp] theorem State.updJob_hbmErrs (s : State) (n : Nat) (f : Job → Job) : (s.updJob n f).hbmErrs = s.hbmErrs := by
  unfold State.updJob; split <;> rfl
@[simp] theorem State.updJob_frames (s : State) (n : Nat) (f : Job → Job) : (s.updJob n f).frames = s.frames := by
  unfold State.updJob; split <;> rfl
@[simp] theorem State.updJob_weak (s : State) (n : Nat) (f : Job → Job) : (s.updJob n f).weak = s.weak := by
  unfold State.updJob; split <;> rfl
@[simp] theorem State.updJob_faultqs (s : State) (n : Nat) (f : Job → Job) : (s.updJob n f).faultqs = s.faultqs := by
  unfold State.updJob; split <;> rfl
@[simp] theorem State.updJob_fab (s : State) (n : Nat) (f : Job → Job) : (s.updJob n f).fab = s.fab := by
  unfold State.updJob; split <;> rfl
@[simp] theorem State.updJob_mod (s : State) (n : Nat) (f : Job → Job) : (s.updJob n f).mod = s.mod := by
  unfold State.updJob; split <;> rfl

@[simp] theorem State.updSplit_cycle (s : State) (t e : Nat) (f : Split → Split) : (s.updSplit t e f).cycle = s.cycle := State.updThread_cycle ..
@[simp] theorem State.updSplit_inputs (s : State) (t e : Nat) (f : Split → Split) : (s.updSplit t e f).inputs = s.inputs := State.updThread_inputs ..
@[simp] theorem State.updSplit_turn (s : State) (t e : Nat) (f : Split → Split) : (s.updSplit t e f).turn = s.turn := State.updThread_turn ..
@[simp] theorem State.updSplit_iss (s : State) (t e : Nat) (f : Split → Split) : (s.updSplit t e f).iss = s.iss := State.updThread_iss ..
@[simp] theorem State.updSplit_ops (s : State) (t e : Nat) (f : Split → Split) : (s.updSplit t e f).ops = s.ops := State.updThread_ops ..
@[simp] theorem State.updSplit_nextOp (s : State) (t e : Nat) (f : Split → Split) : (s.updSplit t e f).nextOp = s.nextOp := State.updThread_nextOp ..
@[simp] theorem State.updSplit_wake (s : State) (t e : Nat) (f : Split → Split) : (s.updSplit t e f).wake = s.wake := State.updThread_wake ..
@[simp] theorem State.updSplit_leases (s : State) (t e : Nat) (f : Split → Split) : (s.updSplit t e f).leases = s.leases := State.updThread_leases ..
@[simp] theorem State.updSplit_choice (s : State) (t e : Nat) (f : Split → Split) : (s.updSplit t e f).choice = s.choice := State.updThread_choice ..
@[simp] theorem State.updSplit_passed (s : State) (t e : Nat) (f : Split → Split) : (s.updSplit t e f).passed = s.passed := State.updThread_passed ..
@[simp] theorem State.updSplit_uid (s : State) (t e : Nat) (f : Split → Split) : (s.updSplit t e f).uid = s.uid := State.updThread_uid ..
@[simp] theorem State.updSplit_gangs (s : State) (t e : Nat) (f : Split → Split) : (s.updSplit t e f).gangs = s.gangs := State.updThread_gangs ..
@[simp] theorem State.updSplit_cores (s : State) (t e : Nat) (f : Split → Split) : (s.updSplit t e f).cores = s.cores := State.updThread_cores ..
@[simp] theorem State.updSplit_quads (s : State) (t e : Nat) (f : Split → Split) : (s.updSplit t e f).quads = s.quads := State.updThread_quads ..
@[simp] theorem State.updSplit_clusters (s : State) (t e : Nat) (f : Split → Split) : (s.updSplit t e f).clusters = s.clusters := State.updThread_clusters ..
@[simp] theorem State.updSplit_mem (s : State) (t e : Nat) (f : Split → Split) : (s.updSplit t e f).mem = s.mem := State.updThread_mem ..
@[simp] theorem State.updSplit_homes (s : State) (t e : Nat) (f : Split → Split) : (s.updSplit t e f).homes = s.homes := State.updThread_homes ..
@[simp] theorem State.updSplit_peers (s : State) (t e : Nat) (f : Split → Split) : (s.updSplit t e f).peers = s.peers := State.updThread_peers ..
@[simp] theorem State.updSplit_msgs (s : State) (t e : Nat) (f : Split → Split) : (s.updSplit t e f).msgs = s.msgs := State.updThread_msgs ..
@[simp] theorem State.updSplit_hubActs (s : State) (t e : Nat) (f : Split → Split) : (s.updSplit t e f).hubActs = s.hubActs := State.updThread_hubActs ..
@[simp] theorem State.updSplit_monitors (s : State) (t e : Nat) (f : Split → Split) : (s.updSplit t e f).monitors = s.monitors := State.updThread_monitors ..
@[simp] theorem State.updSplit_watches (s : State) (t e : Nat) (f : Split → Split) : (s.updSplit t e f).watches = s.watches := State.updThread_watches ..
@[simp] theorem State.updSplit_poison (s : State) (t e : Nat) (f : Split → Split) : (s.updSplit t e f).poison = s.poison := State.updThread_poison ..
@[simp] theorem State.updSplit_writers (s : State) (t e : Nat) (f : Split → Split) : (s.updSplit t e f).writers = s.writers := State.updThread_writers ..
@[simp] theorem State.updSplit_hbmErrs (s : State) (t e : Nat) (f : Split → Split) : (s.updSplit t e f).hbmErrs = s.hbmErrs := State.updThread_hbmErrs ..
@[simp] theorem State.updSplit_frames (s : State) (t e : Nat) (f : Split → Split) : (s.updSplit t e f).frames = s.frames := State.updThread_frames ..
@[simp] theorem State.updSplit_weak (s : State) (t e : Nat) (f : Split → Split) : (s.updSplit t e f).weak = s.weak := State.updThread_weak ..
@[simp] theorem State.updSplit_faultqs (s : State) (t e : Nat) (f : Split → Split) : (s.updSplit t e f).faultqs = s.faultqs := State.updThread_faultqs ..
@[simp] theorem State.updSplit_fab (s : State) (t e : Nat) (f : Split → Split) : (s.updSplit t e f).fab = s.fab := State.updThread_fab ..
@[simp] theorem State.updSplit_res (s : State) (t e : Nat) (f : Split → Split) : (s.updSplit t e f).res = s.res := State.updThread_res ..
@[simp] theorem State.updSplit_mod (s : State) (t e : Nat) (f : Split → Split) : (s.updSplit t e f).mod = s.mod := State.updThread_mod ..
@[simp] theorem State.updNode_cycle (s : State) (j n : Nat) (f : Node → Node) : (s.updNode j n f).cycle = s.cycle := State.updJob_cycle ..
@[simp] theorem State.updNode_inputs (s : State) (j n : Nat) (f : Node → Node) : (s.updNode j n f).inputs = s.inputs := State.updJob_inputs ..
@[simp] theorem State.updNode_turn (s : State) (j n : Nat) (f : Node → Node) : (s.updNode j n f).turn = s.turn := State.updJob_turn ..
@[simp] theorem State.updNode_iss (s : State) (j n : Nat) (f : Node → Node) : (s.updNode j n f).iss = s.iss := State.updJob_iss ..
@[simp] theorem State.updNode_ops (s : State) (j n : Nat) (f : Node → Node) : (s.updNode j n f).ops = s.ops := State.updJob_ops ..
@[simp] theorem State.updNode_nextOp (s : State) (j n : Nat) (f : Node → Node) : (s.updNode j n f).nextOp = s.nextOp := State.updJob_nextOp ..
@[simp] theorem State.updNode_wake (s : State) (j n : Nat) (f : Node → Node) : (s.updNode j n f).wake = s.wake := State.updJob_wake ..
@[simp] theorem State.updNode_leases (s : State) (j n : Nat) (f : Node → Node) : (s.updNode j n f).leases = s.leases := State.updJob_leases ..
@[simp] theorem State.updNode_choice (s : State) (j n : Nat) (f : Node → Node) : (s.updNode j n f).choice = s.choice := State.updJob_choice ..
@[simp] theorem State.updNode_passed (s : State) (j n : Nat) (f : Node → Node) : (s.updNode j n f).passed = s.passed := State.updJob_passed ..
@[simp] theorem State.updNode_uid (s : State) (j n : Nat) (f : Node → Node) : (s.updNode j n f).uid = s.uid := State.updJob_uid ..
@[simp] theorem State.updNode_threads (s : State) (j n : Nat) (f : Node → Node) : (s.updNode j n f).threads = s.threads := State.updJob_threads ..
@[simp] theorem State.updNode_gangs (s : State) (j n : Nat) (f : Node → Node) : (s.updNode j n f).gangs = s.gangs := State.updJob_gangs ..
@[simp] theorem State.updNode_cores (s : State) (j n : Nat) (f : Node → Node) : (s.updNode j n f).cores = s.cores := State.updJob_cores ..
@[simp] theorem State.updNode_quads (s : State) (j n : Nat) (f : Node → Node) : (s.updNode j n f).quads = s.quads := State.updJob_quads ..
@[simp] theorem State.updNode_clusters (s : State) (j n : Nat) (f : Node → Node) : (s.updNode j n f).clusters = s.clusters := State.updJob_clusters ..
@[simp] theorem State.updNode_mem (s : State) (j n : Nat) (f : Node → Node) : (s.updNode j n f).mem = s.mem := State.updJob_mem ..
@[simp] theorem State.updNode_homes (s : State) (j n : Nat) (f : Node → Node) : (s.updNode j n f).homes = s.homes := State.updJob_homes ..
@[simp] theorem State.updNode_peers (s : State) (j n : Nat) (f : Node → Node) : (s.updNode j n f).peers = s.peers := State.updJob_peers ..
@[simp] theorem State.updNode_msgs (s : State) (j n : Nat) (f : Node → Node) : (s.updNode j n f).msgs = s.msgs := State.updJob_msgs ..
@[simp] theorem State.updNode_hubActs (s : State) (j n : Nat) (f : Node → Node) : (s.updNode j n f).hubActs = s.hubActs := State.updJob_hubActs ..
@[simp] theorem State.updNode_monitors (s : State) (j n : Nat) (f : Node → Node) : (s.updNode j n f).monitors = s.monitors := State.updJob_monitors ..
@[simp] theorem State.updNode_watches (s : State) (j n : Nat) (f : Node → Node) : (s.updNode j n f).watches = s.watches := State.updJob_watches ..
@[simp] theorem State.updNode_poison (s : State) (j n : Nat) (f : Node → Node) : (s.updNode j n f).poison = s.poison := State.updJob_poison ..
@[simp] theorem State.updNode_writers (s : State) (j n : Nat) (f : Node → Node) : (s.updNode j n f).writers = s.writers := State.updJob_writers ..
@[simp] theorem State.updNode_hbmErrs (s : State) (j n : Nat) (f : Node → Node) : (s.updNode j n f).hbmErrs = s.hbmErrs := State.updJob_hbmErrs ..
@[simp] theorem State.updNode_frames (s : State) (j n : Nat) (f : Node → Node) : (s.updNode j n f).frames = s.frames := State.updJob_frames ..
@[simp] theorem State.updNode_weak (s : State) (j n : Nat) (f : Node → Node) : (s.updNode j n f).weak = s.weak := State.updJob_weak ..
@[simp] theorem State.updNode_faultqs (s : State) (j n : Nat) (f : Node → Node) : (s.updNode j n f).faultqs = s.faultqs := State.updJob_faultqs ..
@[simp] theorem State.updNode_fab (s : State) (j n : Nat) (f : Node → Node) : (s.updNode j n f).fab = s.fab := State.updJob_fab ..
@[simp] theorem State.updNode_mod (s : State) (j n : Nat) (f : Node → Node) : (s.updNode j n f).mod = s.mod := State.updJob_mod ..
@[simp] theorem State.resume_cycle (s : State) (t e : Nat) : (s.resume t e).cycle = s.cycle := State.updThread_cycle ..
@[simp] theorem State.resume_inputs (s : State) (t e : Nat) : (s.resume t e).inputs = s.inputs := State.updThread_inputs ..
@[simp] theorem State.resume_turn (s : State) (t e : Nat) : (s.resume t e).turn = s.turn := State.updThread_turn ..
@[simp] theorem State.resume_iss (s : State) (t e : Nat) : (s.resume t e).iss = s.iss := State.updThread_iss ..
@[simp] theorem State.resume_ops (s : State) (t e : Nat) : (s.resume t e).ops = s.ops := State.updThread_ops ..
@[simp] theorem State.resume_nextOp (s : State) (t e : Nat) : (s.resume t e).nextOp = s.nextOp := State.updThread_nextOp ..
@[simp] theorem State.resume_wake (s : State) (t e : Nat) : (s.resume t e).wake = s.wake := State.updThread_wake ..
@[simp] theorem State.resume_leases (s : State) (t e : Nat) : (s.resume t e).leases = s.leases := State.updThread_leases ..
@[simp] theorem State.resume_choice (s : State) (t e : Nat) : (s.resume t e).choice = s.choice := State.updThread_choice ..
@[simp] theorem State.resume_passed (s : State) (t e : Nat) : (s.resume t e).passed = s.passed := State.updThread_passed ..
@[simp] theorem State.resume_uid (s : State) (t e : Nat) : (s.resume t e).uid = s.uid := State.updThread_uid ..
@[simp] theorem State.resume_gangs (s : State) (t e : Nat) : (s.resume t e).gangs = s.gangs := State.updThread_gangs ..
@[simp] theorem State.resume_cores (s : State) (t e : Nat) : (s.resume t e).cores = s.cores := State.updThread_cores ..
@[simp] theorem State.resume_quads (s : State) (t e : Nat) : (s.resume t e).quads = s.quads := State.updThread_quads ..
@[simp] theorem State.resume_clusters (s : State) (t e : Nat) : (s.resume t e).clusters = s.clusters := State.updThread_clusters ..
@[simp] theorem State.resume_mem (s : State) (t e : Nat) : (s.resume t e).mem = s.mem := State.updThread_mem ..
@[simp] theorem State.resume_homes (s : State) (t e : Nat) : (s.resume t e).homes = s.homes := State.updThread_homes ..
@[simp] theorem State.resume_peers (s : State) (t e : Nat) : (s.resume t e).peers = s.peers := State.updThread_peers ..
@[simp] theorem State.resume_msgs (s : State) (t e : Nat) : (s.resume t e).msgs = s.msgs := State.updThread_msgs ..
@[simp] theorem State.resume_hubActs (s : State) (t e : Nat) : (s.resume t e).hubActs = s.hubActs := State.updThread_hubActs ..
@[simp] theorem State.resume_monitors (s : State) (t e : Nat) : (s.resume t e).monitors = s.monitors := State.updThread_monitors ..
@[simp] theorem State.resume_watches (s : State) (t e : Nat) : (s.resume t e).watches = s.watches := State.updThread_watches ..
@[simp] theorem State.resume_poison (s : State) (t e : Nat) : (s.resume t e).poison = s.poison := State.updThread_poison ..
@[simp] theorem State.resume_writers (s : State) (t e : Nat) : (s.resume t e).writers = s.writers := State.updThread_writers ..
@[simp] theorem State.resume_hbmErrs (s : State) (t e : Nat) : (s.resume t e).hbmErrs = s.hbmErrs := State.updThread_hbmErrs ..
@[simp] theorem State.resume_frames (s : State) (t e : Nat) : (s.resume t e).frames = s.frames := State.updThread_frames ..
@[simp] theorem State.resume_weak (s : State) (t e : Nat) : (s.resume t e).weak = s.weak := State.updThread_weak ..
@[simp] theorem State.resume_faultqs (s : State) (t e : Nat) : (s.resume t e).faultqs = s.faultqs := State.updThread_faultqs ..
@[simp] theorem State.resume_fab (s : State) (t e : Nat) : (s.resume t e).fab = s.fab := State.updThread_fab ..
@[simp] theorem State.resume_res (s : State) (t e : Nat) : (s.resume t e).res = s.res := State.updThread_res ..
@[simp] theorem State.resume_mod (s : State) (t e : Nat) : (s.resume t e).mod = s.mod := State.updThread_mod ..

end Sys2Proof.Machine
end

