-- ==== Sys2Proof/Laws/Issue.lean ====
section
/-!
SUPPORT. The issue of an instruction word: everything `issue` can do, and what the shared operations of issue and of results leave
unchanged.
-/
namespace Sys2Proof.Machine

/-- What `issue` can do: no split issues; an access under way is carried on; an interlock holds the instruction; a common fault is
raised; or its effect is performed. -/
theorem issue_cases (i : Instr) (s : State) (k : Ctx → State → Done) :
    (s.ctx? i = none ∧ issue i s k = .fault .noIssuer)
    ∨ ∃ c, s.ctx? i = some c ∧
      ((c.again = true ∧ issue i s k = .next (s.close i c (k c s)))
       ∨ (c.again = false ∧ s.interlocked c i = true ∧ issue i s k = .next s)
       ∨ (c.again = false ∧ s.interlocked c i = false ∧ ∃ f, s.commonFault c i = some f ∧ issue i s k = .next (s.raise c f))
       ∨ (c.again = false ∧ s.interlocked c i = false ∧ s.commonFault c i = none ∧ issue i s k = .next (s.close i c (k c s)))) := by
  unfold issue
  cases h : s.ctx? i with
  | none => exact .inl ⟨rfl, rfl⟩
  | some c =>
    refine .inr ⟨c, rfl, ?_⟩
    cases ha : c.again with
    | true => exact .inl ⟨rfl, by simp [ha]⟩
    | false =>
      cases hi : s.interlocked c i with
      | true => exact .inr (.inl ⟨rfl, rfl, by simp [ha, hi]⟩)
      | false =>
        cases hf : s.commonFault c i with
        | some f => exact .inr (.inr (.inl ⟨rfl, rfl, f, rfl, by simp [ha, hi, hf]⟩))
        | none => exact .inr (.inr (.inr ⟨rfl, rfl, rfl, by simp [ha, hi, hf]⟩))

/-- An instruction at issue performs its effect. -/
theorem issue_of_issues {i : Instr} {s : State} {c : Ctx} (k : Ctx → State → Done) (h : s.issues i c) :
    issue i s k = .next (s.close i c (k c s)) := by
  obtain ⟨h1, -, h4, h2, h3⟩ := h
  simp [issue, h1, h2, h3, h4]

/-- `issue` never refuses, and stops only where no split issues. -/
theorem issue_next_of_ctx {i : Instr} {s : State} {c : Ctx} (k : Ctx → State → Done) (h : s.ctx? i = some c) :
    ∃ t, issue i s k = .next t := by
  obtain ⟨h1, -⟩ | ⟨c', -, ⟨-, h2⟩ | ⟨-, -, h2⟩ | ⟨-, -, f, -, h2⟩ | ⟨-, -, -, h2⟩⟩ := issue_cases i s k
  · simp [h] at h1
  all_goals exact ⟨_, h2⟩

/-- The context of a first issue holds the issuing thread. -/
theorem ctx_thread {s : State} {i : Instr} {c : Ctx} (h : s.ctx? i = some c) (ha : c.again = false) :
    s.thread? c.t = some c.x ∧ c.sp = c.x.split c.e := by
  unfold State.ctx? at h
  cases hi : s.iss with
  | none => simp [hi] at h
  | some u =>
    cases ho : u.op with
    | none =>
      cases ht : s.thread? u.t with
      | none => simp [hi, ho, ht] at h
      | some x =>
        simp only [hi, ho, ht, Option.bind_some, Option.map_some, Option.some.injEq] at h
        subst h
        exact ⟨ht, rfl⟩
    | some id =>
      cases hm : s.op? id with
      | none => simp [hi, ho, hm] at h
      | some m =>
        simp only [hi, ho, hm, Option.bind_some, Option.map_some, Option.some.injEq] at h
        subst h
        simp at ha

/-- The thread of an instruction at issue. -/
theorem State.issues.thread {s : State} {i : Instr} {c : Ctx} (h : s.issues i c) : s.thread? c.t = some c.x :=
  (ctx_thread h.1 h.2.2.1).1

/-! ## Threads -/

@[simp] theorem State.thread?_setThread_same (s : State) (t : Nat) (x : Thread) : (s.setThread t x).thread? t = some x := by
  simp [State.thread?, State.setThread]

theorem State.thread?_setThread_ne (s : State) {t u : Nat} (x : Thread) (h : u ≠ t) :
    (s.setThread t x).thread? u = s.thread? u := by
  simp [State.thread?, State.setThread, SMap.find?_put_ne _ _ h]

theorem State.updThread_some {s : State} {t : Nat} {x : Thread} (f : Thread → Thread) (h : s.thread? t = some x) :
    s.updThread t f = s.setThread t (f x) := by simp [State.updThread, h]

@[simp] theorem State.setThread_setThread (s : State) (t : Nat) (x y : Thread) : (s.setThread t x).setThread t y = s.setThread t y := by
  simp [State.setThread]

@[simp] theorem Thread.updSplit_length (x : Thread) (e : Nat) (f : Split → Split) : (x.updSplit e f).splits.length = x.splits.length :=
  updAt_length ..

theorem Thread.split_updSplit_same {x : Thread} {e : Nat} (f : Split → Split) (h : e < x.splits.length) :
    (x.updSplit e f).split e = f (x.split e) := updAt_getD_same f Split.reset h

theorem Thread.split_updSplit_ne {x : Thread} {e e' : Nat} (f : Split → Split) (h : e' ≠ e) :
    (x.updSplit e f).split e' = x.split e' := updAt_getD_ne f Split.reset h

/-! ## Completion -/

/-- The thread that `close` leaves of an instruction that falls through. -/
def Thread.moved (x : Thread) (on : Bool) (i : Instr) (c : Ctx) (cycle : Nat) : Thread :=
  (x.updSplit c.e fun p => { p with pc := c.npc }).closeAt on i c cycle true

theorem Thread.moved_movesOn {x : Thread} {c : Ctx} (i : Instr) (s : State) (h : c.e < x.splits.length) :
    c.movesOn s i x (x.moved (s.signetOn c.x.launch) i c s.cycle) := by
  have h' : c.e < (updAt x.splits c.e fun p => { p with pc := c.npc }).length := by simpa using h
  refine ⟨?_, ?_, ?_, ?_⟩
  · simp only [Thread.moved, Thread.closeAt, Thread.updSplit, Thread.advanceAll, Thread.split]
    rw [updAt_getD_same _ _ h', updAt_getD_same _ _ h]
  · simp [Thread.moved, Thread.closeAt, Thread.updSplit, Thread.advanceAll]
  · intro e he
    simp only [Thread.moved, Thread.closeAt, Thread.updSplit, Thread.advanceAll, Thread.split]
    rw [updAt_getD_ne _ _ he, updAt_getD_ne _ _ he]
  · simp only [Thread.moved, Thread.closeAt, Thread.updSplit, Thread.advanceAll, Thread.split]
    rw [updAt_getD_same _ _ h', updAt_getD_same _ _ h]

/-- The next state of an instruction that falls through. -/
theorem close_fall {s s' : State} {i : Instr} {c : Ctx} {x : Thread} (ha : c.again = false) (hx : s'.thread? c.t = some x) :
    s.close i c (.fall s') =
      { s' with iss := none,
                threads := SMap.put s'.threads c.t (x.moved (s.signetOn c.x.launch) i c s.cycle) } := by
  have h : ({ s' with iss := none } : State).thread? c.t = some x := hx
  simp only [State.close, ha, Bool.false_eq_true, if_false, Bool.false_and, State.fallOn, State.updThread_some _ h]
  rfl

/-- An instruction whose effect falls through in `s'` completes there. -/
theorem completesIn_of_fall {i : Instr} {s s' : State} {c : Ctx} {x : Thread} {k : Ctx → State → Done} (h : s.issues i c)
    (he : exec i s = issue i s k) (hk : k c s = .fall s') (hx : s'.thread? c.t = some x) (hl : c.e < x.splits.length) :
    CompletesIn i s c s' := by
  refine ⟨x, _, hx, ?_, Thread.moved_movesOn i s hl⟩
  rw [he, issue_of_issues k h, hk, close_fall h.2.2.1 hx]

/-- An instruction that changes its own thread only. -/
theorem completes_of_fall {i : Instr} {s : State} {c : Ctx} {f : Thread → Thread} {k : Ctx → State → Done} (h : s.issues i c)
    (he : exec i s = issue i s k) (hk : k c s = .fall (s.setThread c.t (f c.x))) (hl : (f c.x).splits.length = c.x.splits.length) :
    Completes i s c f := by
  refine ⟨_, ?_, Thread.moved_movesOn i s (hl ▸ h.2.1)⟩
  rw [he, issue_of_issues k h, hk, close_fall h.2.2.1 (State.thread?_setThread_same ..)]
  simp [State.setThread]

/-- An instruction that changes nothing but its own entry. -/
theorem completes_of_nothing {i : Instr} {s : State} {c : Ctx} {k : Ctx → State → Done} (h : s.issues i c)
    (he : exec i s = issue i s k) (hk : k c s = .fall s) : Completes i s c id := by
  have ht := h.thread
  refine ⟨_, ?_, Thread.moved_movesOn i s h.2.1⟩
  rw [he, issue_of_issues k h, hk, close_fall h.2.2.1 ht]
  rfl

/-! ## Results -/

@[simp] theorem Thread.discard_splits (x : Thread) (d : PDst) (m : Mask) : (x.discard d m).splits = x.splits := rfl
@[simp] theorem Thread.land_splits (x : Thread) (d : PDst) (m : Mask) (vs : List Word) : (x.land d m vs).splits = x.splits := by
  cases d with
  | v n => rfl
  | k n => unfold Thread.land; dsimp only; split <;> rfl
  | p n => unfold Thread.land; dsimp only; split <;> rfl
@[simp] theorem Thread.later_splits (x : Thread) (due : Nat) (sp : Mask) (d : PDst) (m : Mask) (vs : List Word) :
    (x.later due sp d m vs).splits = x.splits := by unfold Thread.later; split <;> rfl
@[simp] theorem Thread.now_splits (x : Thread) (d : PDst) (m : Mask) (vs : List Word) : (x.now d m vs).splits = x.splits := by
  simp [Thread.now]
@[simp] theorem Ctx.result_splits (c : Ctx) (s : State) (lat : Nat) (d : PDst) (m : Mask) (f : Nat → Word) (x : Thread) :
    (c.result s lat d m f x).splits = x.splits := by unfold Ctx.result; split <;> simp

@[simp] theorem Ctx.resultHi_splits (c : Ctx) (s : State) (lat : Nat) (d : PDst) (m : Mask) (f : Nat → Word) (x : Thread) :
    (c.resultHi s lat d m f x).splits = x.splits := by unfold Ctx.resultHi; split <;> simp

/-- A write of a destination changes the issuing thread by its result. -/
theorem State.write_eq {s : State} {c : Ctx} {x : Thread} (lat : Nat) (d : PDst) (m : Mask) (f : Nat → Word)
    (h : s.thread? c.t = some x) : s.write c lat d m f = s.setThread c.t (c.result s lat d m f x) := by
  rw [State.write, State.updThread_some _ h]; rfl

theorem State.writeHi_eq {s : State} {c : Ctx} {x : Thread} (lat : Nat) (d : PDst) (m : Mask) (f : Nat → Word)
    (h : s.thread? c.t = some x) : s.writeHi c lat d m f = s.setThread c.t (c.resultHi s lat d m f x) := by
  rw [State.writeHi, State.updThread_some _ h]; rfl

/-- One result of an instruction. -/
theorem result_of_put {i : Instr} {s : State} {c : Ctx} {lat : Nat} {d : Reg} {f : Nat → Word} {k : Ctx → State → Done}
    (h : s.issues i c) (he : exec i s = issue i s k) (hk : k c s = .fall (s.put c lat d f)) : Result i s c lat d f := by
  refine completes_of_fall h he ?_ (by simp)
  rw [hk, State.put, State.write_eq _ _ _ _ h.thread]

/-- A pair's result. -/
theorem result64_of_put {i : Instr} {s : State} {c : Ctx} {lat : Nat} {d : Reg} {f : Nat → DWord} {k : Ctx → State → Done}
    (h : s.issues i c) (he : exec i s = issue i s k) (hk : k c s = .fall (s.put64 c lat d f)) : Result64 i s c lat d f := by
  refine completes_of_fall h he ?_ (by simp)
  have h0 : ∀ x : DWord, x.setWidth 32 = x.extractLsb' 0 32 := fun x => by
    apply BitVec.eq_of_toNat_eq; simp
  have h1 : ∀ x : DWord, (x >>> 32).setWidth 32 = x.extractLsb' 32 32 := fun x => by
    apply BitVec.eq_of_toNat_eq; simp
  rw [hk, State.put64, State.write_eq _ _ _ _ h.thread, State.writeHi_eq _ _ _ _ (State.thread?_setThread_same ..)]
  simp only [h0, h1, State.setThread_setThread]
  rfl

/-- A predicate's result. -/
theorem resultP_of_put {i : Instr} {s : State} {c : Ctx} {lat : Nat} {p : Fin 8} {f : Nat → Bool} {k : Ctx → State → Done}
    (h : s.issues i c) (he : exec i s = issue i s k) (hk : k c s = .fall (s.putP c lat p f)) : ResultP i s c lat p f := by
  refine completes_of_fall h he ?_ (by simp)
  rw [hk, State.putP, State.write_eq _ _ _ _ h.thread]

end Sys2Proof.Machine
end

