-- ==== Sys2Proof/Laws/Memory.lean ====
section
/-!
SUPPORT. The memory of the machine: every operation that writes it keeps its canonical form, reset has it, and what an operation that
does not write it leaves alone.
-/
namespace Sys2Proof.Machine

/-! ## Folds -/

/-- A property that each step of a fold keeps holds after it. -/
theorem foldl_keeps {α β : Type} {P : β → Prop} {f : β → α → β} (hf : ∀ b a, P b → P (f b a)) (l : List α) {b : β} (h : P b) :
    P (l.foldl f b) := by
  induction l generalizing b with
  | nil => exact h
  | cons a r ih => exact ih (hf b a h)

/-- A measure that each step of a fold leaves as it is. -/
theorem foldl_same {α β γ : Type} (m : β → γ) {f : β → α → β} (hf : ∀ b a, m (f b a) = m b) (l : List α) (b : β) :
    m (l.foldl f b) = m b := by
  induction l generalizing b with
  | nil => rfl
  | cons a r ih => exact (ih (f b a)).trans (hf b a)

/-! ## What does not write memory -/

@[simp] theorem State.unstage_mem (s : State) (w : Nat) : (s.unstage w).mem = s.mem := by
  unfold State.unstage
  split
  · rfl
  · dsimp only; split
    · split <;> simp
    · rfl
@[simp] theorem State.recordPrior_mem (s : State) (w pa : Nat) (b : Byte) : (s.recordPrior w pa b).mem = s.mem := by
  unfold State.recordPrior
  dsimp only
  split
  · split
    · rfl
    · split <;> simp
  · rfl
@[simp] theorem State.recordUndo_mem (s : State) (w pa : Nat) : (s.recordUndo w pa).mem = s.mem := State.recordPrior_mem ..
@[simp] theorem State.logUndo_mem (s : State) (line : Nat) : (s.logUndo line).mem = s.mem := by
  unfold State.logUndo
  refine foldl_same State.mem (fun s a => ?_) _ _
  refine foldl_same State.mem (fun s n => ?_) _ _
  split
  · dsimp only; split
    · rfl
    · split <;> simp
  · rfl
@[simp] theorem State.homeGone_mem (s : State) (line : Nat) : (s.homeGone line).mem = s.mem := by simp [State.homeGone]
@[simp] theorem State.sectorWritten_mem (s : State) (q : Nat) : (s.sectorWritten q).mem = s.mem := by
  unfold State.sectorWritten; dsimp only; split <;> rfl
@[simp] theorem State.poisonSector_mem (s : State) (q : Nat) : (s.poisonSector q).mem = s.mem := by
  unfold State.poisonSector; split <;> simp
@[simp] theorem State.carryPoison_mem (s : State) (l : Nat) (p : BitVec 4) (m : ByteMask) : (s.carryPoison l p m).mem = s.mem :=
  foldl_same State.mem (fun s q => by split <;> rfl) _ _

/-! ## What writes memory -/

/-- The two operations that every other write goes through: bytes of tables and records, and bytes of the home copy. -/
theorem State.pokeRaw_mem (s : State) (a n x : Nat) : (s.pokeRaw a n x).mem = Memory.writeBytes s.mem a (leBytes n x) := rfl

theorem State.poke_mem (s : State) (pa : Nat) (bs : List Byte) : (s.poke pa bs).mem = Memory.writeBytes s.mem pa bs := by
  unfold State.poke
  cases bs with
  | nil => rfl
  | cons b r =>
    dsimp only
    rw [foldl_same State.mem fun s q => ?_]
    rw [State.sectorWritten_mem]
    split
    · rfl
    · split <;> rfl

theorem State.pokeBy_mem (s : State) (who pa : Nat) (bs : List Byte) : (s.pokeBy who pa bs).mem = Memory.writeBytes s.mem pa bs := by
  unfold State.pokeBy
  dsimp only
  rw [State.poke_mem]
  split
  · rfl
  · rw [foldl_same State.mem fun s i => State.recordUndo_mem ..]

theorem State.pokeRaw_ok {s : State} (a n x : Nat) (h : s.memoryOk) : (s.pokeRaw a n x).memoryOk := Memory.writeBytes_wf _ _ h
theorem State.poke_ok {s : State} (pa : Nat) (bs : List Byte) (h : s.memoryOk) : (s.poke pa bs).memoryOk := by
  unfold State.memoryOk; rw [State.poke_mem]; exact Memory.writeBytes_wf _ _ h
theorem State.pokeBy_ok {s : State} (who pa : Nat) (bs : List Byte) (h : s.memoryOk) : (s.pokeBy who pa bs).memoryOk := by
  unfold State.memoryOk; rw [State.pokeBy_mem]; exact Memory.writeBytes_wf _ _ h
theorem State.setPte_ok {s : State} (p : Page) (b : Bool) (h : s.memoryOk) : (s.setPte p b).memoryOk := State.pokeRaw_ok _ _ _ h

/-- Two states with one memory have the form together. -/
theorem memoryOk_of_eq {s t : State} (h : s.memoryOk) (e : t.mem = s.mem) : t.memoryOk := by unfold State.memoryOk; rw [e]; exact h

theorem State.pokePart_ok {s : State} (q : Nat) (bs : List (Nat × Byte)) (h : s.memoryOk) : (s.pokePart q bs).memoryOk := by
  unfold State.pokePart
  split
  · exact h
  · unfold State.memoryOk
    rw [State.sectorWritten_mem]
    exact foldl_keeps (P := fun m => Memory.wf m = true) (fun m b hm => Memory.write_wf _ _ hm) _ h

theorem State.writeSpace_ok {s : State} (space va : Nat) (bs : List Byte) (h : s.memoryOk) : (s.writeSpace space va bs).memoryOk := by
  induction bs generalizing s va with
  | nil => exact h
  | cons b r ih =>
    unfold State.writeSpace
    refine ih _ ?_
    split
    · exact State.poke_ok _ _ h
    · exact h

/-- HBM4E reads a sector: what the code takes for data is what the memory holds from then on (R355). -/
theorem State.readHbm_ok {s : State} (q : Nat) (h : s.memoryOk) : (s.readHbm q).memoryOk := by
  unfold State.readHbm
  split
  · exact h
  · split
    · exact h
    · exact memoryOk_of_eq h rfl
    · exact memoryOk_of_eq h (State.poisonSector_mem ..)
    · dsimp only; split <;> exact Memory.writeBytes_wf _ _ h
theorem State.readHbmLine_ok {s : State} (line : Nat) (h : s.memoryOk) : (s.readHbmLine line).memoryOk := by
  unfold State.readHbmLine
  split
  · exact h
  · exact foldl_keeps (fun s q hs => State.readHbm_ok _ hs) _ h
theorem State.touch_ok {s : State} (line : Nat) (h : s.memoryOk) : (s.touch line).memoryOk := by
  unfold State.touch
  dsimp only
  split
  · exact h
  · refine State.readHbmLine_ok _ ?_
    split
    · exact h
    · split
      · exact memoryOk_of_eq h (State.homeGone_mem ..)
      · exact h
theorem State.advance_ok {s : State} (line : Nat) (h : s.memoryOk) : (s.advance line).memoryOk := State.touch_ok line h
theorem State.wrote_ok {s : State} (line : Nat) (h : s.memoryOk) : (s.wrote line).memoryOk := State.advance_ok line h

theorem State.pokeLine_ok {s : State} (line : Nat) (d : LineData) (m : ByteMask) (who : Nat → Nat) (h : s.memoryOk) :
    (s.pokeLine line d m who).memoryOk := by
  unfold State.pokeLine
  refine foldl_keeps (fun s q hs => ?_) _ (foldl_keeps (fun s i hs => ?_) _ h)
  · split
    · exact State.poke_ok _ _ hs
    · exact State.pokePart_ok _ _ hs
  · split
    · exact hs
    · exact memoryOk_of_eq hs (State.recordUndo_mem ..)

theorem State.mergeBytes_ok {s : State} (line : Nat) (l : Line) (h : s.memoryOk) : (s.mergeBytes line l).memoryOk := by
  have e : ((s.pokeLine line l.data l.dirty l.whoAt).carryPoison line l.pois l.dirty).memoryOk :=
    memoryOk_of_eq (State.pokeLine_ok line l.data l.dirty l.whoAt h) (State.carryPoison_mem ..)
  unfold State.mergeBytes
  dsimp only
  split
  · exact e
  · exact e
theorem State.mergeRaw_ok {s : State} (line : Nat) (l : Line) (h : s.memoryOk) : (s.mergeRaw line l).memoryOk := by
  unfold State.mergeRaw
  split
  · exact h
  · exact State.wrote_ok _ (State.mergeBytes_ok _ _ h)

/-! ## Tables (R339 to R342) -/

theorem State.allocTable_mem {s t : State} {n a : Nat} (h : s.allocTable n = some (a, t)) : t.mem = s.mem := by
  unfold State.allocTable at h
  dsimp only at h
  split at h
  · cases h; rfl
  · cases h
theorem State.allocFrame_mem {s t : State} {d a : Nat} (h : s.allocFrame d = some (a, t)) : t.mem = s.mem := by
  unfold State.allocFrame at h
  dsimp only at h
  cases e : frameAddr d (if d = 0 then s.res.frame0 else s.res.frame1) with
  | none => simp [e] at h
  | some b => simp only [e, Option.map_some, Option.some.injEq, Prod.mk.injEq] at h; rw [← h.2]; rfl
theorem State.ensureRoot_mem {s t : State} {space r : Nat} (h : s.ensureRoot space = some (r, t)) : t.mem = s.mem := by
  unfold State.ensureRoot at h
  split at h
  · cases h; rfl
  · cases e : s.allocTable 512 with
    | none => simp [e] at h
    | some q =>
      obtain ⟨a, u⟩ := q
      simp only [e, Option.map_some, Option.some.injEq, Prod.mk.injEq] at h
      rw [← h.2]; exact (State.allocTable_mem e :)
theorem State.ensureNext_ok {s t : State} {a r : Nat} (hs : s.memoryOk) (h : s.ensureNext a = some (r, t)) : t.memoryOk := by
  unfold State.ensureNext at h
  dsimp only at h
  split at h
  · split at h
    · cases h
    · cases e : nextTable (Memory.le s.mem a 8) with
      | none => simp [e] at h
      | some q => simp only [e, Option.map_some, Option.some.injEq, Prod.mk.injEq] at h; rw [← h.2]; exact hs
  · cases e : s.allocTable 1 with
    | none => simp [e] at h
    | some q =>
      obtain ⟨b, u⟩ := q
      simp only [e, Option.map_some, Option.some.injEq, Prod.mk.injEq] at h
      rw [← h.2]; exact State.pokeRaw_ok _ _ _ (memoryOk_of_eq hs (State.allocTable_mem e))
theorem State.ensureEntry_ok {s t : State} {space va r : Nat} (hs : s.memoryOk) (h : s.ensureEntry space va = some (r, t)) : t.memoryOk := by
  unfold State.ensureEntry at h
  cases e : s.ensureRoot space with
  | none => simp [e] at h
  | some q =>
    obtain ⟨r0, s0⟩ := q
    simp only [e, Option.bind_some] at h
    cases e1 : s0.ensureNext (entryAt r0 0 va) with
    | none => simp [e1] at h
    | some q1 =>
      obtain ⟨r1, s1⟩ := q1
      simp only [e1, Option.bind_some] at h
      cases e2 : s1.ensureNext (entryAt r1 1 va) with
      | none => simp [e2] at h
      | some q2 =>
        obtain ⟨r2, s2⟩ := q2
        simp only [e2, Option.map_some, Option.some.injEq, Prod.mk.injEq] at h
        rw [← h.2]
        exact State.ensureNext_ok (State.ensureNext_ok (memoryOk_of_eq hs (State.ensureRoot_mem e)) e1) e2
theorem State.mapPages_ok {s t : State} {space va n : Nat} {x : Bool} (hs : s.memoryOk) (h : s.mapPages space x n va = some t) :
    t.memoryOk := by
  induction n generalizing s va with
  | zero => cases h; exact hs
  | succ n ih =>
    unfold State.mapPages at h
    cases e : s.allocFrame 0 with
    | none => simp [e] at h
    | some q =>
      obtain ⟨f, s0⟩ := q
      simp only [e, Option.bind_some] at h
      cases e1 : s0.ensureEntry space va with
      | none => simp [e1] at h
      | some q1 =>
        obtain ⟨a, s1⟩ := q1
        simp only [e1, Option.bind_some] at h
        exact ih (State.setPte_ok _ _ (State.ensureEntry_ok (memoryOk_of_eq hs (State.allocFrame_mem e)) e1)) h
theorem State.residentPages_ok {s t : State} {space n va : Nat} {x : Bool} (hs : s.memoryOk)
    (h : s.residentPages space n x = some (va, t)) : t.memoryOk := by
  unfold State.residentPages at h
  dsimp only at h
  cases e : State.mapPages (s.allocVa ((n + 65535) / 65536)).2 space x ((n + 65535) / 65536) (s.allocVa ((n + 65535) / 65536)).1 with
  | none => simp [e] at h
  | some u =>
    simp only [e, Option.map_some, Option.some.injEq, Prod.mk.injEq] at h
    rw [← h.2]
    exact State.mapPages_ok (s := (s.allocVa ((n + 65535) / 65536)).2) (memoryOk_of_eq hs rfl) e

/-! ## Placement and reset -/

theorem State.placeWords_ok {s : State} (seq : Bool) (w : Word) (exts : List Word) (h : s.memoryOk) : (s.placeWords seq w exts).memoryOk :=
  Memory.writeBytes_wf _ _ (Memory.writeBytes_wf _ _ h)

theorem State.reset_memoryOk : State.reset.memoryOk := by unfold State.memoryOk; decide

end Sys2Proof.Machine
end

