-- ==== Sys2Proof/Laws/Ops.lean ====
section
/-!
SUPPORT. The shared operations of issue: taking an exception and returning from one, what follows an effect, and results that wait.
-/
namespace Sys2Proof.Machine

/-! ## Taking an exception (R45, R350) -/

/-- How the work of a strand, of a context, or of a strand that has ended meanwhile ends by a fault that goes to no handler. -/
def State.ends (s : State) (c : Ctx) (f : FInfo) : State :=
  if c.t = noThread then
    (if s.launchOpen c.x.launch then
       s.failDead c.x.uid c.x.launch { s.opRec f.code c.x c.pc with addr := f.addr, info := f.info, aux0 := f.aux0, aux1 := f.aux1 }
     else s)
  else if c.x.seq then s.contextFault c.x.gang c.pc f.code f.addr f.info f.aux0 f.aux1
  else s.failThread c.t { s.threadRec f.code c.t c.pc with addr := f.addr, info := f.info, aux0 := f.aux0, aux1 := f.aux1 }

/-- TAKING AN EXCEPTION: in a strand with a handler, outside it, a fault of a handler class enters the handler or, where another fault is
in it, holds the split; every other fault ends the group, or the gang where a context faults, with its record. -/
theorem raise_cases (s : State) (c : Ctx) (f : FInfo) :
    (∃ trap, s.trapOf c.x = some trap ∧ eligible f.code = true ∧ c.x.seq = false ∧ c.sp.inH = false ∧ c.t ≠ noThread
      ∧ ((c.x.handlerBusy = false ∧ s.raise c f = { s with iss := none }.updThread c.t fun x =>
            x.enterHandler c.e f.code (f.pc.getD c.pc) (BitVec.ofNat 32 f.info) trap)
         ∨ (c.x.handlerBusy = true ∧ s.raise c f = { s with iss := none }.updSplit c.t c.e fun p =>
            { p with held := some { order := s.cycle, code := f.code, pc := f.pc.getD c.pc, info := BitVec.ofNat 32 f.info } })))
    ∨ ((∀ trap, s.trapOf c.x = some trap → eligible f.code = false ∨ c.x.seq = true ∨ c.sp.inH = true ∨ c.t = noThread)
      ∧ s.raise c f = { s with iss := none }.ends c f) := by
  have hx : s.raise c f = match s.trapOf c.x with
      | some trap =>
        if eligible f.code && !c.x.seq && !c.sp.inH && c.t != noThread then
          if c.x.handlerBusy then
            { s with iss := none }.updSplit c.t c.e fun p =>
              { p with held := some { order := s.cycle, code := f.code, pc := f.pc.getD c.pc, info := BitVec.ofNat 32 f.info } }
          else { s with iss := none }.updThread c.t fun x => x.enterHandler c.e f.code (f.pc.getD c.pc) (BitVec.ofNat 32 f.info) trap
        else { s with iss := none }.ends c f
      | none => { s with iss := none }.ends c f := rfl
  cases h : s.trapOf c.x with
  | none => rw [h] at hx; exact .inr ⟨fun t ht => by simp at ht, hx⟩
  | some trap =>
    rw [h] at hx
    by_cases he : (eligible f.code && !c.x.seq && !c.sp.inH && c.t != noThread) = true
    · simp only [he, if_true] at hx
      simp only [Bool.and_eq_true, Bool.not_eq_true', bne_iff_ne] at he
      refine .inl ⟨trap, rfl, he.1.1.1, he.1.1.2, he.1.2, he.2, ?_⟩
      cases hb : c.x.handlerBusy with
      | true => simp only [hb, if_true] at hx; exact .inr ⟨rfl, hx⟩
      | false => simp only [hb, Bool.false_eq_true, if_false] at hx; exact .inl ⟨rfl, hx⟩
    · simp only [he, Bool.false_eq_true, if_false] at hx
      refine .inr ⟨fun t ht => ?_, hx⟩
      cases h1 : eligible f.code <;> cases h2 : c.x.seq <;> cases h3 : c.sp.inH <;> simp_all

/-- What entry to the handler leaves in the entry that faulted, and that it leaves the others. -/
theorem Thread.enterHandler_split (x : Thread) (e code pc : Nat) (info : Word) (trap : Nat) (h : e < x.splits.length) :
    (x.enterHandler e code pc info trap).split e =
      { x.split e with inH := true, pc := trap, held := none, sig := 0xFFFF, stall := max (x.split e).stall (x.drainAt (x.split e).mask) }
    ∧ ∀ n, n ≠ e → (x.enterHandler e code pc info trap).split n = x.split n :=
  ⟨Thread.split_updSplit_same (x := { x with fault := BitVec.ofNat 8 code, faultpc := pc, faultinfo := info }) _ h,
   fun n hn => Thread.split_updSplit_ne (x := { x with fault := BitVec.ofNat 8 code, faultpc := pc, faultinfo := info }) _ hn⟩

/-! ## Returning from one (R46) -/

/-- When the handler may be taken: it stays where it is busy, or nothing is held, or there is none; else the split held earliest enters it. -/
theorem State.handlerFree_cases {s : State} {t : Nat} {x : Thread} (h : s.thread? t = some x) :
    ((x.handlerBusy = true ∨ x.firstHeld = none ∨ s.trapOf x = none) ∧ s.handlerFree t = s)
    ∨ ∃ e g trap, x.handlerBusy = false ∧ x.firstHeld = some (e, g) ∧ s.trapOf x = some trap
        ∧ s.handlerFree t = s.setThread t (x.enterHandler e g.code g.pc g.info trap) := by
  unfold State.handlerFree
  rw [h]
  dsimp only
  cases hb : x.handlerBusy with
  | true => exact .inl ⟨.inl rfl, by simp⟩
  | false =>
    cases hf : x.firstHeld with
    | none => exact .inl ⟨.inr (.inl rfl), by simp⟩
    | some q =>
      obtain ⟨e, g⟩ := q
      cases ht : s.trapOf x with
      | none => exact .inl ⟨.inr (.inr rfl), by simp⟩
      | some trap => exact .inr ⟨e, g, trap, rfl, rfl, rfl, by simp⟩

/-- RETURNING: the entry runs on at %faultpc, and the handler is free for a held split. -/
theorem State.returnHandler_eq {s : State} {t e : Nat} {x : Thread} (h : s.thread? t = some x) :
    s.returnHandler t e = (s.setThread t (x.updSplit e fun p => { p with inH := false, pc := x.faultpc, sig := 0xFFFF })).handlerFree t := by
  rw [State.returnHandler, State.updThread_some _ h]

/-! ## What follows an effect -/

/-- An effect that ends in a fault takes the exception in the state in which it failed. -/
theorem close_fault {c : Ctx} (s : State) (i : Instr) (f : FInfo) (h : c.again = false) : s.close i c (.fault f) = s.raise c f := by
  simp [State.close, h]
theorem close_failed {c : Ctx} (s s' : State) (i : Instr) (f : FInfo) (h : c.again = false) : s.close i c (.failed s' f) = s'.raise c f := by
  simp [State.close, h]
/-- A held instruction changes nothing: it stays at issue, to be tried again. -/
theorem close_hold {c : Ctx} (s : State) (i : Instr) (h : c.again = false) : s.close i c .hold = s := by simp [State.close, h]
/-- An instruction whose access is not performed at once has issued: the access is under way, and the split goes on or stays (R201). -/
theorem close_later {c : Ctx} (s s' : State) (i : Instr) (p : Part) (h : c.again = false) :
    s.close i c (.later s' p) = { s' with iss := none }.startOp i c p := by simp [State.close, h]

@[simp] theorem State.endOp_mem (s : State) (id : Nat) : (s.endOp id).mem = s.mem := by unfold State.endOp; split <;> rfl

/-- Whatever follows an effect that is performed leaves the memory of the effect's state. -/
theorem close_mem (s s' : State) (i : Instr) (c : Ctx) (made : List Nat) (falls : Bool) :
    (s.close i c (.fall s')).mem = s'.mem ∧ (s.close i c (.jump s' made falls)).mem = s'.mem ∧ (s.close i c (.ends s')).mem = s'.mem
    ∧ (s.close i c .hold).mem = s.mem := by
  refine ⟨?_, ?_, ?_, ?_⟩
  · unfold State.close; dsimp only
    cases c.again <;> cases stays i <;> simp [State.fallOn]
  · unfold State.close; dsimp only
    cases c.again <;> simp
  · simp [State.close]
  · unfold State.close; cases c.again <;> rfl

/-- A raised fault of an instruction at issue: the effect is not performed. -/
theorem raises_of_fault {i : Instr} {s : State} {c : Ctx} {f : FInfo} {k : Ctx → State → Done} (h : s.issues i c)
    (he : exec i s = issue i s k) (hk : k c s = .fault f) : Raises i s c f := by
  rw [Raises, he, issue_of_issues k h, hk, close_fault _ _ _ h.2.2.1]

/-- What an instruction at issue comes to. -/
theorem ends_of {i : Instr} {s : State} {c : Ctx} {d : Done} {k : Ctx → State → Done} (h : s.issues i c)
    (he : exec i s = issue i s k) (hk : k c s = d) : Ends i s c d := by
  rw [Ends, he, issue_of_issues k h, hk]

/-! ## Results that wait (R201, R202) -/

/-- A class A, B or C result that waits is read by nothing: every register and predicate is as it was. -/
theorem Thread.later_reads (x : Thread) (due : Nat) (sp : Mask) (d : PDst) (m : Mask) (vs : List Word) :
    (x.later due sp d m vs).v = x.v ∧ (x.later due sp d m vs).k = x.k ∧ (x.later due sp d m vs).p = x.p
    ∧ (x.later due sp d m vs).streams = x.streams ∧ (x.later due sp d m vs).winBase = x.winBase := by
  unfold Thread.later; split <;> exact ⟨rfl, rfl, rfl, rfl, rfl⟩

end Sys2Proof.Machine
end

