-- ==== Sys2Proof/Laws/PerInstr.lean ====
section
/-!
SUPPORT. The family Encodes: the decoder reads a well-formed instruction back from the words of its encoding, one lemma per
constructor. An event has no words (R215), and its statement is empty.
-/
set_option Elab.async false

namespace Sys2Proof.Laws.Encodes

/-- Decoding the words of a well-formed instruction gives it back, every operand at its value (R193 to R212). -/
def Statement (i : Instr) : Prop := i.wf = true → i.hasWord = true → decode (encode i).1 (encode i).2 = some i

theorem Events.no_word {i : Instr} (h : i.hasWord = false) : Statement i := fun _ h2 => by simp [h] at h2

theorem iadd (x0 x1 x2 x3) : Statement (.iadd x0 x1 x2 x3) := by
  intro hw _
  apply decode_encode_of hw
  simp [encodeRaw, decodeRaw_arith, decodeArith, imm5, decodeCvt, fin4, Raw.rd, Raw.ra, Raw.rb, slice_slice]
theorem isub (x0 x1 x2 x3) : Statement (.isub x0 x1 x2 x3) := by
  intro hw _
  apply decode_encode_of hw
  simp [encodeRaw, decodeRaw_arith, decodeArith, imm5, decodeCvt, fin4, Raw.rd, Raw.ra, Raw.rb, slice_slice]
theorem iaddi (x0 x1 x2 x3) : Statement (.iaddi x0 x1 x2 x3) := by
  intro hw _
  apply decode_encode_of hw
  simp [encodeRaw, decodeRaw_arith, decodeArith, imm5, decodeCvt, fin4, Raw.rd, Raw.ra, Raw.rb, slice_slice]
theorem imul (x0 x1 x2 x3) : Statement (.imul x0 x1 x2 x3) := by
  intro hw _
  apply decode_encode_of hw
  simp [encodeRaw, decodeRaw_arith, decodeArith, imm5, decodeCvt, fin4, Raw.rd, Raw.ra, Raw.rb, slice_slice]
theorem imad (x0 x1 x2 x3) : Statement (.imad x0 x1 x2 x3) := by
  intro hw _
  apply decode_encode_of hw
  simp [encodeRaw, decodeRaw_arith, decodeArith, imm5, decodeCvt, fin4, Raw.rd, Raw.ra, Raw.rb, slice_slice]
theorem imulhi (x0 x1 x2 x3 x4) : Statement (.imulhi x0 x1 x2 x3 x4) := by
  intro hw _
  apply decode_encode_of hw
  cases x0 <;> simp [encodeRaw, decodeRaw_arith, decodeArith, imm5, decodeCvt, fin4, Raw.rd, Raw.ra, Raw.rb, slice_slice]
theorem imulw (x0 x1 x2 x3 x4) : Statement (.imulw x0 x1 x2 x3 x4) := by
  intro hw _
  apply decode_encode_of hw
  cases x0 <;> simp [encodeRaw, decodeRaw, decode7C, Raw.rd, Raw.ra, Raw.rb, slice_slice]
theorem iaddSat (x0 x1 x2 x3 x4) : Statement (.iaddSat x0 x1 x2 x3 x4) := by
  intro hw _
  apply decode_encode_of hw
  cases x0 <;> simp [encodeRaw, decodeRaw, decode7C, Raw.rd, Raw.ra, Raw.rb, slice_slice]
theorem isubSat (x0 x1 x2 x3 x4) : Statement (.isubSat x0 x1 x2 x3 x4) := by
  intro hw _
  apply decode_encode_of hw
  cases x0 <;> simp [encodeRaw, decodeRaw, decode7C, Raw.rd, Raw.ra, Raw.rb, slice_slice]
theorem idiv (x0 x1 x2 x3 x4) : Statement (.idiv x0 x1 x2 x3 x4) := by
  intro hw _
  apply decode_encode_of hw
  cases x0 <;> simp [encodeRaw, decodeRaw, decode7C, Raw.rd, Raw.ra, Raw.rb, slice_slice]
theorem irem (x0 x1 x2 x3 x4) : Statement (.irem x0 x1 x2 x3 x4) := by
  intro hw _
  apply decode_encode_of hw
  cases x0 <;> simp [encodeRaw, decodeRaw, decode7C, Raw.rd, Raw.ra, Raw.rb, slice_slice]
theorem imin (x0 x1 x2 x3 x4) : Statement (.imin x0 x1 x2 x3 x4) := by
  intro hw _
  apply decode_encode_of hw
  cases x0 <;> simp [encodeRaw, decodeRaw_arith, decodeArith, imm5, decodeCvt, fin4, Raw.rd, Raw.ra, Raw.rb, slice_slice]
theorem imax (x0 x1 x2 x3 x4) : Statement (.imax x0 x1 x2 x3 x4) := by
  intro hw _
  apply decode_encode_of hw
  cases x0 <;> simp [encodeRaw, decodeRaw_arith, decodeArith, imm5, decodeCvt, fin4, Raw.rd, Raw.ra, Raw.rb, slice_slice]
theorem iabs (x0 x1 x2) : Statement (.iabs x0 x1 x2) := by
  intro hw _
  apply decode_encode_of hw
  simp [encodeRaw, decodeRaw, decode7C, Raw.rd, Raw.ra, Raw.rb, slice_slice]
theorem ineg (x0 x1 x2) : Statement (.ineg x0 x1 x2) := by
  intro hw _
  apply decode_encode_of hw
  simp [encodeRaw, decodeRaw, decode7C, Raw.rd, Raw.ra, Raw.rb, slice_slice]
theorem not (x0 x1 x2) : Statement (.not x0 x1 x2) := by
  intro hw _
  apply decode_encode_of hw
  simp [encodeRaw, decodeRaw, decode7C, Raw.rd, Raw.ra, Raw.rb, slice_slice]
theorem and (x0 x1 x2 x3) : Statement (.and x0 x1 x2 x3) := by
  intro hw _
  apply decode_encode_of hw
  simp [encodeRaw, decodeRaw_arith, decodeArith, imm5, decodeCvt, fin4, Raw.rd, Raw.ra, Raw.rb, slice_slice]
theorem or (x0 x1 x2 x3) : Statement (.or x0 x1 x2 x3) := by
  intro hw _
  apply decode_encode_of hw
  simp [encodeRaw, decodeRaw_arith, decodeArith, imm5, decodeCvt, fin4, Raw.rd, Raw.ra, Raw.rb, slice_slice]
theorem xor (x0 x1 x2 x3) : Statement (.xor x0 x1 x2 x3) := by
  intro hw _
  apply decode_encode_of hw
  simp [encodeRaw, decodeRaw_arith, decodeArith, imm5, decodeCvt, fin4, Raw.rd, Raw.ra, Raw.rb, slice_slice]
theorem andn (x0 x1 x2 x3) : Statement (.andn x0 x1 x2 x3) := by
  intro hw _
  apply decode_encode_of hw
  simp [encodeRaw, decodeRaw_arith, decodeArith, imm5, decodeCvt, fin4, Raw.rd, Raw.ra, Raw.rb, slice_slice]
theorem shl (x0 x1 x2 x3) : Statement (.shl x0 x1 x2 x3) := by
  intro hw _
  apply decode_encode_of hw
  simp [encodeRaw, decodeRaw_arith, decodeArith, imm5, decodeCvt, fin4, Raw.rd, Raw.ra, Raw.rb, slice_slice]
theorem shr (x0 x1 x2 x3) : Statement (.shr x0 x1 x2 x3) := by
  intro hw _
  apply decode_encode_of hw
  simp [encodeRaw, decodeRaw_arith, decodeArith, imm5, decodeCvt, fin4, Raw.rd, Raw.ra, Raw.rb, slice_slice]
theorem sar (x0 x1 x2 x3) : Statement (.sar x0 x1 x2 x3) := by
  intro hw _
  apply decode_encode_of hw
  simp [encodeRaw, decodeRaw_arith, decodeArith, imm5, decodeCvt, fin4, Raw.rd, Raw.ra, Raw.rb, slice_slice]
theorem shli (x0 x1 x2 x3) : Statement (.shli x0 x1 x2 x3) := by
  intro hw _
  apply decode_encode_of hw
  simp [encodeRaw, decodeRaw_arith, decodeArith, imm5, decodeCvt, fin4, Raw.rd, Raw.ra, Raw.rb, slice_slice]
theorem shri (x0 x1 x2 x3) : Statement (.shri x0 x1 x2 x3) := by
  intro hw _
  apply decode_encode_of hw
  simp [encodeRaw, decodeRaw_arith, decodeArith, imm5, decodeCvt, fin4, Raw.rd, Raw.ra, Raw.rb, slice_slice]
theorem sari (x0 x1 x2 x3) : Statement (.sari x0 x1 x2 x3) := by
  intro hw _
  apply decode_encode_of hw
  simp [encodeRaw, decodeRaw_arith, decodeArith, imm5, decodeCvt, fin4, Raw.rd, Raw.ra, Raw.rb, slice_slice]
theorem popc (x0 x1 x2) : Statement (.popc x0 x1 x2) := by
  intro hw _
  apply decode_encode_of hw
  simp [encodeRaw, decodeRaw, decode7C, Raw.rd, Raw.ra, Raw.rb, slice_slice]
theorem clz (x0 x1 x2) : Statement (.clz x0 x1 x2) := by
  intro hw _
  apply decode_encode_of hw
  simp [encodeRaw, decodeRaw, decode7C, Raw.rd, Raw.ra, Raw.rb, slice_slice]
theorem ctz (x0 x1 x2) : Statement (.ctz x0 x1 x2) := by
  intro hw _
  apply decode_encode_of hw
  simp [encodeRaw, decodeRaw, decode7C, Raw.rd, Raw.ra, Raw.rb, slice_slice]
theorem brev (x0 x1 x2) : Statement (.brev x0 x1 x2) := by
  intro hw _
  apply decode_encode_of hw
  simp [encodeRaw, decodeRaw, decode7C, Raw.rd, Raw.ra, Raw.rb, slice_slice]
theorem bfx (x0 x1 x2 x3 x4) : Statement (.bfx x0 x1 x2 x3 x4) := by
  intro hw _
  apply decode_encode_of hw
  cases x0 <;> simp [encodeRaw, decodeRaw, decode7C, Raw.rd, Raw.ra, Raw.rb, slice_slice]
theorem bfi (x0 x1 x2 x3) : Statement (.bfi x0 x1 x2 x3) := by
  intro hw _
  apply decode_encode_of hw
  simp [encodeRaw, decodeRaw, decode7C, Raw.rd, Raw.ra, Raw.rb, slice_slice]
theorem bmix (x0 x1 x2 x3) : Statement (.bmix x0 x1 x2 x3) := by
  intro hw _
  apply decode_encode_of hw
  simp [encodeRaw, decodeRaw, decode7C, Raw.rd, Raw.ra, Raw.rb, slice_slice]
theorem sel (x0 x1 x2 x3) : Statement (.sel x0 x1 x2 x3) := by
  intro hw _
  apply decode_encode_of hw
  simp [encodeRaw, decodeRaw_arith, decodeArith, imm5, decodeCvt, fin4, Raw.rd, Raw.ra, Raw.rb, slice_slice]
theorem mov (x0 x1 x2) : Statement (.mov x0 x1 x2) := by
  intro hw _
  apply decode_encode_of hw
  simp [encodeRaw, decodeRaw_arith, decodeArith, imm5, decodeCvt, fin4, Raw.rd, Raw.ra, Raw.rb, slice_slice]
theorem movi (x0 x1 x2) : Statement (.movi x0 x1 x2) := by
  intro hw _
  apply decode_encode_of hw
  simp [encodeRaw, decodeRaw_arith, decodeArith, imm5, decodeCvt, fin4, Raw.rd, Raw.ra, Raw.rb, slice_slice]
theorem movh (x0 x1) : Statement (.movh x0 x1) := by
  intro hw _
  apply decode_encode_of hw
  simp [encodeRaw, decodeRaw_arith, decodeArith, imm5, decodeCvt, fin4, Raw.rd, Raw.ra, Raw.rb, slice_slice]
theorem movs (x0 x1 x2) : Statement (.movs x0 x1 x2) := by
  intro hw _
  apply decode_encode_of hw
  simp [encodeRaw, decodeRaw_control, decodeControl, Raw.rd, Raw.ra, Raw.rb, slice_slice]
theorem icmp (x0 x1 x2 x3 x4 x5) : Statement (.icmp x0 x1 x2 x3 x4 x5) := by
  intro hw _
  apply decode_encode_of hw
  simp [encodeRaw, decodeRaw_arith, decodeArith, imm5, decodeCvt, fin4, Raw.rd, Raw.ra, Raw.rb, slice_slice]
theorem icmpi (x0 x1 x2 x3 x4 x5) : Statement (.icmpi x0 x1 x2 x3 x4 x5) := by
  intro hw _
  apply decode_encode_of hw
  simp [encodeRaw, decodeRaw_arith, decodeArith, imm5, decodeCvt, fin4, Raw.rd, Raw.ra, Raw.rb, slice_slice]
theorem add64 (x0 x1 x2 x3) : Statement (.add64 x0 x1 x2 x3) := by
  intro hw _
  apply decode_encode_of hw
  simp [encodeRaw, decodeRaw_arith, decodeArith, imm5, decodeCvt, fin4, Raw.rd, Raw.ra, Raw.rb, slice_slice]
theorem sub64 (x0 x1 x2 x3) : Statement (.sub64 x0 x1 x2 x3) := by
  intro hw _
  apply decode_encode_of hw
  simp [encodeRaw, decodeRaw_arith, decodeArith, imm5, decodeCvt, fin4, Raw.rd, Raw.ra, Raw.rb, slice_slice]
theorem lea (x0 x1 x2 x3) : Statement (.lea x0 x1 x2 x3) := by
  intro hw _
  apply decode_encode_of hw
  simp [encodeRaw, decodeRaw_arith, decodeArith, imm5, decodeCvt, fin4, Raw.rd, Raw.ra, Raw.rb, slice_slice]
theorem shl64 (x0 x1 x2 x3) : Statement (.shl64 x0 x1 x2 x3) := by
  intro hw _
  apply decode_encode_of hw
  simp [encodeRaw, decodeRaw, decode7C, Raw.rd, Raw.ra, Raw.rb, slice_slice]
theorem shr64 (x0 x1 x2 x3) : Statement (.shr64 x0 x1 x2 x3) := by
  intro hw _
  apply decode_encode_of hw
  simp [encodeRaw, decodeRaw, decode7C, Raw.rd, Raw.ra, Raw.rb, slice_slice]
theorem bra (x0 x1) : Statement (.bra x0 x1) := by
  intro hw _
  apply decode_encode_of hw
  simp [encodeRaw, decodeRaw_control, decodeControl, Raw.rd, Raw.ra, Raw.rb, slice_slice]
theorem brx (x0 x1 x2 x3) : Statement (.brx x0 x1 x2 x3) := by
  intro hw _
  apply decode_encode_of hw
  simp [encodeRaw, decodeRaw_control, decodeControl, Raw.rd, Raw.ra, Raw.rb, slice_slice]
theorem call (x0 x1) : Statement (.call x0 x1) := by
  intro hw _
  apply decode_encode_of hw
  simp [encodeRaw, decodeRaw_control, decodeControl, Raw.rd, Raw.ra, Raw.rb, slice_slice]
theorem ret (x0) : Statement (.ret x0) := by
  intro hw _
  apply decode_encode_of hw
  simp [encodeRaw, decodeRaw_control, decodeControl, Raw.rd, Raw.ra, Raw.rb, slice_slice]
theorem joinat (x0) : Statement (.joinat x0) := by
  intro hw _
  apply decode_encode_of hw
  simp [encodeRaw, decodeRaw_control, decodeControl, Raw.rd, Raw.ra, Raw.rb, slice_slice]
theorem exit (x0) : Statement (.exit x0) := by
  intro hw _
  apply decode_encode_of hw
  simp [encodeRaw, decodeRaw_control, decodeControl, Raw.rd, Raw.ra, Raw.rb, slice_slice]
theorem trap (x0 x1) : Statement (.trap x0 x1) := by
  intro hw _
  apply decode_encode_of hw
  simp [encodeRaw, decodeRaw_control, decodeControl, Raw.rd, Raw.ra, Raw.rb, slice_slice]
theorem eret (x0) : Statement (.eret x0) := by
  intro hw _
  apply decode_encode_of hw
  simp [encodeRaw, decodeRaw_control, decodeControl, f21_a, f21_b]
theorem yield (x0) : Statement (.yield x0) := by
  intro hw _
  apply decode_encode_of hw
  simp [encodeRaw, decodeRaw_control, decodeControl, f21_a, f21_b]
theorem nop (x0) : Statement (.nop x0) := by
  intro hw _
  apply decode_encode_of hw
  simp [encodeRaw, decodeRaw_control, decodeControl, f21_a, f21_b]
theorem winb (x0 x1) : Statement (.winb x0 x1) := by
  intro hw _
  apply decode_encode_of hw
  have := x1.isLt
  have h : (1#3).toNat * 16 + x1.toNat = 16 + x1.toNat := rfl
  simp only [encodeRaw]
  rw [decodeRaw_control _ (by simp) (by simp)]
  simp [decodeControl, h]
  split <;> first | omega | (simp; omega)
theorem rgn (x0 x1 x2 x3) : Statement (.rgn x0 x1 x2 x3) := by
  intro hw _
  apply decode_encode_of hw
  simp [encodeRaw, decodeRaw_control, decodeControl, Raw.rd, Raw.ra, Raw.rb, slice_slice]
theorem sigchk (x0) : Statement (.sigchk x0) := by
  intro hw _
  apply decode_encode_of hw
  simp [encodeRaw, decodeRaw_control, decodeControl, Raw.rd, Raw.ra, Raw.rb, slice_slice]
theorem barArv (x0 x1 x2) : Statement (.barArv x0 x1 x2) := by
  intro hw _
  apply decode_encode_of hw
  simp [encodeRaw, decodeRaw_control, decodeControl, Raw.rd, Raw.ra, Raw.rb, slice_slice]
theorem barWait (x0 x1) : Statement (.barWait x0 x1) := by
  intro hw _
  apply decode_encode_of hw
  simp [encodeRaw, decodeRaw_control, decodeControl, Raw.rd, Raw.ra, Raw.rb, slice_slice]
theorem barSync (x0 x1 x2) : Statement (.barSync x0 x1 x2) := by
  intro hw _
  apply decode_encode_of hw
  simp [encodeRaw, decodeRaw_control, decodeControl, Raw.rd, Raw.ra, Raw.rb, slice_slice]
theorem gbind (x0 x1 x2) : Statement (.gbind x0 x1 x2) := by
  intro hw _
  apply decode_encode_of hw
  simp [encodeRaw, decodeRaw_control, decodeControl, Raw.rd, Raw.ra, Raw.rb, slice_slice]
theorem gstat (x0 x1 x2) : Statement (.gstat x0 x1 x2) := by
  intro hw _
  apply decode_encode_of hw
  simp [encodeRaw, decodeRaw_control, decodeControl, Raw.rd, Raw.ra, Raw.rb, slice_slice]
theorem gloop (x0 x1 x2 x3) : Statement (.gloop x0 x1 x2 x3) := by
  intro hw _
  apply decode_encode_of hw
  simp [encodeRaw, decodeRaw_control, decodeControl, Raw.rd, Raw.ra, Raw.rb, slice_slice]
theorem rgwait (x0 x1 x2) : Statement (.rgwait x0 x1 x2) := by
  intro hw _
  apply decode_encode_of hw
  simp [encodeRaw, decodeRaw_control, decodeControl, Raw.rd, Raw.ra, Raw.rb, slice_slice]
theorem rgdone (x0 x1) : Statement (.rgdone x0 x1) := by
  intro hw _
  apply decode_encode_of hw
  simp [encodeRaw, decodeRaw_control, decodeControl, Raw.rd, Raw.ra, Raw.rb, slice_slice]
theorem cpyY (x0 x1 x2 x3 x4) : Statement (.cpyY x0 x1 x2 x3 x4) := by
  intro hw _
  apply decode_encode_of hw
  simp [encodeRaw, decodeRaw_control, decodeControl, Raw.rd, Raw.ra, Raw.rb, slice_slice]
theorem fadd (x0 x1 x2 x3) : Statement (.fadd x0 x1 x2 x3) := by
  intro hw _
  apply decode_encode_of hw
  simp [encodeRaw, decodeRaw_arith, decodeArith, imm5, decodeCvt, fin4, Raw.rd, Raw.ra, Raw.rb, slice_slice]
theorem fsub (x0 x1 x2 x3) : Statement (.fsub x0 x1 x2 x3) := by
  intro hw _
  apply decode_encode_of hw
  simp [encodeRaw, decodeRaw_arith, decodeArith, imm5, decodeCvt, fin4, Raw.rd, Raw.ra, Raw.rb, slice_slice]
theorem fmul (x0 x1 x2 x3) : Statement (.fmul x0 x1 x2 x3) := by
  intro hw _
  apply decode_encode_of hw
  simp [encodeRaw, decodeRaw_arith, decodeArith, imm5, decodeCvt, fin4, Raw.rd, Raw.ra, Raw.rb, slice_slice]
theorem ffma (x0 x1 x2 x3) : Statement (.ffma x0 x1 x2 x3) := by
  intro hw _
  apply decode_encode_of hw
  simp [encodeRaw, decodeRaw_arith, decodeArith, imm5, decodeCvt, fin4, Raw.rd, Raw.ra, Raw.rb, slice_slice]
theorem fdiv (x0 x1 x2 x3) : Statement (.fdiv x0 x1 x2 x3) := by
  intro hw _
  apply decode_encode_of hw
  simp [encodeRaw, decodeRaw_arith, decodeArith, imm5, decodeCvt, fin4, Raw.rd, Raw.ra, Raw.rb, slice_slice]
theorem sqrt (x0 x1 x2) : Statement (.sqrt x0 x1 x2) := by
  intro hw _
  apply decode_encode_of hw
  simp [encodeRaw, decodeRaw, decode7D, Raw.rd, Raw.ra, Raw.rb, slice_slice]
theorem fscale (x0 x1 x2 x3) : Statement (.fscale x0 x1 x2 x3) := by
  intro hw _
  apply decode_encode_of hw
  simp [encodeRaw, decodeRaw, decode7D, Raw.rd, Raw.ra, Raw.rb, slice_slice]
theorem fmin (x0 x1 x2 x3) : Statement (.fmin x0 x1 x2 x3) := by
  intro hw _
  apply decode_encode_of hw
  simp [encodeRaw, decodeRaw_arith, decodeArith, imm5, decodeCvt, fin4, Raw.rd, Raw.ra, Raw.rb, slice_slice]
theorem fmax (x0 x1 x2 x3) : Statement (.fmax x0 x1 x2 x3) := by
  intro hw _
  apply decode_encode_of hw
  simp [encodeRaw, decodeRaw_arith, decodeArith, imm5, decodeCvt, fin4, Raw.rd, Raw.ra, Raw.rb, slice_slice]
theorem fabs (x0 x1 x2) : Statement (.fabs x0 x1 x2) := by
  intro hw _
  apply decode_encode_of hw
  simp [encodeRaw, decodeRaw_arith, decodeArith, imm5, decodeCvt, fin4, Raw.rd, Raw.ra, Raw.rb, slice_slice]
theorem fneg (x0 x1 x2) : Statement (.fneg x0 x1 x2) := by
  intro hw _
  apply decode_encode_of hw
  simp [encodeRaw, decodeRaw_arith, decodeArith, imm5, decodeCvt, fin4, Raw.rd, Raw.ra, Raw.rb, slice_slice]
theorem fcmp (x0 x1 x2 x3 x4) : Statement (.fcmp x0 x1 x2 x3 x4) := by
  intro hw _
  apply decode_encode_of hw
  simp [encodeRaw, decodeRaw_arith, decodeArith, imm5, decodeCvt, fin4, Raw.rd, Raw.ra, Raw.rb, slice_slice]
theorem frint (x0 x1 x2 x3) : Statement (.frint x0 x1 x2 x3) := by
  intro hw _
  apply decode_encode_of hw
  simp [encodeRaw, decodeRaw_arith, decodeArith, imm5, decodeCvt, fin4, Raw.rd, Raw.ra, Raw.rb, slice_slice]
theorem fclass (x0 x1 x2) : Statement (.fclass x0 x1 x2) := by
  intro hw _
  apply decode_encode_of hw
  simp [encodeRaw, decodeRaw, decode7D, Raw.rd, Raw.ra, Raw.rb, slice_slice]
theorem rcp (x0 x1 x2) : Statement (.rcp x0 x1 x2) := by
  intro hw _
  apply decode_encode_of hw
  simp [encodeRaw, decodeRaw, decode7D, Raw.rd, Raw.ra, Raw.rb, slice_slice]
theorem rsq (x0 x1 x2) : Statement (.rsq x0 x1 x2) := by
  intro hw _
  apply decode_encode_of hw
  simp [encodeRaw, decodeRaw, decode7D, Raw.rd, Raw.ra, Raw.rb, slice_slice]
theorem exp2 (x0 x1 x2) : Statement (.exp2 x0 x1 x2) := by
  intro hw _
  apply decode_encode_of hw
  simp [encodeRaw, decodeRaw, decode7D, Raw.rd, Raw.ra, Raw.rb, slice_slice]
theorem log2 (x0 x1 x2) : Statement (.log2 x0 x1 x2) := by
  intro hw _
  apply decode_encode_of hw
  simp [encodeRaw, decodeRaw, decode7D, Raw.rd, Raw.ra, Raw.rb, slice_slice]
theorem sinpi (x0 x1 x2) : Statement (.sinpi x0 x1 x2) := by
  intro hw _
  apply decode_encode_of hw
  simp [encodeRaw, decodeRaw, decode7D, Raw.rd, Raw.ra, Raw.rb, slice_slice]
theorem cospi (x0 x1 x2) : Statement (.cospi x0 x1 x2) := by
  intro hw _
  apply decode_encode_of hw
  simp [encodeRaw, decodeRaw, decode7D, Raw.rd, Raw.ra, Raw.rb, slice_slice]
theorem tanh (x0 x1 x2) : Statement (.tanh x0 x1 x2) := by
  intro hw _
  apply decode_encode_of hw
  simp [encodeRaw, decodeRaw, decode7D, Raw.rd, Raw.ra, Raw.rb, slice_slice]
theorem hadd2 (x0 x1 x2 x3 x4) : Statement (.hadd2 x0 x1 x2 x3 x4) := by
  intro hw _
  apply decode_encode_of hw
  cases x0 <;> simp [encodeRaw, decodeRaw_arith, decodeArith, imm5, decodeCvt, fin4, Raw.rd, Raw.ra, Raw.rb, slice_slice]
theorem hmul2 (x0 x1 x2 x3 x4) : Statement (.hmul2 x0 x1 x2 x3 x4) := by
  intro hw _
  apply decode_encode_of hw
  cases x0 <;> simp [encodeRaw, decodeRaw_arith, decodeArith, imm5, decodeCvt, fin4, Raw.rd, Raw.ra, Raw.rb, slice_slice]
theorem hfma2 (x0 x1 x2 x3 x4) : Statement (.hfma2 x0 x1 x2 x3 x4) := by
  intro hw _
  apply decode_encode_of hw
  cases x0 <;> simp [encodeRaw, decodeRaw_arith, decodeArith, imm5, decodeCvt, fin4, Raw.rd, Raw.ra, Raw.rb, slice_slice]
theorem hmin2 (x0 x1 x2 x3 x4) : Statement (.hmin2 x0 x1 x2 x3 x4) := by
  intro hw _
  apply decode_encode_of hw
  cases x0 <;> simp [encodeRaw, decodeRaw_arith, decodeArith, imm5, decodeCvt, fin4, Raw.rd, Raw.ra, Raw.rb, slice_slice]
theorem hmax2 (x0 x1 x2 x3 x4) : Statement (.hmax2 x0 x1 x2 x3 x4) := by
  intro hw _
  apply decode_encode_of hw
  cases x0 <;> simp [encodeRaw, decodeRaw_arith, decodeArith, imm5, decodeCvt, fin4, Raw.rd, Raw.ra, Raw.rb, slice_slice]
theorem setfpc (x0 x1 x2) : Statement (.setfpc x0 x1 x2) := by
  intro hw _
  apply decode_encode_of hw
  cases x0 <;> cases x1 <;> simp [encodeRaw, decodeRaw, decode7D, RMode.enc, RMode.dec, bit1]
theorem cvt (x0 x1 x2 x3 x4 x5) : Statement (.cvt x0 x1 x2 x3 x4 x5) := by
  intro hw _
  apply decode_encode_of hw
  simp [encodeRaw, decodeRaw_arith, decodeArith, imm5, decodeCvt, fin4, Raw.rd, Raw.ra, Raw.rb, slice_slice]
theorem cvtSat (x0 x1 x2 x3 x4) : Statement (.cvtSat x0 x1 x2 x3 x4) := by
  intro hw _
  apply decode_encode_of hw
  simp [encodeRaw, decodeRaw_arith, decodeArith, imm5, decodeCvt, fin4, Raw.rd, Raw.ra, Raw.rb, slice_slice]
theorem qmx (x0 x1 x2 x3) : Statement (.qmx x0 x1 x2 x3) := by
  intro hw _
  apply decode_encode_of hw
  simp [encodeRaw, decodeRaw_arith, decodeArith, imm5, decodeCvt, fin4, Raw.rd, Raw.ra, Raw.rb, slice_slice]
theorem qdx (x0 x1 x2 x3 x4) : Statement (.qdx x0 x1 x2 x3 x4) := by
  intro hw _
  apply decode_encode_of hw
  simp [encodeRaw, decodeRaw_arith, decodeArith, imm5, decodeCvt, fin4, Raw.rd, Raw.ra, Raw.rb, slice_slice]
theorem dqmx (x0 x1 x2) : Statement (.dqmx x0 x1 x2) := by
  intro hw _
  apply decode_encode_of hw
  simp [encodeRaw, decodeRaw_arith, decodeArith, imm5, decodeCvt, fin4, Raw.rd, Raw.ra, Raw.rb, slice_slice]
theorem dqdx (x0 x1 x2) : Statement (.dqdx x0 x1 x2) := by
  intro hw _
  apply decode_encode_of hw
  simp [encodeRaw, decodeRaw_arith, decodeArith, imm5, decodeCvt, fin4, Raw.rd, Raw.ra, Raw.rb, slice_slice]
theorem plane (x0 x1 x2 x3) : Statement (.plane x0 x1 x2 x3) := by
  intro hw _
  apply decode_encode_of hw
  simp [encodeRaw, decodeRaw_arith, decodeArith, imm5, decodeCvt, fin4, Raw.rd, Raw.ra, Raw.rb, slice_slice]
theorem xlaneG (x0 x1 x2 x3) : Statement (.xlaneG x0 x1 x2 x3) := by
  intro hw _
  apply decode_encode_of hw
  simp [encodeRaw, decodeRaw_arith, decodeArith, imm5, decodeCvt, fin4, Raw.rd, Raw.ra, Raw.rb, slice_slice]
theorem xlaneRot (x0 x1 x2 x3) : Statement (.xlaneRot x0 x1 x2 x3) := by
  intro hw _
  apply decode_encode_of hw
  simp [encodeRaw, decodeRaw_arith, decodeArith, imm5, decodeCvt, fin4, Raw.rd, Raw.ra, Raw.rb, slice_slice]
theorem xlaneX (x0 x1 x2 x3) : Statement (.xlaneX x0 x1 x2 x3) := by
  intro hw _
  apply decode_encode_of hw
  simp [encodeRaw, decodeRaw_arith, decodeArith, imm5, decodeCvt, fin4, Raw.rd, Raw.ra, Raw.rb, slice_slice]
theorem ptest (x0 x1 x2 x3) : Statement (.ptest x0 x1 x2 x3) := by
  intro hw _
  apply decode_encode_of hw
  simp [encodeRaw, decodeRaw_arith, decodeArith, imm5, decodeCvt, fin4, Raw.rd, Raw.ra, Raw.rb, slice_slice]
theorem pmask (x0 x1 x2) : Statement (.pmask x0 x1 x2) := by
  intro hw _
  apply decode_encode_of hw
  simp [encodeRaw, decodeRaw_arith, decodeArith, imm5, decodeCvt, fin4, Raw.rd, Raw.ra, Raw.rb, slice_slice]
theorem lfold (x0 x1 x2 x3) : Statement (.lfold x0 x1 x2 x3) := by
  intro hw _
  apply decode_encode_of hw
  simp [encodeRaw, decodeRaw_arith, decodeArith, imm5, decodeCvt, fin4, Raw.rd, Raw.ra, Raw.rb, slice_slice]
theorem lkey (x0 x1 x2) : Statement (.lkey x0 x1 x2) := by
  intro hw _
  apply decode_encode_of hw
  simp [encodeRaw, decodeRaw_arith, decodeArith, imm5, decodeCvt, fin4, Raw.rd, Raw.ra, Raw.rb, slice_slice]
theorem ld (x0 x1 x2 x3 x4 x5) : Statement (.ld x0 x1 x2 x3 x4 x5) := by
  intro hw _
  apply decode_encode_of hw
  cases x0 <;> simp [Instr.wf, Width.plain] at hw <;>
    simp [encodeRaw, code7, widthIx, decodeRaw_mem, decodeMem, Raw.rd, Raw.ra]
theorem st (x0 x1 x2 x3 x4 x5) : Statement (.st x0 x1 x2 x3 x4 x5) := by
  intro hw _
  apply decode_encode_of hw
  cases x0 <;> simp [Instr.wf, Width.plain] at hw <;>
    simp [encodeRaw, code7, widthIx, decodeRaw_mem, decodeMem, Raw.rd, Raw.ra]
theorem ldB128Signed (x0 x1 x2 x3 x4) : Statement (.ldB128Signed x0 x1 x2 x3 x4) := by
  intro hw _
  apply decode_encode_of hw
  simp [encodeRaw, decodeRaw_mem, decodeMem, decodeMs, Raw.rd, Raw.ra]
theorem stB128 (x0 x1 x2 x3) : Statement (.stB128 x0 x1 x2 x3) := by
  intro hw _
  apply decode_encode_of hw
  simp [encodeRaw, decodeRaw_mem, decodeMem, decodeMs, Raw.rd, Raw.ra]
theorem ldAcq (x0 x1 x2 x3 x4 x5) : Statement (.ldAcq x0 x1 x2 x3 x4 x5) := by
  intro hw _
  apply decode_encode_of hw
  simp [encodeRaw, decodeRaw_mem, decodeMem, decodeMs, Raw.rd, Raw.ra]
theorem stRel (x0 x1 x2 x3 x4 x5) : Statement (.stRel x0 x1 x2 x3 x4 x5) := by
  intro hw _
  apply decode_encode_of hw
  simp [encodeRaw, decodeRaw_mem, decodeMem, decodeMs, Raw.rd, Raw.ra]
theorem ldw (x0 x1 x2 x3 x4) : Statement (.ldw x0 x1 x2 x3 x4) := by
  intro hw _
  apply decode_encode_of hw
  simp [encodeRaw, decodeRaw_mem, decodeMem, Raw.rd, Raw.ra]
theorem lds (x0 x1 x2 x3) : Statement (.lds x0 x1 x2 x3) := by
  intro hw _
  apply decode_encode_of hw
  simp [encodeRaw, decodeRaw_mem, decodeMem, Raw.rd, Raw.ra]
theorem sts (x0 x1 x2 x3) : Statement (.sts x0 x1 x2 x3) := by
  intro hw _
  apply decode_encode_of hw
  simp [encodeRaw, decodeRaw_mem, decodeMem, Raw.rd, Raw.ra]
theorem ldk (x0 x1 x2 x3 x4) : Statement (.ldk x0 x1 x2 x3 x4) := by
  intro hw _
  apply decode_encode_of hw
  simp [encodeRaw, decodeRaw_mem, decodeMem, Raw.rd, Raw.ra]
theorem atomAddS32 (x0 x1 x2 x3) : Statement (.atomAddS32 x0 x1 x2 x3) := by
  intro hw _
  apply decode_encode_of hw
  simp [encodeRaw, decodeRaw_mem, decodeMem, decodeMs, decodeMop, decodeAtom, decodeAtomf, decodeRemote, Raw.rd, Raw.ra, Raw.rb, slice_slice]
theorem atom (x0 x1 x2 x3 x4 x5) : Statement (.atom x0 x1 x2 x3 x4 x5) := by
  intro hw _
  apply decode_encode_of hw
  have hc := x0.code_lt
  have ho := ordCode_lt x1
  have hq : atomJ x0 x1 / 19 = x0.code := by simp only [atomJ]; omega
  have hr : atomJ x0 x1 % 19 = ordCode x1 := by simp only [atomJ]; omega
  have hj : atomJ x0 x1 < 256 := by simp only [atomJ]; omega
  have hd : ∀ r : Raw, r.pg = x2 → r.rd = x3 → r.ra = x4 → decodeAtom (atomJ x0 x1) r [regExt x5] = some (.atom x0 x1 x2 x3 x4 x5) := by
    intro r h1 h2 h3
    simp [decodeAtom, hq, hr, h1, h2, h3]
  by_cases h : atomJ x0 x1 < 128
  · have h1 : atomJ x0 x1 / 128 = 0 := by omega
    have h2 : atomJ x0 x1 % 128 = atomJ x0 x1 := by omega
    simp [encodeRaw, h1, h2, code7, decodeRaw_mem, decodeMem]
    exact hd _ (by simp) (by simp [Raw.rd]) (by simp [Raw.ra])
  · have h1 : atomJ x0 x1 / 128 = 1 := by omega
    have h2 : 128 + atomJ x0 x1 % 128 = atomJ x0 x1 := by omega
    simp [encodeRaw, h1, code7, decodeRaw_mem, decodeMem, h2]
    exact hd _ (by simp) (by simp [Raw.rd]) (by simp [Raw.ra])
theorem atoms (x0 x1 x2 x3 x4) : Statement (.atoms x0 x1 x2 x3 x4) := by
  intro hw _
  apply decode_encode_of hw
  simp [encodeRaw, decodeRaw_mem, decodeMem, Raw.rd, Raw.ra]
theorem atomsBcast (x0 x1 x2 x3 x4 x5) : Statement (.atomsBcast x0 x1 x2 x3 x4 x5) := by
  intro hw _
  apply decode_encode_of hw
  cases x0 <;> cases x1 <;> simp [encodeRaw, decodeRaw_mem, decodeMem, AOp.dec, Raw.rd, Raw.ra]
theorem pf (x0 x1 x2) : Statement (.pf x0 x1 x2) := by
  intro hw _
  apply decode_encode_of hw
  simp [encodeRaw, decodeRaw_mem, decodeMem, decodeMs, decodeMop, decodeAtom, decodeAtomf, decodeRemote, Raw.rd, Raw.ra, Raw.rb, slice_slice]
theorem lease (x0 x1 x2) : Statement (.lease x0 x1 x2) := by
  intro hw _
  apply decode_encode_of hw
  simp [encodeRaw, decodeRaw_mem, decodeMem, decodeMs, decodeMop, decodeAtom, decodeAtomf, decodeRemote, Raw.rd, Raw.ra, Raw.rb, slice_slice]
theorem unlease (x0) : Statement (.unlease x0) := by
  intro hw _
  apply decode_encode_of hw
  simp [encodeRaw, decodeRaw_mem, decodeMem, decodeMs, decodeMop, decodeAtom, decodeAtomf, decodeRemote, Raw.rd, Raw.ra, Raw.rb, slice_slice]
theorem wchk (x0 x1) : Statement (.wchk x0 x1) := by
  intro hw _
  apply decode_encode_of hw
  have hp := x1.isLt
  have hm : ((1 : BitVec 4) ++ bits3 x1 : BitVec 7).toNat = 8 + x1.val := nat_4_3 _ _
  simp only [encodeRaw]
  rw [decodeRaw_mem _ (by simp) (by simp)]
  show decodeMop _ _ = _
  simp only [decodeMop, f3_b, hm]
  rw [if_neg (by omega), if_neg (by omega), if_neg (by omega), if_pos (by omega)]
  simp
theorem waitc (x0 x1 x2 x3 x4) : Statement (.waitc x0 x1 x2 x3 x4) := by
  intro hw _
  apply decode_encode_of hw
  have hc := x0.code_lt
  have hs := x1.code_lt
  have hm : (code7 (0x20 + 6 * x0.code + x1.code)).toNat = 0x20 + 6 * x0.code + x1.code := code7_toNat (by omega)
  have hq : (0x20 + 6 * x0.code + x1.code - 0x20) / 6 = x0.code := by omega
  have hr : (0x20 + 6 * x0.code + x1.code - 0x20) % 6 = x1.code := by omega
  simp only [encodeRaw]
  rw [decodeRaw_mem _ (by simp) (by simp)]
  show decodeMop _ _ = _
  simp only [decodeMop, f3_b, hm]
  rw [if_neg (by omega), if_neg (by omega), if_neg (by omega), if_neg (by omega), if_pos (by omega), hq, hr]
  simp [Raw.rd, Raw.ra]
theorem fence (x0 x1 x2) : Statement (.fence x0 x1 x2) := by
  intro hw _
  apply decode_encode_of hw
  have hc := x0.code_lt
  have hs := x1.code_lt
  have hm : (code7 (0x44 + 6 * x0.code + x1.code)).toNat = 0x44 + 6 * x0.code + x1.code := code7_toNat (by omega)
  have hq : (0x44 + 6 * x0.code + x1.code - 0x44) / 6 = x0.code := by omega
  have hr : (0x44 + 6 * x0.code + x1.code - 0x44) % 6 = x1.code := by omega
  simp only [encodeRaw]
  rw [decodeRaw_mem _ (by simp) (by simp)]
  show decodeMop _ _ = _
  simp only [decodeMop, f3_b, hm]
  rw [if_neg (by omega), if_neg (by omega), if_neg (by omega), if_neg (by omega), if_neg (by omega), if_pos (by omega), hq, hr]
  simp
theorem dqpush (x0 x1 x2 x3) : Statement (.dqpush x0 x1 x2 x3) := by
  intro hw _
  apply decode_encode_of hw
  have hp := x1.isLt
  have hm : ((0xC : BitVec 4) ++ bits3 x1 : BitVec 7).toNat = 0x60 + x1.val := nat_4_3 _ _
  simp only [encodeRaw]
  rw [decodeRaw_mem _ (by simp) (by simp)]
  show decodeMop _ _ = _
  simp only [decodeMop, f3_b, hm]
  rw [if_neg (by omega), if_neg (by omega), if_neg (by omega), if_neg (by omega), if_neg (by omega), if_neg (by omega),
    if_pos (by omega)]
  simp [show (0x60 + x1.val) / 8 = 0xC by omega, Raw.rd, Raw.ra]
theorem dqpop (x0 x1 x2 x3) : Statement (.dqpop x0 x1 x2 x3) := by
  intro hw _
  apply decode_encode_of hw
  have hp := x1.isLt
  have hm : ((0xD : BitVec 4) ++ bits3 x1 : BitVec 7).toNat = 0x68 + x1.val := nat_4_3 _ _
  simp only [encodeRaw]
  rw [decodeRaw_mem _ (by simp) (by simp)]
  show decodeMop _ _ = _
  simp only [decodeMop, f3_b, hm]
  rw [if_neg (by omega), if_neg (by omega), if_neg (by omega), if_neg (by omega), if_neg (by omega), if_neg (by omega),
    if_pos (by omega)]
  simp [show (0x68 + x1.val) / 8 = 0xD by omega, Raw.rd, Raw.ra]
theorem dqsteal (x0 x1 x2 x3) : Statement (.dqsteal x0 x1 x2 x3) := by
  intro hw _
  apply decode_encode_of hw
  have hp := x1.isLt
  have hm : ((0xE : BitVec 4) ++ bits3 x1 : BitVec 7).toNat = 0x70 + x1.val := nat_4_3 _ _
  simp only [encodeRaw]
  rw [decodeRaw_mem _ (by simp) (by simp)]
  show decodeMop _ _ = _
  simp only [decodeMop, f3_b, hm]
  rw [if_neg (by omega), if_neg (by omega), if_neg (by omega), if_neg (by omega), if_neg (by omega), if_neg (by omega),
    if_pos (by omega)]
  simp [show (0x70 + x1.val) / 8 = 0xE by omega, Raw.rd, Raw.ra]
theorem ctradd (x0 x1 x2 x3) : Statement (.ctradd x0 x1 x2 x3) := by
  intro hw _
  apply decode_encode_of hw
  simp [encodeRaw, decodeRaw_mem, decodeMem, decodeMs, decodeMop, decodeAtom, decodeAtomf, decodeRemote, Raw.rd, Raw.ra, Raw.rb, slice_slice]
theorem ctrwait (x0 x1 x2 x3) : Statement (.ctrwait x0 x1 x2 x3) := by
  intro hw _
  apply decode_encode_of hw
  simp [encodeRaw, decodeRaw_mem, decodeMem, decodeMs, decodeMop, decodeAtom, decodeAtomf, decodeRemote, Raw.rd, Raw.ra, Raw.rb, slice_slice]
theorem ldf (x0 x1 x2 x3 x4) : Statement (.ldf x0 x1 x2 x3 x4) := by
  intro hw _
  apply decode_encode_of hw
  cases x0 <;> simp [Instr.wf, Width.upTo64] at hw <;>
    simp [encodeRaw, decodeRaw_mem, decodeMem, decodeRemote, Width.encLt, Width.decLt, Raw.rd]
theorem stf (x0 x1 x2 x3 x4) : Statement (.stf x0 x1 x2 x3 x4) := by
  intro hw _
  apply decode_encode_of hw
  cases x0 <;> simp [Instr.wf, Width.plain] at hw <;>
    simp [encodeRaw, decodeRaw_mem, decodeMem, decodeRemote, widthIx, Raw.rd]
theorem stfUrg (x0 x1 x2 x3 x4) : Statement (.stfUrg x0 x1 x2 x3 x4) := by
  intro hw _
  apply decode_encode_of hw
  cases x0 <;> simp [Instr.wf] at hw <;>
    simp [encodeRaw, decodeRaw_mem, decodeMem, decodeRemote, widthIx, Raw.rd]
theorem fencef (x0 x1 x2 x3) : Statement (.fencef x0 x1 x2 x3) := by
  intro hw _
  apply decode_encode_of hw
  simp [encodeRaw, decodeRaw_mem, decodeMem, decodeMs, decodeMop, decodeAtom, decodeAtomf, decodeRemote, Raw.rd, Raw.ra, Raw.rb, slice_slice]
theorem atomf (x0 x1 x2 x3 x4 x5 x6) : Statement (.atomf x0 x1 x2 x3 x4 x5 x6) := by
  intro hw _
  apply decode_encode_of hw
  have hc := x0.code_lt
  have hd : ∀ r : Raw, r.pg = x2 → r.rd = x3 → r.o6 = x4.enc → r.h5.toNat = x5.val →
      decodeAtomf (atomfJ x0 x1) r [regExt x6] = some (.atomf x0 x1 x2 x3 x4 x5 x6) := by
    intro r h1 h2 h3 h4
    rcases x1 with _ | o
    · have hq : x0.code / 12 = 0 := by omega
      have hr : x0.code % 12 = x0.code := by omega
      simp [decodeAtomf, atomfJ, hq, hr, h1, h2, h3, h4]
    · have ho := o.code_lt
      have hq : (12 * (o.code + 1) + x0.code) / 12 = o.code + 1 := by omega
      have hr : (12 * (o.code + 1) + x0.code) % 12 = x0.code := by omega
      simp [decodeAtomf, atomfJ, hq, hr, h1, h2, h3, h4]
  have hj : atomfJ x0 x1 < 48 := by
    rcases x1 with _ | o
    · simp only [atomfJ]; omega
    · have ho := o.code_lt
      simp only [atomfJ]; omega
  have hk : atomfJ x0 x1 / 8 < 6 := by omega
  have ho : (code7 (0x66 + atomfJ x0 x1 / 8)).toNat = 0x66 + atomfJ x0 x1 / 8 := code7_toNat (by omega)
  have hv : (BitVec.ofNat 3 (atomfJ x0 x1 % 8)).toNat = atomfJ x0 x1 % 8 := by simp
  simp only [encodeRaw]
  rw [decodeRaw_mem _ (by rw [fm_op, ho]; omega) (by rw [fm_op, ho]; omega), decodeMem_atomf _ hk (by rw [fm_op, ho]), fm_v3, hv,
    Nat.div_add_mod]
  exact hd _ (fm_pg ..) (Reg.dec_enc x3) (fm_o6 ..) (fm_h5 ..)
theorem colpost (x0 x1 x2) : Statement (.colpost x0 x1 x2) := by
  intro hw _
  apply decode_encode_of hw
  simp [encodeRaw, decodeRaw, decode7F, Raw.rd, Raw.ra, Raw.rb, slice_slice]
theorem mxacq (x0 x1 x2) : Statement (.mxacq x0 x1 x2) := by
  intro hw _
  apply decode_encode_of hw
  simp [encodeRaw, decodeRaw, decode7E, decodeMx, Raw.rd, Raw.ra, Raw.rb, slice_slice]
theorem mxrel (x0 x1) : Statement (.mxrel x0 x1) := by
  intro hw _
  apply decode_encode_of hw
  simp [encodeRaw, decodeRaw, decode7E, decodeMx, Raw.rd, Raw.ra, Raw.rb, slice_slice]
theorem mxld (x0 x1 x2) : Statement (.mxld x0 x1 x2) := by
  intro hw _
  apply decode_encode_of hw
  simp [encodeRaw, decodeRaw, decode7E, decodeMx, Raw.rd, Raw.ra, Raw.rb, slice_slice]
theorem mxst (x0 x1 x2 x3) : Statement (.mxst x0 x1 x2 x3) := by
  intro hw _
  apply decode_encode_of hw
  cases x0 <;> simp [encodeRaw, decodeRaw, decode7E, decodeMx, code7, MFmt.code, MFmt.dec, Raw.rd, Raw.ra]
theorem mxclr (x0 x1 x2) : Statement (.mxclr x0 x1 x2) := by
  intro hw _
  apply decode_encode_of hw
  simp [encodeRaw, decodeRaw, decode7E, decodeMx, Raw.rd, Raw.ra, Raw.rb, slice_slice]
theorem sqwait (x0 x1) : Statement (.sqwait x0 x1) := by
  intro hw _
  apply decode_encode_of hw
  simp [encodeRaw, decodeRaw, decode7E, decodeMx, Raw.rd, Raw.ra, Raw.rb, slice_slice]
theorem gath (x0 x1 x2 x3) : Statement (.gath x0 x1 x2 x3) := by
  intro hw _
  apply decode_encode_of hw
  simp [encodeRaw, decodeRaw, decode7E, decodeMx, Raw.rd, Raw.ra, Raw.rb, slice_slice]
theorem cpy (x0 x1 x2 x3 x4 x5) : Statement (.cpy x0 x1 x2 x3 x4 x5) := by
  intro hw _
  apply decode_encode_of hw
  cases x0 <;> cases x1 <;> simp [encodeRaw, decodeRaw, decode7E, code7, CpyT.code, CpyT.dec, Raw.rd, Raw.ra]
theorem mxmon (x0 x1 x2) : Statement (.mxmon x0 x1 x2) := by
  intro hw _
  apply decode_encode_of hw
  have hp := x2.isLt
  have hm : (code7 (0x18 + x2.val)).toNat = 0x18 + x2.val := code7_toNat (by omega)
  have hb : ∀ p : Fin 8, fin8 ((code7 (0x18 + p.val)).extractLsb' 0 3) = p := by decide
  rw [show encodeRaw (.mxmon x0 x1 x2) = (f3 0x7E x0 x1.enc 0 (code7 (0x18 + x2.val)), []) from rfl, decodeRaw_7E _ rfl]
  simp only [decode7E, f3_b, hm]
  rw [if_neg (by omega), if_neg (by omega), if_pos (by omega), hb]
  simp [Raw.rd]
theorem vwr (x0 x1 x2 x3) : Statement (.vwr x0 x1 x2 x3) := by
  intro hw _
  apply decode_encode_of hw
  have hp := x3.isLt
  have hm : (code7 (0x20 + x3.val)).toNat = 0x20 + x3.val := code7_toNat (by omega)
  have hq : (0x20 + x3.val - 0x20) / 24 = 0 := by omega
  have hr : (0x20 + x3.val - 0x20) % 24 = x3.val := by omega
  rw [show encodeRaw (.vwr x0 x1 x2 x3) = (f3 0x7E x0 x1.enc x2.enc (code7 (0x20 + x3.val)), []) from rfl, decodeRaw_7E _ rfl]
  simp only [decode7E, f3_b, hm]
  rw [if_neg (by omega), if_neg (by omega), if_neg (by omega), if_pos (by omega)]
  simp only [decodeVec, hq, hr]
  simp [Raw.rd, Raw.ra]
theorem vrd (x0 x1 x2 x3) : Statement (.vrd x0 x1 x2 x3) := by
  intro hw _
  apply decode_encode_of hw
  have hp := x3.isLt
  have hm : (code7 (0x38 + x3.val)).toNat = 0x38 + x3.val := code7_toNat (by omega)
  have hq : (0x38 + x3.val - 0x20) / 24 = 1 := by omega
  have hr : (0x38 + x3.val - 0x20) % 24 = x3.val := by omega
  rw [show encodeRaw (.vrd x0 x1 x2 x3) = (f3 0x7E x0 x1.enc x2.enc (code7 (0x38 + x3.val)), []) from rfl, decodeRaw_7E _ rfl]
  simp only [decode7E, f3_b, hm]
  rw [if_neg (by omega), if_neg (by omega), if_neg (by omega), if_pos (by omega)]
  simp only [decodeVec, hq, hr]
  simp [Raw.rd, Raw.ra]
theorem mma (x0 x1 x2 x3 x4) : Statement (.mma x0 x1 x2 x3 x4) := by
  intro hw _
  apply decode_encode_of hw
  have hp := x3.isLt
  have hm : (code7 (0x50 + x3.val)).toNat = 0x50 + x3.val := code7_toNat (by omega)
  have hq : (0x50 + x3.val - 0x50) / 12 = 0 := by omega
  have hr : (0x50 + x3.val - 0x50) % 12 = x3.val := by omega
  rw [show encodeRaw (.mma x0 x1 x2 x3 x4) = (f3 0x7E x0 x1.enc x2.enc (code7 (0x50 + x3.val)), [x4]) from rfl, decodeRaw_7E _ rfl]
  simp only [decode7E, f3_b, hm]
  rw [if_neg (by omega), if_neg (by omega), if_neg (by omega), if_neg (by omega)]
  simp only [decodeMma, hq, hr]
  simp [Raw.rd, Raw.ra]
theorem mmaSp (x0 x1 x2 x3 x4) : Statement (.mmaSp x0 x1 x2 x3 x4) := by
  intro hw _
  apply decode_encode_of hw
  have hp := x3.isLt
  have hm : (code7 (0x5C + x3.val)).toNat = 0x5C + x3.val := code7_toNat (by omega)
  have hq : (0x5C + x3.val - 0x50) / 12 = 1 := by omega
  have hr : (0x5C + x3.val - 0x50) % 12 = x3.val := by omega
  rw [show encodeRaw (.mmaSp x0 x1 x2 x3 x4) = (f3 0x7E x0 x1.enc x2.enc (code7 (0x5C + x3.val)), [x4]) from rfl, decodeRaw_7E _ rfl]
  simp only [decode7E, f3_b, hm]
  rw [if_neg (by omega), if_neg (by omega), if_neg (by omega), if_neg (by omega)]
  simp only [decodeMma, hq, hr]
  simp [Raw.rd, Raw.ra]
theorem mmaOl (x0 x1 x2 x3 x4 x5) : Statement (.mmaOl x0 x1 x2 x3 x4 x5) := by
  intro hw _
  apply decode_encode_of hw
  have hp := x3.isLt
  have hm : (code7 (0x68 + x3.val)).toNat = 0x68 + x3.val := code7_toNat (by omega)
  have hq : (0x68 + x3.val - 0x50) / 12 = 2 := by omega
  have hr : (0x68 + x3.val - 0x50) % 12 = x3.val := by omega
  rw [show encodeRaw (.mmaOl x0 x1 x2 x3 x4 x5) = (f3 0x7E x0 x1.enc x2.enc (code7 (0x68 + x3.val)), [x4, regExt x5]) from rfl, decodeRaw_7E _ rfl]
  simp only [decode7E, f3_b, hm]
  rw [if_neg (by omega), if_neg (by omega), if_neg (by omega), if_neg (by omega)]
  simp only [decodeMma, hq, hr]
  simp [Raw.rd, Raw.ra]
theorem mmaSpOl (x0 x1 x2 x3 x4 x5) : Statement (.mmaSpOl x0 x1 x2 x3 x4 x5) := by
  intro hw _
  apply decode_encode_of hw
  have hp := x3.isLt
  have hm : (code7 (0x74 + x3.val)).toNat = 0x74 + x3.val := code7_toNat (by omega)
  have hq : (0x74 + x3.val - 0x50) / 12 = 3 := by omega
  have hr : (0x74 + x3.val - 0x50) % 12 = x3.val := by omega
  rw [show encodeRaw (.mmaSpOl x0 x1 x2 x3 x4 x5) = (f3 0x7E x0 x1.enc x2.enc (code7 (0x74 + x3.val)), [x4, regExt x5]) from rfl, decodeRaw_7E _ rfl]
  simp only [decode7E, f3_b, hm]
  rw [if_neg (by omega), if_neg (by omega), if_neg (by omega), if_neg (by omega)]
  simp only [decodeMma, hq, hr]
  simp [Raw.rd, Raw.ra]
theorem brk (x0) : Statement (.brk x0) := by
  intro hw _
  apply decode_encode_of hw
  simp [encodeRaw, decodeRaw, decode7F, Raw.rd, Raw.ra, Raw.rb, slice_slice]
theorem tick (x0 x1) : Statement (.tick x0 x1) := by
  intro hw _
  apply decode_encode_of hw
  simp [encodeRaw, decodeRaw, decode7F, Raw.rd, Raw.ra, Raw.rb, slice_slice]
theorem stallCountExpiry (x0 x1) : Statement (.stallCountExpiry x0 x1) := Events.no_word rfl
theorem splitPark (x0 x1) : Statement (.splitPark x0 x1) := Events.no_word rfl
theorem monitorRegistration (x0) : Statement (.monitorRegistration x0) := Events.no_word rfl
theorem monitorRetry (x0) : Statement (.monitorRetry x0) := Events.no_word rfl
theorem copyLanded (x0 x1) : Statement (.copyLanded x0 x1) := Events.no_word rfl
theorem commandStart (x0 x1) : Statement (.commandStart x0 x1) := Events.no_word rfl
theorem commandComplete (x0 x1) : Statement (.commandComplete x0 x1) := Events.no_word rfl
theorem confirm (x0) : Statement (.confirm x0) := Events.no_word rfl
theorem watchVerdict (x0 x1) : Statement (.watchVerdict x0 x1) := Events.no_word rfl
theorem watchTimeout (x0) : Statement (.watchTimeout x0) := Events.no_word rfl
theorem leaseExpiry (x0) : Statement (.leaseExpiry x0) := Events.no_word rfl
theorem getS (x0 x1 x2) : Statement (.getS x0 x1 x2) := Events.no_word rfl
theorem getM (x0 x1 x2) : Statement (.getM x0 x1 x2) := Events.no_word rfl
theorem upg (x0 x1 x2) : Statement (.upg x0 x1 x2) := Events.no_word rfl
theorem putM (x0 x1 x2 x3 x4 x5) : Statement (.putM x0 x1 x2 x3 x4 x5) := Events.no_word rfl
theorem putC (x0 x1 x2) : Statement (.putC x0 x1 x2) := Events.no_word rfl
theorem inv (x0 x1 x2) : Statement (.inv x0 x1 x2) := Events.no_word rfl
theorem fwdS (x0 x1 x2) : Statement (.fwdS x0 x1 x2) := Events.no_word rfl
theorem fwdM (x0 x1 x2) : Statement (.fwdM x0 x1 x2) := Events.no_word rfl
theorem data (x0 x1 x2 x3 x4 x5 x6) : Statement (.data x0 x1 x2 x3 x4 x5 x6) := Events.no_word rfl
theorem grant (x0 x1 x2 x3 x4) : Statement (.grant x0 x1 x2 x3 x4) := Events.no_word rfl
theorem invAck (x0 x1 x2) : Statement (.invAck x0 x1 x2) := Events.no_word rfl
theorem snpData (x0 x1 x2 x3 x4) : Statement (.snpData x0 x1 x2 x3 x4) := Events.no_word rfl
theorem wback (x0 x1 x2) : Statement (.wback x0 x1 x2) := Events.no_word rfl
theorem wbstale (x0 x1 x2) : Statement (.wbstale x0 x1 x2) := Events.no_word rfl
theorem abort (x0 x1 x2) : Statement (.abort x0 x1 x2) := Events.no_word rfl
theorem wr (x0 x1) : Statement (.wr x0 x1) := Events.no_word rfl
theorem rdreq (x0 x1) : Statement (.rdreq x0 x1) := Events.no_word rfl
theorem rdrsp (x0 x1) : Statement (.rdrsp x0 x1) := Events.no_word rfl
theorem atomPacket (x0 x1) : Statement (.atomPacket x0 x1) := Events.no_word rfl
theorem atomrsp (x0 x1) : Statement (.atomrsp x0 x1) := Events.no_word rfl
theorem ack (x0 x1) : Statement (.ack x0 x1) := Events.no_word rfl
theorem close (x0 x1) : Statement (.close x0 x1) := Events.no_word rfl
theorem closeack (x0 x1) : Statement (.closeack x0 x1) := Events.no_word rfl
theorem coltrig (x0 x1) : Statement (.coltrig x0 x1) := Events.no_word rfl
theorem expred (x0 x1) : Statement (.expred x0 x1) := Events.no_word rfl
theorem reddata (x0 x1) : Statement (.reddata x0 x1) := Events.no_word rfl
theorem linkDown (x0) : Statement (.linkDown x0) := Events.no_word rfl
theorem acknowledgementTimeoutExpiry (x0 x1 x2) : Statement (.acknowledgementTimeoutExpiry x0 x1 x2) := Events.no_word rfl
theorem flowIdleClose (x0 x1 x2) : Statement (.flowIdleClose x0 x1 x2) := Events.no_word rfl
theorem closeResend (x0 x1 x2) : Statement (.closeResend x0 x1 x2) := Events.no_word rfl
theorem packetLifetimeExpiry (x0 x1) : Statement (.packetLifetimeExpiry x0 x1) := Events.no_word rfl
theorem entryFire (x0 x1) : Statement (.entryFire x0 x1) := Events.no_word rfl
theorem localCompletion (x0 x1) : Statement (.localCompletion x0 x1) := Events.no_word rfl
theorem remoteCompletion (x0 x1) : Statement (.remoteCompletion x0 x1) := Events.no_word rfl
theorem nodeComplete (x0 x1) : Statement (.nodeComplete x0 x1) := Events.no_word rfl
theorem gangPlacement : Statement .gangPlacement := Events.no_word rfl
theorem ageIntervalExpiry (x0) : Statement (.ageIntervalExpiry x0) := Events.no_word rfl
theorem drainEscalation (x0) : Statement (.drainEscalation x0) := Events.no_word rfl
theorem pagerTimeoutExpiry (x0) : Statement (.pagerTimeoutExpiry x0) := Events.no_word rfl
theorem illegal (x0) : Statement (.illegal x0) := Events.no_word rfl
theorem flitPosition (x0) : Statement (.flitPosition x0) := Events.no_word rfl
theorem map (x0 x1 x2 x3 x4 x5 x6 x7) : Statement (.map x0 x1 x2 x3 x4 x5 x6 x7) := Events.no_word rfl
theorem unmap (x0 x1 x2) : Statement (.unmap x0 x1 x2) := Events.no_word rfl
theorem protect (x0 x1 x2 x3 x4 x5) : Statement (.protect x0 x1 x2 x3 x4 x5) := Events.no_word rfl
theorem setmode (x0 x1 x2 x3) : Statement (.setmode x0 x1 x2 x3) := Events.no_word rfl
theorem migrate (x0 x1 x2) : Statement (.migrate x0 x1 x2) := Events.no_word rfl
theorem regpager (x0 x1 x2 x3) : Statement (.regpager x0 x1 x2 x3) := Events.no_word rfl
theorem supply (x0 x1 x2 x3) : Statement (.supply x0 x1 x2 x3) := Events.no_word rfl
theorem capset (x0 x1 x2) : Statement (.capset x0 x1 x2) := Events.no_word rfl
theorem caprevoke (x0 x1) : Statement (.caprevoke x0 x1) := Events.no_word rfl
theorem capallow (x0 x1 x2) : Statement (.capallow x0 x1 x2) := Events.no_word rfl
theorem pin (x0 x1 x2) : Statement (.pin x0 x1 x2) := Events.no_word rfl
theorem unpin (x0 x1 x2) : Statement (.unpin x0 x1 x2) := Events.no_word rfl
theorem qpalloc (x0) : Statement (.qpalloc x0) := Events.no_word rfl
theorem qpreset (x0 x1) : Statement (.qpreset x0 x1) := Events.no_word rfl
theorem qpfree (x0 x1) : Statement (.qpfree x0 x1) := Events.no_word rfl
theorem chunkset (x0 x1) : Statement (.chunkset x0 x1) := Events.no_word rfl
theorem mapexec (x0 x1 x2 x3) : Statement (.mapexec x0 x1 x2 x3) := Events.no_word rfl
theorem scrubPass (x0) : Statement (.scrubPass x0) := Events.no_word rfl
theorem spareLaneRemap (x0 x1 x2) : Statement (.spareLaneRemap x0 x1 x2) := Events.no_word rfl
theorem errorCounterClear (x0 x1) : Statement (.errorCounterClear x0 x1) := Events.no_word rfl
theorem powerOn (x0 x1 x2 x3 x4) : Statement (.powerOn x0 x1 x2 x3 x4) := Events.no_word rfl
theorem powerRemoved : Statement .powerRemoved := Events.no_word rfl
theorem thermalTrip (x0) : Statement (.thermalTrip x0) := Events.no_word rfl
theorem thermalDutyStep (x0) : Statement (.thermalDutyStep x0) := Events.no_word rfl
theorem operatorCap (x0) : Statement (.operatorCap x0) := Events.no_word rfl
theorem attestationReport (x0) : Statement (.attestationReport x0) := Events.no_word rfl
theorem telemetryBlock (x0 x1) : Statement (.telemetryBlock x0 x1) := Events.no_word rfl
theorem malformedHeaderOrFlit (x0 x1) : Statement (.malformedHeaderOrFlit x0 x1) := Events.no_word rfl
theorem linkRetraining (x0) : Statement (.linkRetraining x0) := Events.no_word rfl
theorem standardTransport (x0) : Statement (.standardTransport x0) := Events.no_word rfl
theorem processorTimeQuota (x0) : Statement (.processorTimeQuota x0) := Events.no_word rfl
theorem load (x0 x1 x2 x3) : Statement (.load x0 x1 x2 x3) := Events.no_word rfl
theorem unload (x0 x1) : Statement (.unload x0 x1) := Events.no_word rfl
theorem post (x0 x1 x2) : Statement (.post x0 x1 x2) := Events.no_word rfl
theorem cancel (x0 x1 x2 x3) : Statement (.cancel x0 x1 x2 x3) := Events.no_word rfl
theorem drain (x0 x1) : Statement (.drain x0 x1) := Events.no_word rfl
theorem undrain (x0 x1) : Statement (.undrain x0 x1) := Events.no_word rfl
theorem resume (x0 x1) : Statement (.resume x0 x1) := Events.no_word rfl
theorem done (x0 x1 x2) : Statement (.done x0 x1 x2) := Events.no_word rfl
theorem sync (x0) : Statement (.sync x0) := Events.no_word rfl
theorem routeTableEntry (x0 x1 x2) : Statement (.routeTableEntry x0 x1 x2) := Events.no_word rfl
theorem stationArbitrationRegister (x0 x1 x2) : Statement (.stationArbitrationRegister x0 x1 x2) := Events.no_word rfl
theorem stationReEnable (x0 x1 x2) : Statement (.stationReEnable x0 x1 x2) := Events.no_word rfl
theorem acknowledgementTimeout (x0 x1 x2) : Statement (.acknowledgementTimeout x0 x1 x2) := Events.no_word rfl
theorem rollbackRetries (x0 x1 x2) : Statement (.rollbackRetries x0 x1 x2) := Events.no_word rfl
theorem undoLogSize (x0 x1 x2) : Statement (.undoLogSize x0 x1 x2) := Events.no_word rfl
theorem scrubInterval (x0 x1 x2) : Statement (.scrubInterval x0 x1 x2) := Events.no_word rfl
theorem pagerTimeout (x0 x1 x2) : Statement (.pagerTimeout x0 x1 x2) := Events.no_word rfl
theorem defaultDrainInterval (x0 x1 x2) : Statement (.defaultDrainInterval x0 x1 x2) := Events.no_word rfl
theorem capabilityTableSize (x0 x1 x2) : Statement (.capabilityTableSize x0 x1 x2) := Events.no_word rfl
theorem antiRollbackFloorRaise (x0 x1 x2) : Statement (.antiRollbackFloorRaise x0 x1 x2) := Events.no_word rfl

end Sys2Proof.Laws.Encodes
end

