-- ==== Sys2Proof/Tests/Slice0.lean ====
section
/-!
SUPPORT. The tests: ill-formed terms that WellFormed refuses, words written out from the fields of chapter 13, one-step tests with
results worked out from the rules, litmus verdicts of chapter 7, and a witness for the hypotheses of each obligation.
-/
namespace Sys2Proof.Tests
open Sys2Proof Sys2Proof.Machine Sys2Proof.Spec

set_option Elab.async false

/-! ## Guards and words -/

/-- p0: every active lane. -/
def g0 : Guard := { neg := false, p := 0 }
/-- p1. -/
def g1 : Guard := { neg := false, p := 1 }
/-- !p2. -/
def gn2 : Guard := { neg := true, p := 2 }

/-- A word of R198 in three registers: op[31:25] pg[24:21] d[20:14] a[13:7] b[6:0]. A register field is n for v, 96 + n for k and
120 + n for g (R16). -/
def f3 (op pg d a b : Nat) : Word := BitVec.ofNat 32 (op * 2 ^ 25 + pg * 2 ^ 21 + d * 2 ^ 14 + a * 2 ^ 7 + b)
/-- A word of format FW, FB, FK or FG, whose low bits are one number. -/
def fw (op pg low : Nat) : Word := BitVec.ofNat 32 (op * 2 ^ 25 + pg * 2 ^ 21 + low)
/-- A word of format FM (R198): d[20:14] O6[13:8] H5[7:3] V3[2:0]. -/
def fm (op pg d o h v : Nat) : Word := BitVec.ofNat 32 (op * 2 ^ 25 + pg * 2 ^ 21 + d * 2 ^ 14 + o * 2 ^ 8 + h * 2 ^ 3 + v)

/-- Each word is read as its instruction, and is that instruction's encoding. -/
def reads (ws : List (Word × List Word × Instr)) : Bool :=
  ws.all fun w => decode w.1 w.2.1 == some w.2.2 && encode w.2.2 == (w.1, w.2.1)

/-! ## Encodings of chapter 13 (R203 to R212), every instruction in turn -/

theorem test_words_integer : reads [
    (f3 0x01 0 3 1 2, [], .iadd g0 (.v 3) (.v 1) (.v 2)), (f3 0x02 10 95 96 119, [], .isub gn2 (.v 95) (.k 0) (.k 23)),
    (f3 0x03 0 113 113 0x7F, [], .iaddi g0 (.k 17) (.k 17) (-1)), (f3 0x04 1 3 1 2, [], .imul g1 (.v 3) (.v 1) (.v 2)),
    (f3 0x05 0 3 120 127, [], .imad g0 (.v 3) (.g 0) (.g 7)), (f3 0x06 0 3 1 2, [], .imulhi true g0 (.v 3) (.v 1) (.v 2)),
    (f3 0x07 0 3 1 2, [], .imulhi false g0 (.v 3) (.v 1) (.v 2)), (f3 0x08 0 3 1 2, [], .and g0 (.v 3) (.v 1) (.v 2)),
    (f3 0x09 0 3 1 2, [], .or g0 (.v 3) (.v 1) (.v 2)), (f3 0x0A 0 3 1 2, [], .xor g0 (.v 3) (.v 1) (.v 2)),
    (f3 0x0B 0 3 1 2, [], .andn g0 (.v 3) (.v 1) (.v 2)), (f3 0x0C 0 3 1 2, [], .shl g0 (.v 3) (.v 1) (.v 2)),
    (f3 0x0D 0 3 1 2, [], .shr g0 (.v 3) (.v 1) (.v 2)), (f3 0x0E 0 3 1 2, [], .sar g0 (.v 3) (.v 1) (.v 2)),
    (f3 0x0F 0 4 4 2, [], .shli g0 (.v 4) (.v 4) 2), (f3 0x10 0 4 4 31, [], .shri g0 (.v 4) (.v 4) 31),
    (f3 0x11 0 4 4 0, [], .sari g0 (.v 4) (.v 4) 0), (f3 0x12 3 1 2 3, [], .sel { neg := false, p := 3 } (.v 1) (.v 2) (.v 3)),
    (f3 0x13 0 1 2 0, [], .mov g0 (.v 1) (.v 2)), (fw 0x14 0 (6 * 2 ^ 14 + 0x3FFF), [], .movi g0 (.v 6) (-1)),
    (BitVec.ofNat 32 (0x15 * 2 ^ 25 + 6 * 2 ^ 18 + 5), [], .movh (.v 6) 5),
    (f3 0x16 0 (2 * 8 + 2) 1 3, [], .icmp .lt true g0 2 (.v 1) (.v 3)), (f3 0x16 1 (13 * 8 + 1) 4 100, [], .icmp .ge false g1 1 (.v 4) (.k 4)),
    (f3 0x17 0 (1 * 8 + 7) 1 0x7E, [], .icmpi .ne true g0 7 (.v 1) (-2)), (f3 0x18 0 3 1 2, [], .imin true g0 (.v 3) (.v 1) (.v 2)),
    (f3 0x19 0 3 1 2, [], .imin false g0 (.v 3) (.v 1) (.v 2)), (f3 0x1A 0 3 1 2, [], .imax true g0 (.v 3) (.v 1) (.v 2)),
    (f3 0x1B 0 3 1 2, [], .imax false g0 (.v 3) (.v 1) (.v 2)), (f3 0x1C 0 98 96 4, [], .add64 g0 (.k 2) (.k 0) (.v 4)),
    (f3 0x1D 0 2 4 6, [], .sub64 g0 (.v 2) (.v 4) (.v 6)), (f3 0x1E 0 2 4 3, [], .lea g0 (.v 2) (.v 4) 3),
    (f3 0x7C 0 1 2 0, [3], .iaddSat true g0 (.v 1) (.v 2) (.v 3)), (f3 0x7C 0 1 2 1, [3], .iaddSat false g0 (.v 1) (.v 2) (.v 3)),
    (f3 0x7C 0 1 2 2, [3], .isubSat true g0 (.v 1) (.v 2) (.v 3)), (f3 0x7C 0 1 2 3, [3], .isubSat false g0 (.v 1) (.v 2) (.v 3)),
    (f3 0x7C 0 1 2 4, [3], .idiv true g0 (.v 1) (.v 2) (.v 3)), (f3 0x7C 0 1 2 5, [3], .idiv false g0 (.v 1) (.v 2) (.v 3)),
    (f3 0x7C 0 1 2 6, [3], .irem true g0 (.v 1) (.v 2) (.v 3)), (f3 0x7C 0 1 2 7, [3], .irem false g0 (.v 1) (.v 2) (.v 3)),
    (f3 0x7C 0 4 1 8, [2], .imulw true g0 (.v 4) (.v 1) (.v 2)), (f3 0x7C 0 4 1 9, [98], .imulw false g0 (.v 4) (.v 1) (.k 2)),
    (f3 0x7C 0 1 2 0x0A, [], .iabs g0 (.v 1) (.v 2)), (f3 0x7C 0 1 2 0x0B, [], .ineg g0 (.v 1) (.v 2)),
    (f3 0x7C 0 1 2 0x0C, [], .not g0 (.v 1) (.v 2)), (f3 0x7C 0 1 2 0x0D, [], .popc g0 (.v 1) (.v 2)),
    (f3 0x7C 0 1 2 0x0E, [], .clz g0 (.v 1) (.v 2)), (f3 0x7C 0 1 2 0x0F, [], .ctz g0 (.v 1) (.v 2)),
    (f3 0x7C 0 1 2 0x10, [], .brev g0 (.v 1) (.v 2)), (f3 0x7C 0 1 2 0x11, [3], .bfx true g0 (.v 1) (.v 2) (.v 3)),
    (f3 0x7C 0 1 2 0x12, [3], .bfx false g0 (.v 1) (.v 2) (.v 3)), (f3 0x7C 0 1 2 0x13, [3], .bfi g0 (.v 1) (.v 2) (.v 3)),
    (f3 0x7C 0 1 2 0x14, [3], .bmix g0 (.v 1) (.v 2) (.v 3)), (f3 0x7C 0 2 4 0x15, [3], .shl64 g0 (.v 2) (.v 4) (.v 3)),
    (f3 0x7C 0 2 4 0x16, [3], .shr64 g0 (.v 2) (.v 4) (.v 3)), (fw 0x76 0 (4 * 2 ^ 14 + 0x1B), [], .movs g0 (.v 4) 0x1B)] = true := by
  decide +kernel

theorem test_words_control : reads [
    (fw 0x6C 0 9, [], .bra g0 9), (fw 0x6C 1 0x1FFFF8, [], .bra g1 (-8)), (f3 0x6D 0 1 1 4, [0x100], .brx g0 (.v 1) 132 0x100),
    (fw 0x6E 0 0x100000, [], .call g0 0x100000), (fw 0x6F 0 13, [], .joinat 13), (fw 0x70 0 0, [], .ret g0), (fw 0x71 1 0, [], .exit g1),
    (fw 0x72 0 0xBEEF, [], .trap g0 0xBEEF), (fw 0x73 0 0, [], .eret g0), (fw 0x73 0 1, [], .yield g0), (fw 0x73 0 2, [], .nop g0),
    (fw 0x73 0 0x1F, [], .winb g0 15), (0xE8210508, [], .rgn (.v 8) 16 (.v 40) 8), (0xEA001A2B, [], .sigchk 0x1A2B),
    (f3 0x77 0 0 98 99, [], .barArv g0 (.k 2) (.k 3)), (f3 0x77 0 1 98 0, [], .barWait g0 (.k 2)),
    (f3 0x77 0 2 98 99, [], .barSync g0 (.k 2) (.k 3)), (f3 0x78 0 121 104 0, [], .gbind g0 1 (.k 8)),
    (f3 0x78 0 4 125 1, [], .gstat g0 4 5), (f3 0x78 0 0 96 2, [], .rgdone g0 (.k 0)),
    (fw 0x79 0 (2 * 2 ^ 18 + 1 * 2 ^ 16 + 0xFFFB), [], .gloop g0 2 1 (-5)), (fw 0x7A 0 (96 * 2 ^ 14 + 1), [], .rgwait g0 (.k 0) 1),
    (f3 0x7B 0 106 108 110, [0x40], .cpyY g0 (.k 10) (.k 12) (.k 14) 0x40)] = true := by decide +kernel

theorem test_words_float : reads [
    (f3 0x20 0 3 1 2, [], .fadd g0 (.v 3) (.v 1) (.v 2)), (f3 0x21 0 3 1 2, [], .fsub g0 (.v 3) (.v 1) (.v 2)),
    (f3 0x22 0 3 1 2, [], .fmul g0 (.v 3) (.v 1) (.v 2)), (f3 0x23 0 3 1 2, [], .ffma g0 (.v 3) (.v 1) (.v 2)),
    (f3 0x24 0 3 1 2, [], .fmin g0 (.v 3) (.v 1) (.v 2)), (f3 0x25 0 3 1 2, [], .fmax g0 (.v 3) (.v 1) (.v 2)),
    (f3 0x26 0 (9 * 8 + 3) 1 2, [], .fcmp .une g0 3 (.v 1) (.v 2)), (f3 0x26 0 (6 * 8 + 3) 1 2, [], .fcmp .ord g0 3 (.v 1) (.v 2)),
    (f3 0x27 0 3 1 0, [], .frint none g0 (.v 3) (.v 1)), (f3 0x27 0 3 1 4, [], .frint (some .rup) g0 (.v 3) (.v 1)),
    (f3 0x28 0 3 1 0, [], .fabs g0 (.v 3) (.v 1)), (f3 0x29 0 3 1 0, [], .fneg g0 (.v 3) (.v 1)),
    (f3 0x2A 0 3 1 2, [], .hadd2 false g0 (.v 3) (.v 1) (.v 2)), (f3 0x2B 0 3 1 2, [], .hadd2 true g0 (.v 3) (.v 1) (.v 2)),
    (f3 0x2C 0 3 1 2, [], .hmul2 false g0 (.v 3) (.v 1) (.v 2)), (f3 0x2F 0 3 1 2, [], .hfma2 true g0 (.v 3) (.v 1) (.v 2)),
    (f3 0x30 0 3 1 2, [], .hmin2 false g0 (.v 3) (.v 1) (.v 2)), (f3 0x33 0 3 1 2, [], .hmax2 true g0 (.v 3) (.v 1) (.v 2)),
    (f3 0x34 0 3 1 2, [], .fdiv g0 (.v 3) (.v 1) (.v 2)), (f3 0x38 0 3 1 (1 * 32 + 7), [], .cvt false .bf16 1 g0 (.v 3) (.v 1)),
    (f3 0x38 0 3 1 (3 * 32 + 16 + 9), [], .cvt true .e5m2 3 g0 (.v 3) (.v 1)), (f3 0x39 0 3 1 4, [], .cvtSat .s8 0 g0 (.v 3) (.v 1)),
    (f3 0x3A 0 3 1 5, [], .qmx g0 (.v 3) (.v 1) 5), (f3 0x3B 0 3 1 (7 * 8 + 5), [], .qdx g0 (.v 3) (.v 1) 5 7),
    (f3 0x3C 0 3 1 0, [], .dqmx g0 (.v 3) (.v 1)), (f3 0x3D 0 3 1 0, [], .dqdx g0 (.v 3) (.v 1)),
    (f3 0x3E 0 3 1 31, [], .plane g0 (.v 3) (.v 1) 31), (f3 0x40 0 3 1 2, [], .xlaneG g0 (.v 3) (.v 1) (.v 2)),
    (f3 0x41 0 3 1 2, [], .xlaneRot g0 (.v 3) (.v 1) (.v 2)), (f3 0x42 0 3 1 2, [], .xlaneX g0 (.v 3) (.v 1) (.v 2)),
    (f3 0x44 0 5 6 3, [], .ptest .odd g0 5 6), (f3 0x45 0 3 6 0, [], .pmask g0 (.v 3) 6),
    (f3 0x47 0 99 1 4, [], .lfold .maxN g0 (.k 3) (.v 1)), (f3 0x48 0 3 1 0, [], .lkey g0 (.v 3) (.v 1)),
    (f3 0x7D 0 3 1 0, [], .sqrt g0 (.v 3) (.v 1)), (f3 0x7D 0 3 1 1, [], .rcp g0 (.v 3) (.v 1)), (f3 0x7D 0 3 1 2, [], .rsq g0 (.v 3) (.v 1)),
    (f3 0x7D 0 3 1 3, [], .exp2 g0 (.v 3) (.v 1)), (f3 0x7D 0 3 1 4, [], .log2 g0 (.v 3) (.v 1)),
    (f3 0x7D 0 3 1 5, [], .sinpi g0 (.v 3) (.v 1)), (f3 0x7D 0 3 1 6, [], .cospi g0 (.v 3) (.v 1)),
    (f3 0x7D 0 3 1 7, [], .tanh g0 (.v 3) (.v 1)), (f3 0x7D 0 3 1 8, [], .fclass g0 (.v 3) (.v 1)),
    (f3 0x7D 0 3 1 9, [2], .fscale g0 (.v 3) (.v 1) (.v 2)), (f3 0x7D 0 0 0 0x13, [], .setfpc .rz true g0)] = true := by decide +kernel

theorem test_words_memory : reads [
    (f3 0x50 0 1 2 0x7F, [], .ld .b8 g0 (.v 1) (.v 2) 0x7F none), (f3 0x53 0 2 96 0, [0x1000], .ld .b64 g0 (.v 2) (.k 0) 0 (some 0x1000)),
    (f3 0x52 0 1 121 0, [], .ld .b32 g0 (.v 1) (.g 1) 0 none), (f3 0x56 0 1 2 3, [], .st .b32 g0 (.v 1) (.v 2) 3 none),
    (f3 0x58 0 4 2 (4 * 16), [], .ldB128Signed .b128 g0 (.v 4) (.v 2) none), (f3 0x58 0 1 2 (5 * 16), [8], .ldB128Signed .s8 g0 (.v 1) (.v 2) (some 8)),
    (f3 0x59 0 4 2 (4 * 16), [], .stB128 g0 (.v 4) (.v 2) none), (f3 0x58 0 1 2 (2 * 16 + 3 * 2 + 1), [], .ldAcq .b32 .die g0 (.v 1) (.v 2) none),
    (f3 0x59 0 1 2 (2 * 16 + 5 * 2 + 1), [], .stRel .b32 .dom g0 (.v 1) (.v 2) none), (f3 0x5A 0 1 2 (6 * 16), [], .ldw .s16 g0 (.v 1) (.v 2) none),
    (f3 0x5B 0 1 2 (2 * 16), [], .lds .b32 g0 (.v 1) (.v 2)), (f3 0x5B 0 1 2 (2 * 16 + 8), [], .sts .b32 g0 (.v 1) (.v 2)),
    (f3 0x5C 0 98 96 (3 * 16), [], .ldk .b64 g0 (.k 2) (.k 0) none), (f3 0x5D 0 1 2 (10 * 8), [3], .atoms .cas g0 (.v 1) (.v 2) (.v 3)),
    (f3 0x5D 0 1 2 (4 * 8 + 4), [3], .atomsBcast true true g0 (.v 1) (.v 2) (.v 3)), (f3 0x5E 0 1 2 3, [], .atomAddS32 g0 (.v 1) (.v 2) (.v 3)),
    (f3 0x5F 0 1 2 38, [3], .atom .minS none g0 (.v 1) (.v 2) (.v 3)),
    (f3 0x60 0 1 2 (227 - 128), [3], .atom .fadd (some (.ar, .dom)) g0 (.v 1) (.v 2) (.v 3)),
    (f3 0x61 0 0 2 0, [], .pf g0 (.v 2) none), (f3 0x61 0 0 0 1, [], .unlease g0), (f3 0x61 0 1 2 2, [], .lease g0 (.v 1) (.v 2)),
    (f3 0x61 0 0 0 0x0B, [], .wchk g0 3), (f3 0x61 0 1 2 (0x20 + 6 * 2 + 4), [], .waitc .geS .pkg g0 (.v 1) (.v 2)),
    (f3 0x61 0 0 0 (0x44 + 6 + 2), [], .fence .rel .cls g0), (f3 0x61 0 2 1 0x61, [], .dqpush g0 1 (.v 2) (.v 1)),
    (f3 0x61 0 2 1 0x6A, [], .dqpop g0 2 (.v 2) (.v 1)), (f3 0x61 0 2 1 0x77, [], .dqsteal g0 7 (.v 2) (.v 1)),
    (f3 0x62 0 1 2 3, [], .ctradd g0 (.v 1) (.v 2) (.v 3)), (f3 0x63 0 1 2 3, [], .ctrwait g0 (.v 1) (.v 2) (.v 3)),
    (fm 0x64 0 1 47 23 5, [], .ldf .s16 g0 (.v 1) (.v 47) 23), (fm 0x65 0 2 48 0 3, [], .stf .b64 g0 (.v 2) (.k 0) 0),
    (fm 0x65 0 1 59 4 6, [], .stfUrg .b32 g0 (.v 1) (.k 11) 4), (fm 0x65 0 1 2 4 7, [], .fencef g0 (.v 1) (.v 2) 4),
    (fm 0x66 0 1 2 4 1, [3], .atomf .addN none g0 (.v 1) (.v 2) 4 (.v 3)),
    (fm 0x6B 0 1 2 4 7, [3], .atomf .fadd (some .ar) g0 (.v 1) (.v 2) 4 (.v 3)), (f3 0x7F 0 1 2 2, [], .colpost g0 (.v 1) (.v 2))]
      = true := by decide +kernel

theorem test_words_sequencer : reads [
    (f3 0x7E 0 5 96 0, [], .mxacq g0 5 (.k 0)), (f3 0x7E 0 0 96 1, [], .mxrel g0 (.k 0)), (f3 0x7E 0 98 100 2, [], .mxld g0 (.k 2) (.k 4)),
    (f3 0x7E 0 98 100 3, [], .mxst .f32 g0 (.k 2) (.k 4)), (f3 0x7E 0 98 100 7, [], .mxst .e5m2 g0 (.k 2) (.k 4)),
    (f3 0x7E 0 98 100 8, [], .mxclr g0 (.k 2) (.k 4)), (f3 0x7E 0 0 96 9, [], .sqwait g0 (.k 0)),
    (f3 0x7E 0 98 100 10, [102], .gath g0 (.k 2) (.k 4) (.k 6)), (f3 0x7E 0 98 100 0x10, [102], .cpy false .none g0 (.k 2) (.k 4) (.k 6)),
    (f3 0x7E 0 98 100 0x17, [102], .cpy true .tr g0 (.k 2) (.k 4) (.k 6)), (f3 0x7E 0 112 0 0x1F, [], .mxmon g0 (.k 16) 7),
    (f3 0x7E 0 98 100 0x37, [], .vwr g0 (.k 2) (.k 4) 23), (f3 0x7E 0 98 100 0x38, [], .vrd g0 (.k 2) (.k 4) 0),
    (f3 0x7E 0 102 98 0x52, [0x00180554], .mma g0 (.k 6) (.k 2) 2 0x00180554), (f3 0x7E 0 102 98 0x67, [7], .mmaSp g0 (.k 6) (.k 2) 11 7),
    (f3 0x7E 0 102 98 0x68, [7, 104], .mmaOl g0 (.k 6) (.k 2) 0 7 (.k 8)), (f3 0x7E 0 102 98 0x7F, [7, 116], .mmaSpOl g0 (.k 6) (.k 2) 11 7 (.k 20)),
    (f3 0x7F 0 0 0 0, [], .brk g0), (f3 0x7F 0 98 0 1, [], .tick g0 (.k 2))] = true := by decide +kernel

/-- Words that R198 to R215 leave to ILLEGAL: no instruction is read from them, with these extension words or without. -/
def refused (ws : List (Word × List Word)) : Bool := ws.all fun w => (decode w.1 w.2).isNone

theorem test_words_refused : refused [
    -- the all-zero word; unassigned majors; an unassigned xop, condition, width, scope and operation
    (0, []), (f3 0x1F 0 0 0 0, []), (f3 0x35 0 3 1 2, []), (f3 0x4F 0 0 0 0, []), (f3 0x7C 0 1 2 0x17, []), (f3 0x7D 0 1 2 0x0A, []),
    (f3 0x7E 0 98 100 0x0B, []), (f3 0x7F 0 0 0 3, []), (f3 0x16 0 (6 * 8 + 1) 1 2, []), (f3 0x26 0 (7 * 8 + 1) 1 2, []),
    (f3 0x58 0 1 2 (7 * 16), []), (f3 0x58 0 1 2 (2 * 16 + 6 * 2 + 1), []), (f3 0x5D 0 1 2 (12 * 8), [3]), (f3 0x61 0 0 0 0x56, []),
    (f3 0x61 0 2 1 0x78, []), (f3 0x77 0 3 98 99, []), (f3 0x78 0 0 96 3, []), (f3 0x38 0 3 1 10, []), (f3 0x47 0 99 1 8, []),
    -- a guard !p0; a guard on joinat and on sigchk
    (f3 0x01 8 3 1 2, []), (fw 0x6F 1 13, []), (fw 0x75 1 0x1A2B, []),
    -- a reserved bit: of mov's b, of ptest's d, of brx's d, of a register extension, of sigchk
    (f3 0x13 0 1 2 1, []), (f3 0x44 0 (1 * 8 + 5) 6 3, []), (f3 0x6D 0 32 1 4, [0x100]), (f3 0x7C 0 1 2 4, [0x83]), (0xEA011A2B, []),
    -- an extension word too many, too few, or where none is taken
    (f3 0x01 0 3 1 2, [0]), (f3 0x7C 0 1 2 4, []), (f3 0x7C 0 1 2 4, [3, 3]), (f3 0x6D 0 1 1 4, []),
    -- an odd pair, a pair naming g, O6 of 60, H5 of 24
    (f3 0x1C 0 1 2 4, []), (f3 0x1C 0 2 120 4, []), (fm 0x64 0 1 60 0 2, []), (fm 0x64 0 1 2 24 2, []),
    -- g as a destination; k where only v is taken; v where only k is; v where only g is
    (f3 0x01 0 120 1 2, []), (f3 0x20 0 96 1 2, []), (f3 0x47 0 3 1 0, []), (f3 0x78 0 1 104 0, []), (f3 0x7E 0 2 4 2, []),
    -- an immediate out of range: a shift of 32, D = 0, mode 5 of frint, 33 lanes' length, J over 227, BC with add
    (f3 0x0F 0 4 4 32, []), (f3 0x3B 0 3 1 5, []), (f3 0x27 0 3 1 5, []), (BitVec.ofNat 32 (0x74 * 2 ^ 25 + 8 * 2 ^ 18 + 33 * 2 ^ 12), []),
    (f3 0x60 0 1 2 100, [3]), (f3 0x5F 0 1 2 0, [3]), (f3 0x5D 0 1 2 4, [3]),
    -- an offset extension with OFF7, a stream with one, a stream outside majors 0x50 to 0x5A
    (f3 0x52 0 1 2 1, [8]), (f3 0x52 0 1 121 0, [8]), (f3 0x5C 0 98 121 (2 * 16), [])] = true := by decide +kernel

/-! ## Ill-formed terms (WellFormed refuses each) -/

theorem test_illformed_guards_and_classes : [
    Instr.iadd { neg := true, p := 0 } (.v 3) (.v 1) (.v 2),  -- !p0
    .iadd g0 (.g 0) (.v 1) (.v 2),                            -- g as a destination
    .movh (.g 1) 5, .imulw true g0 (.v 3) (.v 1) (.v 2),      -- an odd pair
    .add64 g0 (.v 2) (.v 3) (.v 4), .shl64 g0 (.v 2) (.g 0) (.v 4), .lea g0 (.k 1) (.v 1) 3,
    .icmp .eq true { neg := true, p := 0 } 1 (.v 1) (.v 2), .bra { neg := true, p := 0 } 1,
    .fadd g0 (.k 3) (.v 1) (.v 2), .sqrt g0 (.k 1) (.v 1), .xlaneG g0 (.k 1) (.v 1) (.v 2), .lfold .add g0 (.v 3) (.v 1),
    .fcmp .lt { neg := true, p := 0 } 1 (.v 1) (.v 2), .rgn (.k 0) 16 (.v 40) 8, .rgn (.v 8) 33 (.v 40) 0, .rgn (.v 8) 32 (.v 40) 1,
    .rgn (.v 8) 0 (.v 40) 8, .gbind g0 1 (.v 8), .gstat g0 0 1, .gstat g0 5 1, .rgwait g0 (.k 1) 1, .cpyY g0 (.k 10) (.k 11) (.k 14) 0].all
      (fun i => !i.wf) = true := by decide +kernel

theorem test_illformed_forms : [
    Instr.cvt false .s16 1 g0 (.v 3) (.v 1), .cvtSat .f16 2 g0 (.v 3) (.v 1),  -- an element the type does not have
    .qdx g0 (.v 3) (.v 1) 5 0,                                                  -- D = 0
    .ld .b128 g0 (.v 4) (.v 2) 0 none, .ld .b64 g0 (.v 1) (.v 2) 0 none, .ld .b32 g0 (.v 1) (.v 3) 0 none,
    .ld .b32 g0 (.v 1) (.v 2) 1 (some 4), .ld .b32 g0 (.v 1) (.g 1) 1 none, .st .b32 g0 (.g 1) (.v 2) 0 none,
    .ldB128Signed .b32 g0 (.v 4) (.v 2) none, .ldB128Signed .b128 g0 (.v 2) (.v 2) none, .stB128 g0 (.v 2) (.v 2) none,
    .ldAcq .b128 .die g0 (.v 4) (.v 2) none, .stRel .s8 .die g0 (.v 4) (.v 2) none, .ldw .b128 g0 (.v 4) (.v 2) none,
    .lds .b32 g0 (.v 1) (.g 2), .sts .s8 g0 (.v 1) (.v 2), .ldk .b32 g0 (.v 1) (.v 2) none, .ldk .b8 g0 (.k 1) (.v 2) none,
    .atomAddS32 g0 (.k 1) (.v 2) (.v 3), .atom .addS none g0 (.v 1) (.v 2) (.v 3), .atoms .addS g0 (.v 1) (.g 2) (.v 3),
    .pf g0 (.v 1) none, .lease g0 (.v 1) (.v 3), .wchk { neg := true, p := 0 } 1, .dqpush g0 1 (.v 1) (.v 2), .dqpop g0 1 (.k 2) (.v 2),
    .ctradd g0 (.g 1) (.v 2) (.v 3), .ldf .b128 g0 (.v 4) (.v 0) 0, .stf .s8 g0 (.v 1) (.v 0) 0, .stfUrg .b64 g0 (.v 2) (.v 0) 0,
    .fencef g0 (.g 1) (.v 0) 0, .atomf .addS none g0 (.k 1) (.v 0) 0 (.v 1), .mxacq g0 1 (.v 1), .mxld g0 (.k 1) (.k 2),
    .mxst .f32 g0 (.v 2) (.k 2), .mxclr g0 (.k 2) (.v 1), .vwr g0 (.k 3) (.k 2) 1, .gath g0 (.k 2) (.k 4) (.k 5),
    .cpy false .none g0 (.k 2) (.v 4) (.k 6), .mxmon g0 (.k 17) 0, .mma g0 (.k 6) (.v 2) 2 0, .mmaSp g0 (.k 7) (.k 2) 2 0,
    .mmaOl g0 (.k 6) (.k 2) 2 0 (.k 22), .mmaSpOl g0 (.k 6) (.k 2) 2 0 (.k 5), .tick g0 (.v 2)].all
      (fun i => !i.wf) = true := by decide +kernel

/-! ## The test catalogue of chapter 7 -/

/-- Party n of a test: lane 0 of a strand of the gang's group n, on one core each, in one cluster. -/
def party (n : Nat) : Agent := .lane 0 0 0 0 n 0 0
def wr (n l : Nat) (ann : Option (AOrd × Scope) := none) : Ev := { agent := party n, kind := .w, locs := [l], ann := ann }
def rd (n l : Nat) (ann : Option (AOrd × Scope) := none) : Ev := { agent := party n, kind := .r, locs := [l], ann := ann }
def add (n l : Nat) (ann : Option (AOrd × Scope) := none) : Ev := { agent := party n, kind := .rmw, locs := [l], ann := ann }
def fnc (n : Nat) (o : AOrd) (sc : Scope) : Ev := { agent := party n, kind := .f, locs := [], ann := some (o, sc) }
/-- An execution of accesses and fences, each thread's in the order given. -/
def run (evs : List Ev) (rf : List (Nat × Nat)) (co : List (Nat × List Nat)) (fo : List Nat := []) : Exec :=
  { events := (List.range evs.length).zipWith (fun i (e : Ev) => { e with pos := i }) evs, rf := rf, co := co, fo := fo }

/-- "Message passing" with v2 = 1, v3 = 0: x is location 0, y location 1. -/
def mp (sc : Scope) (rf : List (Nat × Nat)) : Exec :=
  run [wr 0 0, wr 0 1 (some (.rel, sc)), rd 1 1 (some (.acq, sc)), rd 1 0] rf [(0, [0]), (1, [1])]

theorem test_message_passing :
    (mp .cls [(1, 2)]).allowed = false ∧ (mp .cls [(1, 2), (0, 3)]).allowed = true ∧ (mp .cls []).allowed = true
    ∧ (mp .cls [(0, 3)]).allowed = true
    ∧ (run [wr 0 0, wr 0 1, rd 1 1, rd 1 0] [(1, 2)] [(0, [0]), (1, [1])]).allowed = true := by decide +kernel

/-- "Narrow scope": allowed across groups; forbidden where both are strands of one group. -/
theorem test_narrow_scope : (mp .grp [(1, 2)]).allowed = true
    ∧ (run [wr 0 0, wr 0 1 (some (.rel, .grp)), { rd 0 1 (some (.acq, .grp)) with agent := .lane 0 0 0 0 0 1 0 },
            { rd 0 0 with agent := .lane 0 0 0 0 0 1 0 }] [(1, 2)] [(0, [0]), (1, [1])]).allowed = false := by decide +kernel

/-- "Store buffering" with v2 = v3 = 0. -/
theorem test_store_buffering :
    (∀ fo ∈ [[1, 4], [4, 1]], (run [wr 0 0, fnc 0 .ar .cls, rd 0 1, wr 1 1, fnc 1 .ar .cls, rd 1 0] [] [(0, [0]), (1, [3])] fo).allowed = false)
    ∧ (run [wr 0 0, rd 0 1, wr 1 1, rd 1 0] [] [(0, [0]), (1, [2])]).allowed = true
    ∧ (run [wr 0 0, fnc 0 .rel .cls, rd 0 1, wr 1 1, fnc 1 .acq .cls, rd 1 0] [] [(0, [0]), (1, [3])]).allowed = true
    ∧ (run [wr 0 0, fnc 0 .ar .cls, rd 0 1, wr 1 1, fnc 1 .ar .cls, rd 1 0] [(0, 5)] [(0, [0]), (1, [3])] [1, 4]).allowed = true := by
  decide +kernel

/-- "Load buffering": forbidden where each store writes what its thread has read, or depends on it for its address or its guard. -/
theorem test_load_buffering :
    let both (code : List Instr) : Exec := { run [rd 0 0, wr 0 1, rd 1 1, wr 1 0] [(3, 0), (1, 2)] [(0, [3]), (1, [1])] with
      code := [(party 0, code.map fun i => (0, i)), (party 1, (.nop g0 :: .nop g0 :: code).map fun i => (0, i))] }
    let ld : Instr := .ld .b32 g0 (.v 1) (.v 2) 0 none
    (both [ld, .st .b32 g0 (.v 1) (.v 4) 0 none]).allowed = false ∧ (both [ld, .st .b32 g0 (.v 8) (.v 0) 0 none]).allowed = false
    ∧ (both [ld, .st .b32 g0 (.v 8) (.v 4) 0 none]).allowed = true := by decide +kernel

/-- "Read, read, same word": 1 then 0 is forbidden. -/
theorem test_read_read :
    (run [wr 0 0, rd 1 0, rd 1 0] [(0, 1)] [(0, [0])]).allowed = false ∧ (run [wr 0 0, rd 1 0, rd 1 0] [(0, 2)] [(0, [0])]).allowed = true
    ∧ (run [wr 0 0, rd 1 0, rd 1 0] [(0, 1), (0, 2)] [(0, [0])]).allowed = true := by decide +kernel

/-- "Independent reads": allowed without the fences and forbidden with them. -/
theorem test_independent_reads :
    let a (n l : Nat) := rd n l (some (.acq, .cls))
    (run [wr 0 0, wr 1 1, a 2 0, a 2 1, a 3 1, a 3 0] [(0, 2), (1, 4)] [(0, [0]), (1, [1])]).allowed = true
    ∧ ∀ fo ∈ [[3, 6], [6, 3]], (run [wr 0 0, wr 1 1, a 2 0, fnc 2 .ar .cls, a 2 1, a 3 1, fnc 3 .ar .cls, a 3 0] [(0, 2), (1, 5)]
        [(0, [0]), (1, [1])] fo).allowed = false := by decide +kernel

/-- "Release through an atomic": data is location 0, flag location 1. -/
theorem test_release_through_an_atomic :
    let ev := [wr 0 0, wr 0 1 (some (.rel, .cls)), add 1 1, rd 2 1 (some (.acq, .cls)), rd 2 0]
    (run ev [(1, 2), (2, 3)] [(0, [0]), (1, [1, 2])]).allowed = false
    ∧ (run ev [(1, 2), (2, 3), (0, 4)] [(0, [0]), (1, [1, 2])]).allowed = true
    ∧ (run ev [(2, 3)] [(0, [0]), (1, [2, 1])]).allowed = true := by decide +kernel

/-- "Two adds": both may not return 0. -/
theorem test_two_adds :
    (run [add 0 0, add 1 0] [(0, 1)] [(0, [0, 1])]).allowed = true ∧ (run [add 0 0, add 1 0] [] [(0, [0, 1])]).allowed = false := by
  decide +kernel

/-- The completion of node n of the graph, and an event of node n. -/
def ended (n : Nat) : Ev := { agent := .node 0 n, kind := .ended n, locs := [] }
def inNode (n : Nat) (e : Ev) : Ev := { e with node := some n }
/-- Two nodes of a graph, the second of which depends on the first. -/
def twoNodes : List ONode := [{ graph := 0, phase := 0, deps := [] }, { graph := 0, phase := 0, deps := [0] }]

/-- "Bytes of one line": S reads with one access the two bytes of x, which P's two parties wrote (log 101). -/
theorem test_bytes_of_one_line :
    let x (rf : List (Nat × Nat)) : Exec :=
      { run [inNode 0 (wr 0 0), inNode 0 (wr 1 1), ended 0, inNode 1 { rd 2 0 with locs := [0, 1] }] rf [(0, [0]), (1, [1])] with nodes := twoNodes }
    (x [(0, 3), (1, 3)]).allowed = true ∧ (x [(0, 3)]).allowed = false ∧ (x [(1, 3)]).allowed = false := by decide +kernel

/-- "Across a kernel boundary": the store is ordered before the load, by the edge of the graph. -/
theorem test_across_a_kernel_boundary :
    let x (ns : List ONode) (rf : List (Nat × Nat)) : Exec :=
      { run [inNode 0 (wr 0 0), ended 0, inNode 1 (rd 1 0)] rf [(0, [0])] with nodes := ns }
    (x twoNodes [(0, 2)]).allowed = true ∧ (x twoNodes []).allowed = false
    ∧ (x [{ graph := 0, phase := 0, deps := [] }, { graph := 0, phase := 0, deps := [] }] []).allowed = true := by decide +kernel

/-- "Copy after store": the copy of a buffer into the region of a placeholder waits for it, and so for the store before its `rgdone`. -/
theorem test_copy_after_store :
    let context : Agent := .context 0 0 0 0
    let copy : Agent := .command 0 0 0 0 1
    let x (placed : Bool) (rf : List (Nat × Nat)) : Exec :=
      { run [wr 0 0, { agent := party 0, kind := .counted 0, locs := [] },
             { agent := context, kind := if placed then .posting 0 else .f, locs := [] }, { agent := context, kind := .posting 1, locs := [] },
             { agent := copy, kind := .r, locs := [0] }] rf [(0, [0])] with
        cmds := [(.command 0 0 0 0 0, .place true 0x0010000000000000 0 1), (copy, .cpy false .none 0x0010000000000000 0 0)] }
    (x true [(0, 4)]).allowed = true ∧ (x true []).allowed = false ∧ (x false []).allowed = true := by decide +kernel

/-- "Flag after push": the add of `fencef` synchronises with the wake-up that reads it. -/
theorem test_flag_after_push :
    let far : Agent := .lane 1 0 0 0 0 0 0
    let x (rf : List (Nat × Nat)) : Exec :=
      run [wr 0 0, Ev.flag (party 0) 0 [1], Ev.wake far 0 [1] .dom, { rd 0 0 with agent := far }] rf [(0, [0]), (1, [1])]
    (x [(1, 2), (0, 3)]).allowed = true ∧ (x [(1, 2)]).allowed = false := by decide +kernel

/-- R111: an entry that `dqpush` published, and what every arrival at a barrier's phase comes after. -/
theorem test_deques_and_barriers :
    let arrive (n : Nat) : Ev := { agent := .lane 0 0 0 0 0 n 0, kind := .arrive 3 1, locs := [] }
    let leave (n ph : Nat) : Ev := { agent := .lane 0 0 0 0 0 n 0, kind := .leave 3 ph, locs := [] }
    (run [wr 0 0, Ev.push (party 0) 0 [1], Ev.take (party 1) 0 [1], rd 1 0] [(1, 2)] [(0, [0]), (1, [1])]).allowed = false
    ∧ (∀ ph ∈ [1, 2], (run [{ wr 0 0 with agent := .lane 0 0 0 0 0 0 0 }, arrive 0, arrive 1, leave 1 ph,
        { rd 0 0 with agent := .lane 0 0 0 0 0 1 0 }] [] [(0, [0])]).allowed = (ph == 2)) := by decide +kernel

/-- R175: a counter's increment that its value arms an entry synchronises with the entry, whose reads follow. -/
theorem test_counters_arm_entries :
    let fired : Agent := .entry 0 0
    let x (rf : List (Nat × Nat)) : Exec := run [{ wr 0 0 with agent := .entry 0 1 }, { agent := .entry 0 1, kind := .inc true, locs := [1] },
      { agent := fired, kind := .armed, locs := [1] }, { agent := fired, kind := .r, locs := [0] }] rf [(0, [0]), (1, [1])]
    (x [(1, 2)]).allowed = false ∧ (x [(1, 2), (0, 3)]).allowed = true := by decide +kernel

/-- R115, R127: a confirmed watched load does not read a write that it happens before; a struck one constrains nothing. -/
theorem test_watched_loads :
    let x (struck : Bool) : Exec := run [{ rd 0 0 with kind := .wl struck }, wr 0 0] [(1, 0)] [(0, [1])]
    (x false).allowed = false ∧ (x true).allowed = true := by decide +kernel

/-! ## Small states -/

/-- The lanes that are active in these tests: 6, in which p1 is true, and 7. -/
def two : Mask := 0xC0
/-- A strand of 512 registers with given active lanes, v registers and k registers; p1 is true in the even lanes, p2 in none. -/
def strandOf (m : Mask) (v : SMap Word) (k : List Word) : Thread :=
  { Thread.start false 1 0 0 0 0 0 1 1 1 0 0 0 512 (placeText + 4) (k ++ List.replicate (24 - k.length) 0) with
    v := v, p := [BitVec.allOnes 32, 0x55555555, 0, 0, 0, 0, 0, 0]
    splits := [Split.at (placeText + 4) m, Split.reset, Split.reset, Split.reset] }
/-- As `strandOf`, of the two lanes. -/
def strand (v : SMap Word) (k : List Word) : Thread := strandOf two v k
/-- A sequencer context whose k registers are given. -/
def context (k : List Word) : Thread :=
  Thread.start true 1 0 0 0 0 0 1 1 1 0 0 0 512 (placeText + 4) (k ++ List.replicate (24 - k.length) 0)
/-- Register `r` with one value in both lanes. -/
def fill (r : Nat) (x : Word) : SMap Word := if x = 0 then [] else [(32 * r + 6, x), (32 * r + 7, x)]

/-- The placed machine of log 9, whose launch may access the whole gibibyte of its page (software-managed, R, W and X), with the thread issuing from slot 1. The text
holds the word 8 in slot 1. -/
def at' (x : Thread) : State :=
  let s := State.reset.placeWords x.seq 8 []
  let t := if x.seq then ctxBase else 0
  { s with
    threads := [(t, x)]
    mem := Memory.writeBytes s.mem (placeRoot + 8) [0x3F]
    res := { s.res with launches := [(1, { placeLaunch with ranges := [(0, 2 ^ 31)] })] }
    iss := some { t := t, e := 0, pc := placeText + 4, npc := placeText + 8, word := 0x12345678, stall := 2, yh := false, op := none } }
/-- A strand with v1 = a, v2 = b and v3 = d in both lanes. -/
def abd (a b d : Word) : State := at' (strand (fill 1 a ++ fill 2 b ++ fill 3 d) [])

/-- The state after one instruction, where there is one. -/
def after (i : Instr) (s : State) : Option State :=
  match exec i s with
  | .next t => some t
  | _ => none
/-- The issuing thread, its pending results written. -/
def settled (s : State) : Option Thread := (s.threads.head?).map fun c => c.2.commit 1000000
/-- Register `r` of lane `l` after one instruction. -/
def gives (i : Instr) (s : State) (r : Reg) (l : Nat) : Option Word := ((after i s).bind settled).map fun x => x.get r l
/-- Predicate `p` of lane `l` after one instruction. -/
def givesP (i : Instr) (s : State) (p l : Nat) : Option Bool := ((after i s).bind settled).map fun x => x.preg p l

/-! ## One step of each instruction that writes a register: integer and logic (R218 to R224) -/

/-- `mk d a b` on v1 = a and v2 = b, with v3 = d first, writes v3: (d, a, b, result). -/
def alu (mk : Guard → Reg → Reg → Reg → Instr) (ts : List (Word × Word × Word × Word)) : Bool :=
  ts.all fun (d, a, b, r) => gives (mk g0 (.v 3) (.v 1) (.v 2)) (abd a b d) (.v 3) 7 == some r
/-- As `alu`, of one source. -/
def alu1 (mk : Guard → Reg → Reg → Instr) (ts : List (Word × Word)) : Bool :=
  ts.all fun (a, r) => gives (mk g0 (.v 3) (.v 1)) (abd a 0 0) (.v 3) 7 == some r

theorem test_sums : alu .iadd [(0, 0xFFFFFFFF, 2, 1)] ∧ alu .isub [(0, 1, 2, 0xFFFFFFFF)] ∧ alu1 (fun g d a => .iaddi g d a 0x40) [(0, 0xFFFFFFC0)]
    ∧ alu (.iaddSat true) [(0, 0x7FFFFFFF, 1, 0x7FFFFFFF), (0, 0x80000000, 0xFFFFFFFF, 0x80000000)]
    ∧ alu (.iaddSat false) [(0, 0xFFFFFFFF, 1, 0xFFFFFFFF)] ∧ alu (.isubSat true) [(0, 0x80000000, 1, 0x80000000)]
    ∧ alu (.isubSat false) [(0, 1, 2, 0)] := by decide +kernel
theorem test_products : alu .imul [(0, 0x10001, 0x10001, 0x20001)] ∧ alu .imad [(7, 3, 5, 22)]
    ∧ alu (.imulhi true) [(0, 0xFFFFFFFF, 2, 0xFFFFFFFF)] ∧ alu (.imulhi false) [(0, 0xFFFFFFFF, 2, 1)]
    ∧ gives (.imulw true g0 (.v 4) (.v 1) (.v 2)) (abd 0xFFFFFFFF 2 0) (.v 5) 7 = some 0xFFFFFFFF
    ∧ gives (.imulw false g0 (.v 4) (.v 1) (.v 2)) (abd 0xFFFFFFFF 2 0) (.v 5) 7 = some 1
    ∧ gives (.imulw false g0 (.v 4) (.v 1) (.v 2)) (abd 0xFFFFFFFF 2 0) (.v 4) 7 = some 0xFFFFFFFE := by decide +kernel
/-- R219: toward zero, and the corners of division by zero and of overflow. -/
theorem test_division : alu (.idiv true) [(0, 0xFFFFFFF9, 2, 0xFFFFFFFD), (0, 0x80000000, 0xFFFFFFFF, 0x80000000), (0, 5, 0, 0xFFFFFFFF)]
    ∧ alu (.idiv false) [(0, 0xFFFFFFF9, 2, 0x7FFFFFFC), (0, 5, 0, 0xFFFFFFFF)]
    ∧ alu (.irem true) [(0, 0xFFFFFFF9, 2, 0xFFFFFFFF), (0, 0x80000000, 0xFFFFFFFF, 0), (0, 5, 0, 5)]
    ∧ alu (.irem false) [(0, 0xFFFFFFF9, 2, 1), (0, 5, 0, 5)] := by decide +kernel
theorem test_choice : alu (.imin true) [(0, 0xFFFFFFFF, 1, 0xFFFFFFFF)] ∧ alu (.imin false) [(0, 0xFFFFFFFF, 1, 1)]
    ∧ alu (.imax true) [(0, 0xFFFFFFFF, 1, 1)] ∧ alu (.imax false) [(0, 0xFFFFFFFF, 1, 0xFFFFFFFF)]
    ∧ alu1 .iabs [(0x80000000, 0x80000000), (0xFFFFFFFF, 1)] ∧ alu1 .ineg [(1, 0xFFFFFFFF)] ∧ alu1 .not [(0xFF, 0xFFFFFF00)] := by
  decide +kernel
theorem test_logic : alu .and [(0, 12, 10, 8)] ∧ alu .or [(0, 12, 10, 14)] ∧ alu .xor [(0, 12, 10, 6)] ∧ alu .andn [(0, 12, 10, 4)] := by decide +kernel
/-- Counts of 32 and more (R218). -/
theorem test_shifts : alu .shl [(0, 1, 31, 0x80000000), (0, 1, 32, 0)] ∧ alu .shr [(0, 0x80000000, 31, 1), (0, 0x80000000, 256, 0)]
    ∧ alu .sar [(0, 0x80000000, 4, 0xF8000000), (0, 0x80000000, 40, 0xFFFFFFFF), (0, 0x7FFFFFFF, 32, 0)]
    ∧ alu1 (fun g d a => .shli g d a 31) [(3, 0x80000000)] ∧ alu1 (fun g d a => .shri g d a 31) [(0x80000000, 1)]
    ∧ alu1 (fun g d a => .sari g d a 31) [(0x80000000, 0xFFFFFFFF)] := by decide +kernel
theorem test_bits : alu1 .popc [(0xF0F0, 8)] ∧ alu1 .clz [(0, 32), (1, 31)] ∧ alu1 .ctz [(0, 32), (8, 3)] ∧ alu1 .brev [(1, 0x80000000)]
    ∧ alu (.bfx true) [(0, 0xF0, 0x0404, 0xFFFFFFFF), (0, 0xF0, 0x0004, 0), (0, 0xF0000000, 0x081C, 0xFFFFFFFF)]
    ∧ alu (.bfx false) [(0, 0xF0, 0x0404, 0xF), (0, 0xF0, 0x0420, 0)]
    ∧ alu .bfi [(0xFFFFFFFF, 0, 0x0808, 0xFFFF00FF), (0x12345678, 0, 0x0820, 0x12345678)]
    -- byte 0 from a[3], byte 1 from d[0], byte 2 from a[0] inverted, byte 3 the sign of a[3]
    ∧ alu .bmix [(0x000000AA, 0x80112233, 5013763, 0xFFCCAA80)] := by decide +kernel
theorem test_selects_and_moves :
    gives (.sel g1 (.v 3) (.v 1) (.v 2)) (abd 5 6 0) (.v 3) 6 = some 5 ∧ gives (.sel g1 (.v 3) (.v 1) (.v 2)) (abd 5 6 0) (.v 3) 7 = some 6
    ∧ alu1 .mov [(7, 7)] ∧ gives (.movi g0 (.k 3) 0x3FFF) (abd 0 0 0) (.k 3) 0 = some 0xFFFFFFFF
    ∧ gives (.movh (.v 3) 5) (abd 0 0 0xFFFFFFFF) (.v 3) 7 = some 0x17FFF
    ∧ gives (.movs g0 (.v 3) 0) (abd 0 0 0) (.v 3) 7 = some 7 ∧ gives (.movs g0 (.v 3) 0x13) (abd 0 0 0) (.v 3) 7 = some 512
    ∧ gives (.iadd g1 (.v 3) (.v 1) (.v 2)) (abd 5 6 9) (.v 3) 7 = some 9 := by decide +kernel
theorem test_compares :
    givesP (.icmp .lt true g0 3 (.v 1) (.v 2)) (abd 0xFFFFFFFF 0 0) 3 7 = some true
    ∧ givesP (.icmp .lt false g0 3 (.v 1) (.v 2)) (abd 0xFFFFFFFF 0 0) 3 7 = some false
    ∧ givesP (.icmpi .ge true g0 3 (.v 1) 0x7F) (abd 0 0 0) 3 7 = some true ∧ givesP (.icmpi .ge false g0 3 (.v 1) 0x7F) (abd 0 0 0) 3 7 = some false
    ∧ givesP (.icmp .ne true g0 0 (.v 1) (.v 2)) (abd 1 1 0) 0 7 = some true := by decide +kernel
/-- v4:v5 = 2^32 - 1, v6:v7 = 1, v2 the count. -/
theorem test_pairs :
    let s (n : Word) : State := at' (strand (fill 2 n ++ fill 4 0xFFFFFFFF ++ fill 6 1) [])
    gives (.add64 g0 (.v 8) (.v 4) (.v 6)) (s 0) (.v 9) 7 = some 1 ∧ gives (.sub64 g0 (.v 8) (.v 6) (.v 4)) (s 0) (.v 9) 7 = some 0xFFFFFFFF
    ∧ gives (.sub64 g0 (.v 8) (.v 6) (.v 4)) (s 0) (.v 8) 7 = some 2 ∧ gives (.lea g0 (.v 4) (.v 2) 4) (s 0xF0000001) (.v 5) 7 = some 16
    ∧ gives (.lea g0 (.v 4) (.v 2) 4) (s 0xF0000001) (.v 4) 7 = some 15
    ∧ gives (.shl64 g0 (.v 8) (.v 4) (.v 2)) (s 32) (.v 9) 7 = some 0xFFFFFFFF ∧ gives (.shl64 g0 (.v 8) (.v 4) (.v 2)) (s 64) (.v 9) 7 = some 0
    ∧ gives (.shr64 g0 (.v 8) (.v 4) (.v 2)) (s 31) (.v 8) 7 = some 1 := by decide +kernel

/-! ## Floating point, conversion and lanes (R240 to R258) -/

/-- 1, 2, -1, infinity and the canonical NaN of FP32. -/
theorem test_fp32 : alu .fadd [(0, 0x3F800000, 0x3F800000, 0x40000000), (0, 0x7F800000, 0xFF800000, 0x7FC00000), (0, 0x80000000, 0, 0)]
    ∧ alu .fsub [(0, 0x3F800000, 0x3F800000, 0)] ∧ alu .fmul [(0, 0x40000000, 0xBF800000, 0xC0000000)]
    ∧ alu .ffma [(0x3F800000, 0x40000000, 0x40000000, 0x40A00000)]
    ∧ alu .fmin [(0, 0x7FC00000, 0x3F800000, 0x3F800000), (0, 0, 0x80000000, 0x80000000)] ∧ alu .fmax [(0, 0x3F800000, 0xBF800000, 0x3F800000)]
    ∧ alu .fdiv [(0, 0x3F800000, 0x40000000, 0x3F000000), (0, 0x3F800000, 0x80000000, 0xFF800000)]
    ∧ alu1 .sqrt [(0x40800000, 0x40000000), (0xBF800000, 0x7FC00000)] ∧ alu1 .fabs [(0xBF800000, 0x3F800000), (0xFFFFFFFF, 0x7FC00000)]
    ∧ alu1 .fneg [(0x3F800000, 0xBF800000)] ∧ alu1 (.frint none) [(0x40200000, 0x40000000)] ∧ alu1 (.frint (some .rup)) [(0x40200000, 0x40400000)]
    ∧ alu .fscale [(0, 0x3F800000, 0xFFFFFFFF, 0x3F000000)] := by decide +kernel
theorem test_fcmp : givesP (.fcmp .lt g0 3 (.v 1) (.v 2)) (abd 0xBF800000 0x3F800000 0) 3 7 = some true
    ∧ givesP (.fcmp .eq g0 3 (.v 1) (.v 2)) (abd 0 0x80000000 0) 3 7 = some true
    ∧ givesP (.fcmp .ne g0 3 (.v 1) (.v 2)) (abd 0x7FC00000 0 0) 3 7 = some false
    ∧ givesP (.fcmp .une g0 3 (.v 1) (.v 2)) (abd 0x7FC00000 0 0) 3 7 = some true := by decide +kernel
/-- The values of R247 at operands with exact results. -/
theorem test_functions : alu1 .rcp [(0x40000000, 0x3F000000), (0, 0x7F800000)] ∧ alu1 .rsq [(0x40800000, 0x3F000000)]
    ∧ alu1 .exp2 [(0x40400000, 0x41000000)] ∧ alu1 .log2 [(0x41000000, 0x40400000)] ∧ alu1 .sinpi [(0x3F000000, 0x3F800000)]
    ∧ alu1 .cospi [(0x3F800000, 0xBF800000)] ∧ alu1 .tanh [(0x80000000, 0x80000000), (0x7F800000, 0x3F800000)] := by decide +kernel
theorem test_halves : alu (.hadd2 false) [(0, 0x3C003C00, 0x3C004000, 0x40004200)] ∧ alu (.hmul2 true) [(0, 0x40003F80, 0x40004000, 0x40804000)]
    ∧ alu (.hfma2 false) [(0x3C000000, 0x40003C00, 0x40003C00, 0x45003C00)] ∧ alu (.hmin2 false) [(0, 0x3C00BC00, 0x40003C00, 0x3C00BC00)]
    ∧ alu (.hmax2 true) [(0, 0x3F80BF80, 0x40003F80, 0x40003F80)] := by decide +kernel
theorem test_conversions : alu1 (.cvt false .s32 0) [(0xC0200000, 0xFFFFFFFE)] ∧ alu1 (.cvt true .n32 0) [(5, 0x40A00000)]
    ∧ gives (.cvt false .f16 1 g0 (.v 3) (.v 1)) (abd 0x3F800000 0 0x12345678) (.v 3) 7 = some 0x3C005678
    ∧ alu1 (.cvt true .bf16 1) [(0x40001234, 0x40000000)] ∧ alu1 (.cvtSat .s8 0) [(0x43960000, 0x7F)] := by decide +kernel
/-- Lane l of lanes 0 to 7 holds 3 l. -/
theorem test_lanes :
    let s : State := at' (strandOf 0xFF ((List.range 7).map (fun l => (33 + l, BitVec.ofNat 32 (3 * l + 3))) ++ (List.range 8).map (fun l => (64 + l, 5))) [])
    gives (.plane g0 (.v 3) (.v 1) 0) s (.v 3) 1 = some 0xAA ∧ gives (.xlaneG g0 (.v 3) (.v 1) (.v 2)) s (.v 3) 1 = some 15
    ∧ gives (.xlaneRot g0 (.v 3) (.v 1) (.v 2)) s (.v 3) 1 = some 18 ∧ gives (.xlaneX g0 (.v 3) (.v 1) (.v 2)) s (.v 3) 6 = some 9
    ∧ givesP (.ptest .all g0 3 1) s 3 0 = some false ∧ givesP (.ptest .any g0 3 1) s 3 0 = some true
    ∧ gives (.pmask g0 (.v 3) 1) s (.v 3) 0 = some 0x55 ∧ gives (.lfold .add g0 (.k 3) (.v 1)) s (.k 3) 0 = some 84
    ∧ gives (.lfold .maxS g1 (.k 3) (.v 1)) s (.k 3) 0 = some 18 ∧ gives (.lkey g0 (.v 3) (.v 2)) s (.v 3) 3 = some (0 + 256 * 7 + 65536 * 3) := by
  decide +kernel

/-! ## Witnesses: states and operands that meet the hypotheses of each obligation -/

/-- Is an instruction at issue here, performing its own effect, with a context that a test accepts? -/
def ready (s : State) (i : Instr) (p : Ctx → Bool) : Bool :=
  match s.ctx? i with
  | some c => decide (c.e < c.x.splits.length) && !c.again && !s.interlocked c i && (s.commonFault c i).isNone && p c
  | none => false

theorem ready_issues {s : State} {i : Instr} {p : Ctx → Bool} (h : ready s i p = true) : ∃ c, s.issues i c ∧ p c = true := by
  unfold ready at h
  cases hc : s.ctx? i with
  | none => simp [hc] at h
  | some c =>
    simp only [hc, Bool.and_eq_true, decide_eq_true_eq, Bool.not_eq_true', Option.isNone_iff_eq_none] at h
    exact ⟨c, ⟨hc, h.1.1.1.1, h.1.1.1.2, h.1.1.2, h.1.2⟩, h.2⟩

/-- Each instruction issues in its state, with a context of which the test holds. -/
def AllMeet (ws : List (State × Instr × (Ctx → Bool))) : Prop := ∀ w ∈ ws, ∃ c, w.1.issues w.2.1 c ∧ w.2.2 c = true

theorem allMeet {ws : List (State × Instr × (Ctx → Bool))} (h : (ws.all fun w => ready w.1 w.2.1 w.2.2) = true) : AllMeet ws :=
  fun w hw => ready_issues (by simpa using List.all_eq_true.1 h w hw)

/-- No more than that the instruction issues. -/
def issued : Ctx → Bool := fun _ => true
/-- Some lane takes part. -/
def some' : Ctx → Bool := fun c => c.lanes != 0
/-- No lane takes part: the guard of such a witness is p2, which is true in no lane. -/
def none' : Ctx → Bool := fun c => c.lanes == 0
/-- p2, true in no lane. -/
def g2 : Guard := { neg := false, p := 2 }
/-- The strand of the witnesses: v1 = 3 and v2 = 5; v4:v5 the address 0x40001000, v6:v7 the number 1; k2:k3 the same address. -/
def st : State := at' (strand (fill 1 3 ++ fill 2 5 ++ fill 4 0x40001000 ++ fill 6 1) [0, 0, 0x40001000, 0, 1, 1])

theorem witness_IntegerAndLogicTable : AllMeet ([
    Instr.iadd g0 (.v 3) (.v 1) (.v 2), .isub g1 (.v 3) (.v 1) (.k 2), .iaddi g0 (.v 3) (.v 1) 0x40, .imul g0 (.v 3) (.v 1) (.v 2),
    .imad gn2 (.v 3) (.v 1) (.v 2), .imulhi true g0 (.v 3) (.v 1) (.v 2), .imulhi false g0 (.k 3) (.v 1) (.v 2),
    .imulw true g0 (.v 94) (.v 1) (.v 2), .imulw false g0 (.k 22) (.v 1) (.v 2), .iaddSat true g0 (.v 3) (.v 1) (.v 2),
    .iaddSat false g0 (.v 3) (.v 1) (.v 2), .isubSat true g0 (.v 3) (.v 1) (.v 2), .isubSat false g0 (.v 3) (.v 1) (.v 2),
    .imin true g0 (.v 3) (.v 1) (.v 2), .imin false g0 (.v 3) (.v 1) (.v 2), .imax true g0 (.v 3) (.v 1) (.v 2),
    .imax false g0 (.v 3) (.v 1) (.v 2), .iabs g0 (.v 3) (.v 1), .ineg g0 (.v 3) (.v 1), .not g0 (.v 3) (.v 1),
    .and g0 (.v 3) (.v 1) (.v 2), .or g0 (.v 3) (.v 1) (.v 2), .xor g0 (.v 3) (.v 1) (.v 2), .andn g0 (.v 3) (.v 1) (.v 2),
    .shl g0 (.v 3) (.v 1) (.v 2), .shr g0 (.v 3) (.v 1) (.v 2), .sar g0 (.v 3) (.v 1) (.v 2), .shli g0 (.v 3) (.v 1) 31,
    .shri g0 (.v 3) (.v 1) 0, .sari g0 (.v 3) (.v 1) 31, .popc g0 (.v 3) (.v 1), .clz g0 (.v 3) (.v 1), .ctz g0 (.v 3) (.v 1),
    .brev g0 (.v 3) (.v 1)].map fun i => (st, i, issued)) := allMeet (by decide +kernel)

theorem witness_DivisionFieldsMixingComparesAndPairs : AllMeet ([
    Instr.idiv true g0 (.v 3) (.v 1) (.k 0), .idiv false g0 (.v 3) (.v 1) (.v 2), .irem true g0 (.v 3) (.v 1) (.v 2),
    .irem false g0 (.v 3) (.v 1) (.v 2), .bfx true g0 (.v 3) (.v 1) (.v 2), .bfx false g0 (.v 3) (.v 1) (.v 2),
    .bfi g0 (.v 3) (.v 1) (.v 2), .bmix g0 (.v 3) (.v 1) (.v 2)].map fun i => (st, i, some')) := allMeet (by decide +kernel)

theorem witness_SelectsMovesAndRegisters : AllMeet ([
    Instr.sel g1 (.v 3) (.v 1) (.v 2), .mov g0 (.v 3) (.v 1), .movi g0 (.v 3) 1, .movh (.v 3) 1, .movs g0 (.v 3) 0x1B].map fun i => (st, i, some'))
    ∧ (∃ g la k, st.gang? 1 = some g ∧ st.launch? 1 = some la ∧ st.kernel? la.kernel = some k) :=
  ⟨allMeet (by decide +kernel), ⟨placeGang, { placeLaunch with ranges := [(0, 2 ^ 31)] }, placeKernel, by decide +kernel⟩⟩

theorem witness_DivisionFieldsMixingComparesAndPairs_pairs : AllMeet ([
    Instr.icmp .lt true g0 3 (.v 1) (.v 2), .icmpi .eq false g0 0 (.v 1) 5, .add64 g0 (.v 8) (.v 4) (.v 6), .sub64 g0 (.v 8) (.v 4) (.v 6),
    .lea g0 (.v 4) (.v 1) 31, .shl64 g0 (.v 8) (.v 4) (.v 1), .shr64 g0 (.v 8) (.v 4) (.v 1)].map fun i => (st, i, issued)) :=
  allMeet (by decide +kernel)

/-- 1.0: rounded, finite, nonzero and below the largest number, in each format. -/
theorem witness_RoundingAndFloatOperands : ∀ f ∈ formats, ∀ mode ∈ [RMode.rne, .rz, .rdn, .rup], ∀ neg : Bool,
    0 < 1 ∧ finite f (f.round mode false (.fin neg 1 0)) ∧ f.round mode false (.fin neg 1 0) ≠ f.nan
    ∧ f.mag (f.round mode false (.fin neg 1 0)) < f.maxMag := by
  unfold finite
  decide +kernel

/-- The quotient of 1 and 3, and the root of 3. -/
theorem witness_RoundingAndFloatOperands_quotients : ∀ mode ∈ [RMode.rne, .rz, .rdn, .rup],
    finite fp32 0x3F800000 ∧ finite fp32 0x40400000 ∧ rat (fp32.value 0x3F800000) ≠ 0 ∧ 0 < rat (fp32.value 0x40400000)
    ∧ fp32.mag (fp32.round mode false (FVal.div (fp32.value 0x3F800000) (fp32.value 0x40400000))) < fp32.maxMag := by
  unfold finite
  decide +kernel

theorem witness_FloatInstructions : AllMeet ([
    Instr.fadd g0 (.v 3) (.v 1) (.v 2), .fsub g0 (.v 3) (.v 1) (.v 2), .fmul g0 (.v 3) (.v 1) (.v 2), .fdiv g0 (.v 3) (.v 1) (.v 2),
    .ffma g0 (.v 3) (.v 1) (.v 2), .sqrt g0 (.v 3) (.v 1), .fscale g0 (.v 3) (.v 1) (.v 2), .fmin g0 (.v 3) (.v 1) (.v 2),
    .fmax g0 (.v 3) (.v 1) (.v 2), .fabs g0 (.v 3) (.v 1), .fneg g0 (.v 3) (.v 1), .fcmp .lt g0 3 (.v 1) (.v 2),
    .frint none g0 (.v 3) (.v 1), .fclass g0 (.v 3) (.v 1)].map fun i => (st, i, issued)) := allMeet (by decide +kernel)

/-- NaNs, numbers and an encoding with the sign bit. -/
theorem witness_FloatChoiceAndCompare :
    (fp32.isNan 0x7FC00000 = true ∧ fp32.isNan 0xFFFFFFFF = true ∧ fp32.isNan 0x80000000 = false)
    ∧ (0x3F800000 < 2 * fp32.signBit ∧ fp32.mag 0x3F800000 ≤ fp32.maxMag) ∧ (0xFF7FFFFF < 2 * fp32.signBit ∧ fp32.mag 0xFF7FFFFF ≤ fp32.maxMag) := by
  decide +kernel

theorem witness_RoundedFunctions : AllMeet ([
    Instr.rcp g0 (.v 3) (.v 1), .rsq g0 (.v 3) (.v 1), .exp2 g0 (.v 3) (.v 1), .log2 g0 (.v 3) (.v 1), .sinpi g0 (.v 3) (.v 1),
    .cospi g0 (.v 3) (.v 1), .tanh g0 (.v 3) (.v 1)].map fun i => ({ st with mod := { st.mod with stepping := 0xB0 } }, i, issued)) :=
  allMeet (by decide +kernel)

/-- 3, 1/2, -1/2, 128, -150 and 2^-149: an integer, half an odd number, powers of two, the limits of `exp2`, and a result beyond `rcp`'s. -/
theorem witness_RoundedFunctions_values :
    (∀ x ∈ [0x40400000, 0x3F000000, 0xBF000000, 0x43000000, 0xC3160000, 1], x < 2 ^ 32 ∧ finite fp32 x ∧ rat (fp32.value x) ≠ 0)
    ∧ rat (fp32.value 0x40400000) = ((3 : Int) : ℚ) ∧ rat (fp32.value 0x3F000000) = (2 : ℚ) ^ (-1 : Int)
    ∧ rat (fp32.value 0xBF000000) = ((-1 : Int) : ℚ) + 1 / 2 ∧ 128 ≤ rat (fp32.value 0x43000000) ∧ rat (fp32.value 0xC3160000) ≤ -150
    ∧ fp32.mag (fRcp (fp32.value 0x40400000)) < fp32.infMag ∧ ¬ fp32.mag (fRcp (fp32.value 1)) < fp32.infMag := by
  unfold finite
  decide +kernel

theorem witness_PackedHalvesAndControlWord : AllMeet (([
    Instr.hadd2 false g0 (.v 3) (.v 1) (.v 2), .hmul2 true g0 (.v 3) (.v 1) (.v 2), .hfma2 false g0 (.v 3) (.v 1) (.v 2),
    .hmin2 true g0 (.v 3) (.v 1) (.v 2), .hmax2 false g0 (.v 3) (.v 1) (.v 2), .setfpc .rz true g0].map fun i => (st, i, some'))
    ++ [(st, .setfpc .rz true g2, none')]) := allMeet (by decide +kernel)

theorem witness_ConversionsAndBlocks : AllMeet ([
    Instr.cvt true .e4m3 3 g0 (.v 3) (.v 1), .cvt false .bf16 1 g0 (.v 3) (.v 1), .cvtSat .s8 0 g0 (.v 3) (.v 1), .qmx g0 (.v 3) (.v 1) 5,
    .qdx g0 (.v 3) (.v 1) 5 7, .dqmx g0 (.v 3) (.v 1), .dqdx g0 (.v 3) (.v 1)].map fun i => (st, i, some')) := allMeet (by decide +kernel)

/-- A block with lanes in its range. -/
theorem witness_ConversionsAndBlocks_lanes : ∃ b : Block, b.elems.length = 32 ∧ (∀ q ∈ b.elems, q < 16) ∧ b.lo < 256 ∧ b.hi < 256 :=
  ⟨{ elems := List.replicate 32 15, lo := 255, hi := 255, sat := false }, by decide +kernel⟩

/-- The conversions' operands: a number, infinities and a NaN of FP32, and the elements of each narrow format that are such. -/
theorem witness_ConversionsAndBlockValues :
    (finite fp32 0x3F800000 ∧ fp32.value 0x7F800000 = .inf false ∧ fp32.value 0xFF800000 = .inf true ∧ fp32.value 0x7FC00000 = .nan)
    ∧ ∀ ty ∈ [CvtTy.f16, .bf16, .e4m3, .e5m2],
        let f := (cvtFmt ty).1
        let n := (cvtFmt ty).2
        0 < 32 / n ∧ 32 / n - 1 < 32 / n ∧ finite f (elemAt (BitVec.ofNat 32 f.maxMag) n 0) ∧ f.value (elemAt (BitVec.ofNat 32 f.nan) n 0) = .nan
          ∧ (f.inf = true → f.value (elemAt (BitVec.ofNat 32 f.infMag) n 0) = .inf false) := by
  unfold finite
  decide +kernel

/-- Blocks of zeros, with an infinity, with a NaN, and of numbers whose largest is 4 or 2^-149 (t = 2 and -149). -/
def blockOf (v : FVal) : List FVal := v :: List.replicate 31 (.fin false 0 0)
theorem witness_ConversionsAndBlockValues_blocks :
    (∀ v ∈ [FVal.fin false 0 0, .inf true, .nan, .fin true 1 2, .fin false 1 (-149)], (blockOf v).length = 32)
    ∧ (∀ v ∈ [fp32.value 0, fp32.value 0xC0800000, fp32.value 1], v ≠ .nan ∧ (∀ g, v ≠ .inf g))
    ∧ (finite fp32 0xC0800000 ∧ |rat (fp32.value 0xC0800000)| < 2 ^ (2 + 1 : Int) ∧ 2 ^ (2 : Int) ≤ |rat (fp32.value 0xC0800000)|)
    ∧ (finite fp32 1 ∧ |rat (fp32.value 1)| < 2 ^ (-149 + 1 : Int) ∧ 2 ^ (-149 : Int) ≤ |rat (fp32.value 1)|) ∧ rat (fp32.value 0) = 0
    ∧ (∀ D ∈ [1, 7], 1 ≤ D ∧ D ≤ 7) ∧ 15 < 16 ∧ 0 < 255 ∧ 254 < 255 := by
  unfold finite
  decide +kernel

theorem witness_FunctionsAndConversionsComplete : AllMeet ([
    Instr.rcp g0 (.v 3) (.v 1), .rsq g0 (.v 3) (.v 1), .exp2 g0 (.v 3) (.v 1), .log2 g0 (.v 3) (.v 1), .sinpi g0 (.v 3) (.v 1),
    .cospi g0 (.v 3) (.v 1), .tanh g0 (.v 3) (.v 1), .cvt true .e4m3 3 g0 (.v 3) (.v 1), .cvtSat .s8 0 g0 (.v 3) (.v 1),
    .qmx g0 (.v 3) (.v 1) 5, .qdx g0 (.v 3) (.v 1) 5 7, .dqmx g0 (.v 3) (.v 1), .dqdx g0 (.v 3) (.v 1)].flatMap fun i =>
      [(st, i, issued), ({ st with mod := { st.mod with stepping := 0xB0 } }, i, issued)]) := allMeet (by decide +kernel)

theorem witness_AcrossLanes : AllMeet ([
    Instr.plane g0 (.v 3) (.v 1) 31, .xlaneG g0 (.v 3) (.v 1) (.v 2), .xlaneRot g0 (.v 3) (.v 1) (.v 2), .xlaneX g0 (.v 3) (.v 1) (.v 2),
    .ptest .odd g0 3 1, .pmask g0 (.v 3) 1, .lfold .add g0 (.k 3) (.v 1), .lkey g0 (.v 3) (.v 1)].map fun i => (st, i, issued)) :=
  allMeet (by decide +kernel)

/-! ### The step, issue and exceptions -/

/-- A placed `mov v1, v2`: no input, no event due; the first entry of the first unit's order fetches it. -/
def placed : State := State.reset.withFetchWord 32 0x26004100
theorem witness_ASteppedWordRunsAsDecoded :
    placed.inputs = [] ∧ placed.forced = none ∧ placed.due = []
    ∧ (match placed.nextUnit with
       | some (u, s1) => (match s1.order u with
         | (t, e) :: _ => (match s1.thread? t with
           | some x => (s1.fetch t e x).res == .inr (.mov g0 (.v 1) (.v 2))
               && (match exec (.mov g0 (.v 1) (.v 2)) { s1.chosen u t e with iss := some (s1.fetch t e x).iss } with
                   | .next s3 => s3.iss.isNone
                   | _ => false)
           | none => false)
         | [] => false)
       | none => false) = true := by decide +kernel
/-- The clause of a fetch: the bundle's control word and the word at the pc, neither marked nor poisoned. -/
theorem witness_ASteppedWordRunsAsDecoded_fetch :
    (match placed.thread? 0 with
     | some x =>
       let pc := (x.split 0).pc
       !placed.trapsMix x.launch && !placed.leaseOut x.launch pc 4 && (placed.denied x.space pc .fetch).isNone
         && (placed.pa? x.space (pc / 32 * 32)).isSome && placed.codeWord x.space (pc / 32 * 32) == some 0
         && placed.codeWord x.space pc == some 0x26004100 && !placed.poisoned (placeFrame + 4) 4 && !placed.poisoned placeFrame 4
         && decode 0x26004100 [] == some (.mov g0 (.v 1) (.v 2))
     | none => false) = true := by decide +kernel

theorem witness_DecodeReadsEncodings : (Instr.mov g0 (.v 1) (.v 2)).wf = true ∧ (Instr.mov g0 (.v 1) (.v 2)).hasWord = true := by decide +kernel
theorem witness_EveryWordHasOneReading : decode 0x26004100 [] = some (.mov g0 (.v 1) (.v 2)) := by decide +kernel
theorem witness_TheMachineNeverStops :
    let s : State := { State.reset with inputs := [(0, .powerRemoved)], msgs := [.getS 0 0 0],
                                        res := { Resident.reset with calls := [.qpalloc 1] } }
    (∀ q ∈ s.inputs, q.2.event = true) ∧ (∀ m ∈ s.msgs, m.event = true) ∧ (∀ m ∈ s.res.calls, m.event = true) := by decide +kernel

theorem witness_ResultsAreWrittenByClass : ∃ x : Thread, SMap.wf 0 x.v = true ∧ 31 < 32 ∧ 23 < x.k.length ∧ 0 < 7 ∧ 7 < x.p.length :=
  ⟨strand (fill 1 3) [], by decide +kernel⟩

/-- Where the context of an instruction at issue meets a test, whatever faults it has. -/
def meets (s : State) (i : Instr) (p : Ctx → Bool) : Bool :=
  match s.ctx? i with
  | some c => p c
  | none => false

/-- An ill-formed term; v1 pending under the scoreboard; a register beyond the allocation; an unbound stream; lanes that differ. -/
theorem witness_FaultsAtIssue :
    meets st (.iadd g0 (.v 3) (.v 1) (.v 2)) (fun c => !st.interlocked c (.iadd g0 (.g 0) (.v 1) (.v 2)) && st.illegalAt c (.iadd g0 (.g 0) (.v 1) (.v 2)))
    ∧ (let i : Instr := .iadd g0 (.v 3) (.v 1) (.v 2)
       let on : State := { st with res := { st.res with launches := [(1, { placeLaunch with stallchk := true })] } }
       let x := strand (fill 1 3 ++ fill 2 5) []
       meets { on with threads := [(0, x.later 9 two (.v 1) two (laneVals two fun _ => 1))] } i
           (fun c => !st.interlocked c i && !on.illegalAt c i && on.scoreboard c.x.launch && c.short? i == some 1)
       ∧ meets { st with threads := [(0, { x with regs := 96, winBase := 32 })] } (.mov g0 (.v 64) (.v 1))
           (fun c => !st.interlocked c (.mov g0 (.v 64) (.v 1)) && !st.illegalAt c (.mov g0 (.v 64) (.v 1)) && !st.scoreboard c.x.launch
             && c.beyond? (.mov g0 (.v 64) (.v 1)) == some 96)
       ∧ meets st (.mov g0 (.v 3) (.g 7)) (fun c => !st.illegalAt c (.mov g0 (.v 3) (.g 7)) && (c.beyond? (.mov g0 (.v 3) (.g 7))).isNone
           && c.unbound? (.mov g0 (.v 3) (.g 7)) == some 7)
       ∧ meets (at' (strand [(38, 1), (39, 2)] [])) (.mov g0 (.k 3) (.v 1)) (fun c => (c.beyond? (.mov g0 (.k 3) (.v 1))).isNone
           && (c.unbound? (.mov g0 (.k 3) (.v 1))).isNone && c.nonuniform (.mov g0 (.k 3) (.v 1)) == 0x80)) := by decide +kernel
/-- The places: a strand's instruction in a context, a context's in a strand, a v register in a context, `eret` outside the handler. -/
theorem witness_FaultsAtIssue_places :
    let q := at' (context [])
    (Instr.fadd g0 (.v 1) (.v 1) (.v 1)).place = .s ∧ meets q (.fadd g0 (.v 1) (.v 1) (.v 1)) (fun c => c.x.seq)
    ∧ (Instr.mxrel g0 (.k 1)).place = .q ∧ meets st (.mxrel g0 (.k 1)) (fun c => !c.x.seq)
    ∧ meets q (.iadd g0 (.k 1) (.v 1) (.g 2)) (fun c => c.x.seq && (c.opnds (.iadd g0 (.k 1) (.v 1) (.g 2))).any (fun o => o.locs.contains (.v 1))
        && (c.opnds (.iadd g0 (.k 1) (.v 1) (.g 2))).any fun o => o.locs.contains (.g 2))
    ∧ meets st (.eret g0) (fun c => c.lanes != 0 && !c.sp.inH) ∧ AllMeet [(st, .illegal 0, issued)] :=
  ⟨by decide +kernel, by decide +kernel, by decide +kernel, by decide +kernel, by decide +kernel, by decide +kernel, allMeet (by decide +kernel)⟩

/-- The kernel names a handler at slot 2. `busy`: another split of the strand is in it, and entry 2's split is held. -/
def handled (inH busy : Bool) : State :=
  let x := strand (fill 1 3) []
  let s := at' { x with
    faultpc := placeText + 12
    splits := [{ (x.split 0) with inH := inH }, { Split.at (placeText + 8) 1 with inH := busy },
               { Split.at (placeText + 8) 2 with held := some { order := 0, code := 4, pc := placeText + 8, info := 0 } }, Split.reset] }
  { s with res := { s.res with kernels := [(1, { placeKernel with trap := some (placeText + 8) })] } }
theorem witness_TakingAndLeavingAnException :
    (∀ busy : Bool, meets (handled false busy) (.trap g0 9) (fun c => decide (c.e < c.x.splits.length) && !c.x.seq
        && (handled false busy).trapOf c.x == some (placeText + 8) && !c.sp.inH && c.x.handlerBusy == busy) = true)
    ∧ AllMeet [(st, .trap g2 9, none'), (st, .trap g0 9, some'),
        (handled true true, .eret g0, fun c => c.lanes != 0
          && (c.x.updSplit c.e fun p => { p with inH := false, pc := c.x.faultpc, sig := 0xFFFF }).handlerBusy),
        (handled true false, .eret g0, fun c => c.lanes != 0
          && (let x := c.x.updSplit c.e fun p => { p with inH := false, pc := c.x.faultpc, sig := 0xFFFF }
              !x.handlerBusy && (x.firstHeld.map (·.1)) == some 2 && (handled true false).trapOf c.x == some (placeText + 8)))] :=
  ⟨by decide +kernel, allMeet (by decide +kernel)⟩

/-! ### Control and strand state -/

/-- A stream of two dimensions whose inner end flag is `e`. -/
def stream (e : Bool) : Stream :=
  { base := 0x40001000, ndim := 1, ext := [2, 3, 1, 1], str := [4, 8, 0, 0], idx := [1, 0, 0, 0], ended := [e, false, false, false] }
/-- `st` with its thread changed. -/
def th (f : Thread → Thread) : State := { st with threads := st.threads.map fun c => (c.1, f c.2) }
/-- `st` with g1 bound. -/
def bound (e : Bool) : State := th fun x => { x with streams := setAt x.streams 1 (some (stream e)) }

theorem witness_BranchesDivideTheSplit : AllMeet [
    (st, .bra g1 2, fun c => c.sp.valid && st.isCode c.x (placeText + 12)), (st, .bra g0 (-1), fun c => c.sp.valid && !st.isCode c.x placeText),
    (st, .call g0 2, fun c => c.sp.valid && st.isCode c.x (placeText + 12)), (st, .call g0 7, fun c => !st.isCode c.x (placeText + 32)),
    (st, .gloop g0 1 0 2, fun c => (c.x.streams.getD 1 none).isNone), (bound false, .gloop g0 1 2 2, fun c => c.x.streams.getD 1 none == some (stream false)),
    (bound false, .gloop g0 1 0 (-1), fun c => !st.isCode c.x placeText), (bound false, .gloop g0 1 1 2, fun c => st.isCode c.x (placeText + 12)),
    (bound true, .gloop g0 1 0 2, fun c => !c.poisoned (.gloop g0 1 0 2) && c.x.streams.getD 1 none == some (stream true)),
    (bound true, .gloop g0 1 0 (-1), fun c => !st.isCode c.x placeText && !c.poisoned (.gloop g0 1 0 (-1)))] := allMeet (by decide +kernel)
/-- A guard with poison in its word, read by a branch whose target is good. -/
theorem witness_BranchesDivideTheSplit_poison : AllMeet [
    (st, .bra g1 2, fun c => !c.poisoned (.bra g1 2)), (st, .call g0 2, fun c => !c.poisoned (.call g0 2)),
    (th fun x => { x with poison := [2 ^ 21] }, .bra g1 2, fun c => c.poisoned (.bra g1 2) && st.isCode c.x (placeText + 12))] :=
  allMeet (by decide +kernel)

theorem witness_IndirectTransfers :
    (∃ x : Thread, 0 < x.splits.length ∧ (x.split 0).valid = true ∧ (∀ l ∈ [6], l < 32 ∧ hasLane (x.split 0).mask l = true)
        ∧ (x.split 0).top = some 2 ∧ 2 < x.recs.length)
    ∧ AllMeet [
      (at' (strand (fill 30 0x4000000C) []), .ret g0, fun c => (lanesOf c.lanes).all fun l => st.isCode c.x (c.linkAt l)),
      (at' (strand [(966, 0x4000000C), (967, 0x40000000)] []), .ret g0, fun c => st.isCode c.x (c.linkAt 6) && !st.isCode c.x (c.linkAt 7)),
      (st, .ret g2, none'), (st, .brx g2 (.v 3) 0 0, none'),
      (st, .brx g0 (.v 3) 0 0, fun c => (lanesOf c.lanes).all fun l => decide ((c.x.get (.v 3) l).toNat < 1)
        && st.tableEntry c.x.space ((c.tableAt 0 + 0) % 2 ^ 48) == some 8 && st.isCode c.x (placeText + 8)),
      (at' (strand [(103, 1)] []), .brx g0 (.v 3) 0 0, fun c => decide ((c.x.get (.v 3) 6).toNat < 1) && decide (1 ≤ (c.x.get (.v 3) 7).toNat))] :=
  ⟨⟨{ strand [] [] with splits := [{ Split.at 0 two with top := some 2 }] }, by decide +kernel⟩, allMeet (by decide +kernel)⟩

/-- A strand whose first join records are in use, the first of them the top one. -/
def joined (n : Nat) (x : Thread) : Thread :=
  { x with recs := (List.range 16).map fun r =>
             if r < n then { used := true, addr := placeText + 16, recorded := two, parked := 0, inH := 0, count := 1, below := none } else JoinRec.reset
           splits := updAt x.splits 0 fun p => { p with top := if n = 0 then none else some 0 } }
theorem witness_JoinsAndExits : AllMeet [
    (st, .joinat (-1), fun c => !st.isCode c.x (c.label (-1 : BitVec 21))), (th (joined 16), .joinat 2, fun c => c.x.recs.all fun r => r.used),
    (th (joined 15), .joinat 2, fun c => st.isCode c.x (c.label (2 : BitVec 21)) && !(c.x.record 15).used && (List.range 15).all fun q => (c.x.record q).used),
    (st, .exit g2, none'), (th (joined 1), .exit g1, fun c => !c.x.seq && c.lanes != 0 && c.sp.mask &&& ~~~c.lanes != 0 && (c.x.chain 17 c.sp.top).contains 0),
    (st, .exit g0, fun c => !c.x.seq && c.sp.mask &&& ~~~c.lanes == 0), (at' (context []), .exit g0, fun c => c.x.seq && c.lanes != 0)]
    ∧ SMap.wf Home.reset (at' (context [])).homes = true ∧ SMap.risingFrom 0 (at' (context [])).threads = true :=
  ⟨allMeet (by decide +kernel), by decide +kernel⟩

/-- A launch and a kernel with Signet on. -/
def signet (s : State) : State :=
  { s with res := { s.res with launches := [(1, { placeLaunch with signet := true })], kernels := [(1, { placeKernel with signet := true })] } }
theorem witness_WindowSignatureBreaksTicksAndStalls : AllMeet [
    (st, .nop g0, issued), (st, .yield g2, none'), (st, .yield g0, fun c => some' c && !c.x.seq), (at' (context []), .yield g0, fun c => some' c && c.x.seq),
    (st, .winb g2 1, none'), (th (fun x => { x with regs := 480 }), .winb g0 15, fun c => decide (c.x.regs ≤ 32 * 15)),
    (st, .winb g0 15, fun c => decide (32 * 15 < c.x.regs)),
    (st, .rgn (.v 65) 32 (.v 0) 0, issued), (th (fun x => { x with regs := 96, winBase := 32 }), .rgn (.v 33) 32 (.v 0) 0, issued),
    (st, .rgn (.v 0) 0 (.v 0) 0, issued), (st, .rgn (.v 64) 32 (.v 0) 0, fun c => decide ((st.quad (c.t / 16)).places < 4)),
    ({ st with quads := [(0, { last := 0, places := 4 })] }, .rgn (.v 8) 1 (.v 40) 31, issued),
    (st, .sigchk 5, fun c => !st.signetOn c.x.launch), (signet st, .sigchk 0, fun c => (signet st).signetOn c.x.launch && c.sp.sig != 0),
    (signet st, .sigchk 0xFFFF, fun c => c.sp.sig == 0xFFFF)] := allMeet (by decide +kernel)

/-! ### Memory and synchronisation -/

/-- The line of address 0x40001000: its frame's. -/
def pl : Nat := 0x100001000 / 128
/-- A filled L1 line with bytes 0 to 127. -/
def line (st : CSt) (sw : Bool) : Line :=
  { Line.reset with st := st, sw := sw, filled := true, data := LineData.ofBytes ((List.range 128).map fun i => BitVec.ofNat 8 i) }
/-- `st` whose core holds the line of its address in a state. -/
def holding (l : Line) (x : Thread := strand (fill 1 3 ++ fill 2 5 ++ fill 4 0x40001000 ++ fill 6 1) [0, 0, 0x40001000, 0, 1, 1]) : State :=
  { at' x with cores := [(0, { Core.reset with l1 := [(pl, l)] })] }
/-- The address of v4:v5, or of k2:k3, in these witnesses. -/
def va : Nat → DWord := fun _ => 0x40001000
/-- The test of a load or an atomic of `w` bytes: allowed, with its lines, and unpoisoned. -/
def loads (s : State) (w : Nat) : Ctx → Bool := fun c =>
  c.lanes != 0 && decide (Allowed s c va w .load) && decide (First s c) && decide (Cached s c (lines s c va w)) && decide (Clean s c va w)
    && lines s c va w != []
def stores (s : State) (w : Nat) : Ctx → Bool := fun c =>
  c.lanes != 0 && decide (Allowed s c va w .store) && decide (First s c) && decide (Storable s c (lines s c va w)) && lines s c va w != []
/-- An access to one line, which is on its way. -/
def moves (s : State) (w : Nat) : Ctx → Bool := fun c =>
  c.lanes != 0 && decide (Allowed s c va w .store) && decide (First s c)
    && (match lines s c va w with
        | [r] => !r.l2 && (s.l1 c.x.cid r.pl).moving
        | _ => false)
/-- The state of a release at cluster scope, where nothing holds it up. -/
def freed (s : State) (c : Ctx) : State := if c.x.seq then s else s.releaseLines c.x.cid
def mayRelease (s : State) (sc : Scope) (m : Mask) (c : Ctx) : Bool :=
  decide (Unwatched c m) && (c.x.seq || s.releaseBlocked c.x.cid == []) && (sc != .dom || s.remoteDone c.x.uid m)
/-- `freed` is what a release leaves. -/
theorem released {s : State} {sc : Scope} {m : Mask} {c : Ctx} (w : scopeWide sc = true) (h : mayRelease s sc m c = true) :
    Released s c sc m (freed s c) := by
  simp only [mayRelease, Bool.and_eq_true, Bool.or_eq_true, decide_eq_true_eq, beq_iff_eq] at h
  refine ⟨h.1.1, ?_⟩
  rw [if_pos w]
  exact ⟨h.1.2, fun e => by subst e; simpa using h.2, rfl⟩

theorem witness_MemoryAsACoreSeesIt :
    (holding (line .M false)).memoryOk ∧ (holding (line .M false)).pa? 1 0x4000107F = some 0x10000107F ∧ 0x10000107F % 128 + 1 ≤ 128
    ∧ SMap.risingFrom 0 (holding (line .M false)).cores = true ∧ SMap.risingFrom 0 ((holding (line .M false)).core 0).l1 = true
    ∧ ((holding (line .M false)).l1 0 (lineOf 0x10000107F)).readable = true ∧ st.monitors = [] := by
  unfold State.memoryOk; decide +kernel

/-- A context reads the homes (R129): the line is present at its home. -/
def contextAt : State :=
  { at' (context [0, 0, 0x40001000, 0]) with homes := [(pl, { Home.reset with present := true, reserved := some (gangAgent 1) })] }
theorem witness_LoadsAndPrefetches : AllMeet [
    (holding (line .S true), .ld .b64 g0 (.v 8) (.v 4) 0 none, loads (holding (line .S true)) 8),
    (holding (line .S true), .ld .b8 g1 (.v 8) (.v 4) 0 (some 0), loads (holding (line .S true)) 1), (st, .ld .b32 g2 (.v 8) (.v 4) 0 none, none'),
    (holding (line .S true), .ldB128Signed .b128 g0 (.v 8) (.v 4) none, loads (holding (line .S true)) 16),
    (holding (line .S true), .ldB128Signed .s16 g0 (.v 8) (.v 4) (some 0), loads (holding (line .S true)) 2),
    (st, .ld .b32 g0 (.v 8) (.v 6) 0 none, fun c => decide (((c.ea (.v 6) 0) 6).toNat % 4 ≠ 0)),
    (holding (line .S true), .ldk .b32 g0 (.k 8) (.k 2) none, fun c => !c.x.seq && loads (holding (line .S true)) 4 { c with lanes := 1 <<< lowLane c.lanes }),
    (contextAt, .ldk .b64 g0 (.k 8) (.k 2) none, fun c => c.x.seq && decide (Allowed contextAt c va 8 .load) && lanesOf c.lanes == [0]
      && (match contextAt.seqRead c 0x40001000 8 with
          | .inr (_, _, false) => true
          | _ => false)), (st, .pf g0 (.v 4) none, issued), (holding (line .IS_D true), .ld .b32 g0 (.v 8) (.v 4) 0 none, moves (holding (line .IS_D true)) 4)]
    ∧ (0x80 < 2 ^ (8 * Width.s8.bytes) ∧ 0 < Width.s8.regs) ∧ (2 ^ 128 - 1 < 2 ^ (8 * Width.b128.bytes) ∧ 3 < Width.b128.regs) :=
  ⟨allMeet (by decide +kernel), by decide +kernel⟩

theorem witness_StoresStoreEachLane : AllMeet [
    (holding (line .M false), .st .b32 g0 (.v 1) (.v 4) 0 none, stores (holding (line .M false)) 4), (st, .st .b32 g2 (.v 1) (.v 4) 0 none, none'),
    (holding (line .S true), .st .b8 g1 (.v 1) (.v 4) 0 (some 0), stores (holding (line .S true)) 1),
    (holding (line .E false), .stB128 g0 (.v 4) (.v 4) none, stores (holding (line .E false)) 16), (st, .stB128 g2 (.v 4) (.v 4) none, none')] :=
  allMeet (by decide +kernel)

/-- Entries of the Loupe for both lanes: struck or not. -/
def watched (struck : Bool) (s : State) : State :=
  { s with threads := s.threads.map fun c => (c.1, { c.2 with loupe := [
      { line := 0x40001000 / 128, pline := pl, fver := 0, stamp := 0, mask := two, struck := struck, serial := 9, since := 0 }] }) }
def owned : State := holding (line .M false)
/-- A dirty SW line, kept at its home for another agent: a release waits for it. -/
def late : State :=
  let s := holding { line .S true with dirty := 1 }
  { s with homes := [(pl, { Home.reset with present := true, reserved := some hubAgent })] }
/-- No acquiring read of the lanes meets a release that it does not include. -/
def unmixed (s : State) (sc : Scope) (w : Nat) (c : Ctx) : Bool :=
  (lines s c va w).all fun r => (s.scopeMix c.x sc (s.relOf c.x.cid r.pl)).isNone
/-- The test of an acquire at cluster scope or wider, whose line the core owns. -/
def acquires (s : State) (c : Ctx) : Bool :=
  let t := s.acquire c.x.cid
  !c.x.seq && s.acquireBlocked c.x.cid == [] && decide (First t c) && decide (Cached t c (lines t c va 4)) && decide (Clean t c va 4)
    && (lines t c va 4).all (fun r => !(t.l1 c.x.cid r.pl).untracked) && unmixed t .cls 4 c
def releases (m : Ctx → Mask) : Ctx → Bool := fun c =>
  some' c && !c.x.seq && decide (Allowed owned c va 4 .store) && mayRelease owned .dom (m c) c && decide (First (freed owned c) c)
theorem witness_AcquiresReleasesAndFences : AllMeet [
    (owned, .ldAcq .b32 .grp g0 (.v 8) (.v 4) none, fun c => loads owned 4 c && unmixed owned .grp 4 c),
    (owned, .ldAcq .b32 .cls g0 (.v 8) (.v 4) none, fun c => some' c && decide (Allowed owned c va 4 .load) && decide (First owned c) && acquires owned c),
    (st, .ldAcq .b32 .cls g2 (.v 8) (.v 4) none, none'), (st, .stRel .b32 .cls g2 (.v 8) (.v 4) none, none'),
    (watched true owned, .stRel .b32 .str g0 (.v 1) (.v 4) none, fun c => some' c && decide (Allowed owned c va 4 .store)
      && c.x.loupe.all (fun e => e.struck && e.mask &&& c.lanes != 0)),
    (owned, .stRel .b32 .grp g0 (.v 1) (.v 4) none, fun c => stores owned 4 c && decide (Unwatched c c.lanes)),
    (late, .stRel .b32 .cls g0 (.v 1) (.v 4) none, fun c => some' c && !c.x.seq && decide (Allowed late c va 4 .store) && decide (Unwatched c c.lanes)
      && late.releaseBlocked c.x.cid != []),
    (owned, .stRel .b32 .dom g0 (.v 1) (.v 4) none, releases Ctx.lanes),
    (st, .fence .ar .dom g2, none'), (st, .fence .ar .grp g0, fun c => some' c && decide (Unwatched c c.act)), 
    (owned, .fence .acq .cls g0, fun c => some' c && decide (First owned c) && acquires owned c),
    (owned, .fence .rel .dom g0, releases Ctx.act),
    (owned, .fence .ar .dom g0, fun c => releases Ctx.act c && (freed owned c).acquireBlocked c.x.cid == []),
    (watched true st, .fence .rel .die g0, fun c => some' c && c.x.loupe.all fun e => e.struck && e.mask &&& c.act != 0)]
    -- an untracked SW line, with clean bytes and with none; one owned
    ∧ (let l := { line .S true with dirty := 1 }
       st.monitors = [] ∧ SMap.wf Core.reset (holding l).cores = true ∧ SMap.wf Line.reset ((holding l).core 0).l1 = true
       ∧ l.untracked = true ∧ l.hasClean = true ∧ ({ line .S true with dirty := allBytes }).hasClean = false ∧ (line .M false).exclusive = true) :=
  ⟨allMeet (by decide +kernel), by decide +kernel⟩

/-- `holding` of a line, whose strand has a full table of watches of other lines. -/
def tabled (l : Line) : State :=
  let s := holding l
  let e : Loupe := { line := 0, pline := 0, fver := 0, stamp := 0, mask := two, struck := false, serial := 9, since := 0 }
  { s with threads := s.threads.map fun c => (c.1, { c.2 with loupe := List.replicate 32 e }) }
theorem witness_WatchedLoadsMakeEntries : AllMeet [
    (st, .ldw .b32 g2 (.v 8) (.v 4) none, none'),
    (holding (line .S true), .ldw .b32 g0 (.v 8) (.v 4) none, fun c => loads (holding (line .S true)) 4 c && decide (c.x.loupe.length + (lines st c va 4).length ≤ 32)
      && (lines st c va 4).all fun r => ((holding (line .S true)).l1 c.x.cid r.pl).filled),
    (tabled (line .M true), .ldw .b32 g0 (.v 8) (.v 4) none, fun c => loads (tabled (line .M true)) 4 c && decide (32 ≤ c.x.loupe.length)
      && (match lines (tabled (line .M true)) c va 4 with
          | [r] => (let l := (tabled (line .M true)).l1 c.x.cid r.pl; l.filled && l.exclusive && c.x.loupe.all fun e => !e.covers r l)
            && !(tabled (line .M true)).leased c.x.cid r.pl
          | _ => false)),
    -- a line that is not there; one that is, with an entry of this fill, with none, and with a full table
    (st, .nop g0, fun c => !(st.l1 c.x.cid pl).readable),
    (watched false (holding (line .S true)), .nop g0, fun c => c.x.loupe.any fun w => w.line == 0x40001000 / 128 && w.stamp == (line .S true).stamp),
    (holding (line .S true), .nop g0, fun c => c.x.loupe.isEmpty && (line .S true).readable && (line .S true).filled && (line .S true).asker == none),
    (tabled (line .S true), .nop g0, fun c => decide (32 ≤ c.x.loupe.length))] := allMeet (by decide +kernel)

/-- A watch message in flight for the entry of serial 9, its home's record present. -/
def inFlight (v : Option Bool) (stamp : Nat) : State :=
  let s := watched false (holding (line .S true))
  { s with
    watches := [{ serial := 9, core := 0, pline := pl, fver := 0, stamp := stamp, verdict := v }]
    homes := [(pl, { Home.reset with present := true })], cycle := 32768 }
theorem witness_WatchesAreDecidedAndChecked :
    -- the last cycle in which a fill at cycle 1 is confirmed, and one that comes too late
    (∀ k ∈ [1, 0], ∃ q, (inFlight none k).watches = [q] ∧ q.verdict = none ∧ (((inFlight none k).home pl).stamp ≤ q.stamp) ∧
        ((inFlight none k).cycle < q.stamp + 32768 ↔ k = 1))
    ∧ (∀ v : Bool, ∃ x e, (inFlight (some v) 1).thread? 0 = some x ∧ x.loupe = [e] ∧ e.serial = 9 ∧ e.struck = false
        ∧ (∃ q ∈ (inFlight (some v) 1).watches, q.serial = 9 ∧ q.verdict = some v) ∧ e.since + 8000 ≤ (inFlight (some v) 1).cycle)
    ∧ AllMeet [(watched false st, .wchk g0 3, fun c => c.x.loupe.any fun w => !w.struck && w.mask &&& c.lanes != 0),
        (watched true st, .wchk g0 0, fun c => c.x.loupe.all fun w => w.struck), (st, .wchk g0 3, fun c => c.x.loupe.isEmpty)] := by
  refine ⟨?_, ?_, allMeet (by decide +kernel)⟩
  · intro k hk
    refine ⟨{ serial := 9, core := 0, pline := pl, fver := 0, stamp := k, verdict := none }, ?_⟩
    revert k; decide +kernel
  · intro v
    refine ⟨_, _, rfl, rfl, ?_⟩
    revert v; decide +kernel

/-- A core whose scratchpad holds, from byte 0, a deque of four entries at a byte with HEAD 0 and the TAIL given; some words are poisoned. -/
def padAt (base tail : Nat) (pois : List Nat := []) : State :=
  { at' (strand (fill 1 1 ++ fill 2 5 ++ fill 4 16 ++ fill 6 1) [0, 0, 0x40001000, 0]) with
    cores := [(0, { Core.reset with scratch := if base = 0 then [(12, 3)] else [(8, BitVec.ofNat 8 base), (12, 3)], scratchPois := pois })] }
    |> fun s => s.scratchPut (0, 4) (leBytes 4 tail)
def pad (tail : Nat) : State := padAt 64 tail
theorem witness_TheScratchpad :
    placeGang.groups[0]? = some { core := 0, scratch := 0, bars := 0, live := 1 } ∧ placeGang.size ≤ 0xC0000
    ∧ 0xBFFFF < placeGang.size ∧ placeGang.size ≤ 0xC0000 ∧ 0xC0000 < 0x1000000
    ∧ AllMeet [
      (pad 0, .lds .b32 g0 (.v 8) (.v 3), fun c => decide (InScratch (pad 0) c (fun l => (c.x.get (.v 3) l).toNat) 4)
        && (lanesOf c.lanes).all fun l => !(pad 0).scratchBad ((pad 0).scratchOf c (c.x.get (.v 3) l).toNat) 4),
      (pad 0, .sts .b128 g0 (.v 4) (.v 4), fun c => decide (InScratch (pad 0) c (fun l => (c.x.get (.v 4) l).toNat) 16)),
      (pad 0, .atoms .addN g0 (.v 8) (.v 3) (.v 1), fun c => decide (InScratch (pad 0) c (fun l => (c.x.get (.v 3) l).toNat) 4)
        && (lanesOf c.lanes).all fun l => !(pad 0).scratchBad ((pad 0).scratchOf c (c.x.get (.v 3) l).toNat) 4),
      (st, .atomsBcast true true g2 (.v 8) (.v 3) (.v 1), none'),
      (pad 0, .atomsBcast false true g0 (.v 8) (.v 3) (.v 1), fun c => some' c && mayRelease (pad 0) .cls c.lanes c
        && (match (pad 0).gang? c.x.gang with
            | some g => (g.groups[c.x.group]?).isSome && g.groups.all fun x =>
                !(freed (pad 0) c).scratchBad ((g.die * 8 + g.cluster) * 8 + x.core, x.scratch + (c.x.get (.v 3) (lowLane c.lanes)).toNat) 4
            | none => false)),
      (pad 0, .lds .b32 g0 (.v 8) (.v 1), fun c => decide ((c.x.get (.v 1) (lowLane c.lanes)).toNat % 4 ≠ 0)),
      (at' (strand [(39, 0xC0000)] []), .sts .b8 g0 (.v 3) (.v 1), fun c => (pad 0).scratchOk c.x 0 1 && !(pad 0).scratchOk c.x 0xC0000 1)]
    ∧ SMap.wf Core.reset (pad 0).cores = true ∧ SMap.risingFrom 0 ((pad 0).core 0).scratch = true :=
  ⟨by decide +kernel, by decide +kernel, by decide +kernel, by decide +kernel, by decide +kernel, allMeet (by decide +kernel), by decide +kernel⟩

/-- What the lanes of a deque operation come to: the lanes served, or the fault that one met. -/
def served (s : State) (op : DqOp) (c : Ctx) : Option DqBad :=
  match State.dqLanes c (s.scratchOf c 0) 0 placeGang.size op (.v 6) (lanesOf c.lanes) (if op == .push then freed s c else s) [] with
  | .inl b => some b
  | .inr _ => none
/-- A deque at scratchpad byte 0 that is neither poisoned nor malformed, with what its lanes come to. -/
def deque (s : State) (op : DqOp) (b : Option DqBad) : Ctx → Bool := fun c =>
  some' c && s.scratchOk c.x 0 16 && !s.scratchBad (s.scratchOf c 0) 16 && !(dequeOf (s.scratchGet (s.scratchOf c 0) 16)).bad placeGang.size
    && (op != .push || mayRelease s .cls c.lanes c) && served s op c == b
theorem witness_Deques :
    -- descriptors poisoned, malformed and neither; queues that are full, empty and neither; an entry poisoned
    ((padAt 64 1 [0]).scratchBad (0, 0) 16 = true ∧ (padAt 1 1).scratchBad (0, 0) 16 = false
      ∧ (dequeOf ((padAt 1 1).scratchGet (0, 0) 16)).bad placeGang.size = true
      ∧ ∀ n ∈ [0, 1, 4], (pad n).scratchBad (0, 0) 16 = false ∧ (dequeOf ((pad n).scratchGet (0, 0) 16)).bad placeGang.size = false
          ∧ (dequeOf ((pad n).scratchGet (0, 0) 16)).tail = n ∧ (dequeOf ((pad n).scratchGet (0, 0) 16)).head = 0
          ∧ (dequeOf ((pad n).scratchGet (0, 0) 16)).mask = 3)
    ∧ ((pad 1).gang? 1).isSome = true
    ∧ AllMeet ([Instr.dqpush g2 3 (.v 6) (.v 3), .dqpop g2 3 (.v 8) (.v 3), .dqsteal g2 3 (.v 8) (.v 3)].map fun i => (pad 1, i, none'))
    ∧ AllMeet [(pad 1, .dqpush g0 3 (.v 6) (.v 3), deque (pad 1) .push none), (pad 1, .dqpop g0 3 (.v 8) (.v 3), deque (pad 1) .pop none),
        (pad 1, .dqsteal g0 3 (.v 8) (.v 3), deque (pad 1) .steal none), (padAt 64 1 [8], .dqpop g0 3 (.v 8) (.v 3), deque (padAt 64 1 [8]) .pop (some .poison)),
        (padAt 0 1, .dqpush g0 3 (.v 6) (.v 3), deque (padAt 0 1) .push (some .range)),
        (padAt 64 1 [0], .dqpop g0 3 (.v 8) (.v 3), fun c => some' c && (padAt 64 1 [0]).scratchOk c.x 0 16 && (padAt 64 1 [0]).scratchBad ((pad 1).scratchOf c 0) 16),
        (padAt 1 1, .dqsteal g0 3 (.v 8) (.v 3), fun c => some' c && (padAt 1 1).scratchOk c.x 0 16
          && (dequeOf ((padAt 1 1).scratchGet ((padAt 1 1).scratchOf c 0) 16)).bad placeGang.size)] :=
  ⟨by decide +kernel, by decide +kernel, allMeet (by decide +kernel), allMeet (by decide +kernel)⟩

/-- The test of an atomic in owned lines, from a state on. -/
def atomics (s : State) : Ctx → Bool := fun c =>
  decide (Allowed owned c va 4 .store) && decide (First s c) && decide (Owned s c (lines s c va 4)) && decide (Clean s c va 4)
/-- `owned` with lane 6 alone, and its word poisoned. -/
def poisonedWord : State := holding { line .M false with pois := 1 } (strandOf 0x40 (fill 1 3 ++ fill 2 5 ++ fill 4 0x40001000) [])
theorem witness_GlobalAtomics : AllMeet [
    (owned, .atomAddS32 g0 (.v 8) (.v 4) (.v 1), fun c => some' c && atomics owned c), (st, .atomAddS32 g2 (.v 8) (.v 4) (.v 1), none'),
    (owned, .atom .cas none g0 (.v 8) (.v 4) (.v 1), fun c => some' c && atomics owned c), (st, .atom .fadd none g2 (.v 8) (.v 4) (.v 1), none'),
    (holding (line .IM_D false), .atomAddS32 g0 (.v 8) (.v 4) (.v 1), moves (holding (line .IM_D false)) 4),
    (poisonedWord, .atomAddS32 g0 (.v 8) (.v 4) (.v 1), fun c => lanesOf c.lanes == [6] && decide (Allowed poisonedWord c va 4 .store)
      && decide (First poisonedWord c) && (lines poisonedWord c va 4).length == 1 && decide (Owned poisonedWord c (lines poisonedWord c va 4))
      && !decide (Clean poisonedWord c va 4)),
    (owned, .atom .maxS (some (.acq, .cls)) g0 (.v 8) (.v 4) (.v 1), fun c => some' c && atomics owned c && unmixed owned .cls 4 c),
    (owned, .atom .addS (some (.ar, .dom)) g0 (.v 8) (.v 4) (.v 1), fun c => some' c && mayRelease owned .dom c.lanes c && atomics (freed owned c) c
      && unmixed (freed owned c) .dom 4 c)] := allMeet (by decide +kernel)

/-- Addresses of two physical lines, one word in both lanes' line. -/
theorem witness_GlobalAtomics_lines : ∀ va ∈ [0x40001080, 0x40001000, 0x40001004], (st.pa? 1 va).isSome = true := by decide +kernel

/-- The lease of a strand of core 0 on the line, ending in cycle 5. -/
def leaseBy (t uid : Nat) : Lease := { t := t, uid := uid, cid := 0, gang := 1, group := 0, line := pl, until' := 5 }
/-- `owned` whose strand holds a lease. -/
def leasing (n : Nat) : State := { owned with leases := [leaseBy 0 1], cycle := n }
/-- `owned` whose line another strand holds under lease. -/
def leasedOut : State := { owned with leases := [leaseBy 1 2] }
/-- A lease of n cycles asked for; n as given. -/
def asks (s : State) (n : Word) (c : Ctx) : Bool :=
  some' c && decide (Allowed s c va 1 .store) && decide (First s c) && c.x.get (.v 3) (lowLane c.lanes) == n
/-- The lines of a lease, its strand's own having ended. -/
def leaseLines (s : State) (p : State → LReq → Bool) (c : Ctx) : Bool :=
  let t := s.endOwnLease c
  match t.lineReqs c.x.space 1 [(va 0).toNat] with
  | [r] => p t r
  | _ => false
theorem witness_LeasesHoldAndEnd :
    let three (s : State) : State := { s with threads := s.threads.map fun c => (c.1, { c.2 with v := fill 3 3 ++ fill 4 0x40001000 }) }
    AllMeet [
    (st, .lease g2 (.v 1) (.v 4), none'), (leasing 0, .lease g0 (.v 3) (.v 4), asks (leasing 0) 0),
    (three leasedOut, .lease g0 (.v 3) (.v 4), fun c => asks (three leasedOut) 3 c && leaseLines (three leasedOut) (fun t r => t.leased c.x.cid r.pl) c),
    (three owned, .lease g0 (.v 3) (.v 4), fun c => asks (three owned) 3 c
      && leaseLines (three owned) (fun t r => !r.l2 && !t.leased c.x.cid r.pl && decide (t.leaseCount c.x.cid < 16) && decide (Owned t c [r])) c),
    (st, .unlease g2, none'), (leasing 0, .unlease g0, fun c => some' c && (leasing 0).leaseOf c.t c.x.uid == some (leaseBy 0 1)),
    (owned, .unlease g0, fun c => some' c && owned.leaseOf c.t c.x.uid == none)]
    ∧ (∀ n ∈ [4, 5], (leasing n).leases = [leaseBy 0 1] ∧ (leaseBy 0 1).t = 0 ∧ ((leaseBy 0 1).until' ≤ (leasing n).cycle ↔ n = 5)) :=
  ⟨allMeet (by decide +kernel), by decide +kernel⟩

/-- A monitor of the strand's entry 0 for the word of `st`'s address. -/
def monitor (sc : Scope) (val : Word) (reg : Bool) : Monitor :=
  { id := 7, t := 0, e := 0, uid := 1, va := 0x40001000, pa := 0x100001000, cond := .eq, val := val, scope := sc, registered := reg, retry := 0,
    pc := placeText + 4 }
/-- `st` with monitors, the word's home record present. -/
def monitored (ms : List Monitor) : State := { st with monitors := ms, homes := [(pl, { Home.reset with present := true })] }
/-- The state of a queue: a placeholder of group 0 for the region of k2:k3. -/
def queued (started : Bool) : State :=
  { st with gangs := [(1, { placeGang with queue := [{ id := 4, op := .place true 0x40001000 0 1, pc := 0, started := started, since := 0,
                                                       count := 0, read := [], bad := false }] })] }
/-- A copy of 16 bytes from the address to scratchpad byte 0; v2 of the two lanes may be poisoned. -/
def copying (n : Word) (k : Word := 0) (pois : Bool := false) : State :=
  at' { (strand (fill 2 n ++ fill 3 k ++ fill 4 0x40001000) []) with poison := if pois then [35] else [] }
/-- A wait for a region, its label in the text, with no poison read. -/
def regions (s : State) (p : Option (Option Cmd) → Bool) : Ctx → Bool := fun c =>
  some' c && s.isCode c.x (c.label (2 : BitVec 14)) && !c.poisoned (.rgwait g0 (.k 2) 2)
    && p ((s.gang? c.x.gang).map fun g => g.placeholder? c.x.group (c.x.get64 (.k 2) (lowLane c.lanes)))
/-- A count on a placeholder, its release over. -/
def counts (s : State) (p : Option Cmd → Bool) : Ctx → Bool := fun c =>
  some' c && mayRelease s .cls c.act c && (match (freed s c).gang? c.x.gang with
    | some g => p (g.placeholder? c.x.group (c.x.get64 (.k 2) (lowLane c.lanes)))
    | none => false)

theorem witness_WaitsPlaceholdersAndCopies : AllMeet [
    (st, .waitc .geN .cls g2 (.v 1) (.v 4), none'), (st, .waitc .geN .cls g0 (.v 1) (.v 4), fun c => some' c && decide (Allowed st c va 4 .load)),
    (st, .rgwait g2 (.k 2) 2, none'), (st, .rgwait g0 (.k 2) (-1), fun c => some' c && !st.isCode c.x (c.label (-1 : BitVec 14))),
    ({ st with gangs := [] }, .rgwait g0 (.k 2) 2, regions { st with gangs := [] } fun g => g.isNone),
    (st, .rgwait g0 (.k 2) 2, regions st fun g => g == some none),
    (queued false, .rgwait g0 (.k 2) 2, regions (queued false) fun g => g.any fun q => q.any fun q => !q.started),
    (queued true, .rgwait g0 (.k 2) 2, regions (queued true) fun g => g.any fun q => q.any fun q => q.started),
    (st, .rgdone g2 (.k 2), none'), (st, .rgdone g0 (.k 2), counts st Option.isNone),
    (queued false, .rgdone g0 (.k 2), counts (queued false) fun q => q.any fun q => !q.started),
    (queued true, .rgdone g0 (.k 2), counts (queued true) fun q => q.any fun q => q.started),
    (copying 16, .cpyY g2 (.v 3) (.v 4) (.v 2) 8, none'), (copying 16, .cpyY g0 (.v 3) (.v 4) (.v 2) (-1), fun c => some' c && !st.isCode c.x (c.label (-1 : BitVec 32))),
    (copying 16 0 true, .cpyY g0 (.v 3) (.v 4) (.v 2) 2, fun c => some' c && st.isCode c.x (c.label (2 : BitVec 32)) && c.poisoned (.cpyY g0 (.v 3) (.v 4) (.v 2) 2)),
    (copying 8, .cpyY g0 (.v 3) (.v 4) (.v 2) 2, fun c => some' c && st.isCode c.x (c.label (2 : BitVec 32)) && !c.poisoned (.cpyY g0 (.v 3) (.v 4) (.v 2) 2)),
    (copying 16 0xC0000, .cpyY g0 (.v 3) (.v 4) (.v 2) 2, fun c => !st.scratchOk c.x 0xC0000 16),
    (copying 0, .cpyY g0 (.v 3) (.v 4) (.v 2) 2, fun c => st.scratchOk c.x 0 0 && (st.rangeCheck c 0x40001000 0).isNone),
    (copying 16, .cpyY g0 (.v 3) (.v 4) (.v 2) 2, fun c => st.scratchOk c.x 0 16 && (st.rangeCheck c 0x40001000 1).isNone)] := allMeet (by decide +kernel)
/-- The registration and the wake-up of a monitor, and the landing of a copy: from a page that allows the load, and from one that does not. -/
theorem witness_WaitsPlaceholdersAndCopies_events :
    (∀ n ∈ [0, 1], let v := BitVec.ofNat 32 n
      let s := monitored [monitor .grp v false]
      s.monitors.find? (fun x => x.id == 7 && !x.registered && x.retry == 0) = some (monitor .grp v false)
      ∧ s.registrations (lineOf 0x100001000) < 512 ∧ s.monFrozen (monitor .grp v false) = false
      ∧ (s.home pl).present = true ∧ s.homeReadable (monAgent 7) pl = true ∧ (s.home pl).reserved = none
      ∧ condHolds .eq (s.homeWord 0x100001000) v = (v == 0))
    ∧ (monitored (monitor .grp 0 false :: List.replicate 512 { monitor .grp 0 true with id := 8 })).registrations (lineOf 0x100001000) = 512
    ∧ (st.thread? 0).any (fun x => x.uid == 1 && decide (0 < x.splits.length)) = true
    ∧ (∀ n ∈ [128, 144], let x := (strand [] []).updSplit 0 fun p => { p with wait := some (.copy 0 0x40001000 n (placeText + 12) (placeText + 4) false) }
        let s : State := holding (line .S true) x
        s.thread? 0 = some x ∧ s.denied x.space 0x40001000 .load = none ∧ (s.copyReq x 0x40001000 n).any (fun r => !r.l2 && r.pl == pl
            && r.mask &&& ~~~(s.l1 x.cid pl).held == 0) = true
          ∧ (s.l1 x.cid pl).readable = true ∧ (s.l1 x.cid pl).moving = false ∧ (s.l1 x.cid pl).stale = false
          ∧ (s.viewAt x.cid x.space 0x40001000 128).2 = false)
    ∧ (st.denied 1 0x80000000 .load).isSome = true := by
  refine ⟨by decide +kernel, by decide +kernel, by decide +kernel, by decide +kernel, by decide +kernel⟩

/-- Barrier 15, the last of the allocation, and 16. -/
theorem witness_NamedBarriers : AllMeet ([Instr.barArv g2 (.v 1) (.v 2), .barWait g2 (.v 1), .barSync g2 (.v 1) (.v 2)].map fun i => (st, i, none'))
    ∧ AllMeet ([Instr.barArv g0 (.v 1) (.v 2), .barWait g0 (.v 1), .barSync g0 (.v 1) (.v 2)].map fun i =>
        (at' (strand (fill 1 15) []), i, fun c => some' c && decide (Unwatched c c.act)))
    ∧ meets (at' (strand (fill 1 16) [])) (.barWait g0 (.v 1)) (fun c => c.lanes != 0 && c.x.differing ((Reg.v 1).locs c.x.winBase 1) c.lanes == 0
        && decide (st.barriers c.x ≤ (c.x.get (.v 1) (lowLane c.lanes)).toNat)) = true
    ∧ (st.thread? 0).isSome = true ∧ SMap.wf Core.reset st.cores = true ∧ SMap.risingFrom 0 (st.core 0).bars = true ∧ 31 < 32 :=
  ⟨allMeet (by decide +kernel), allMeet (by decide +kernel), by decide +kernel, by decide +kernel⟩

/-- A line that begins with a stream's block: BASE 0x40001000, extent and stride 2 and 4. -/
def block (ext : Byte) : Line :=
  { line .S true with data := LineData.ofBytes ([0x00, 0x10, 0x00, 0x40, 0, 0, 0, 0, ext, 0, 0, 0, 4, 0, 0, 0] ++ List.replicate 112 0) }
def binds (l : Line) : Ctx → Bool := fun c =>
  let s := holding l
  let one : Ctx := { c with lanes := 1 <<< lowLane c.lanes }
  let part (j : Nat) : Nat → DWord := fun _ => BitVec.ofNat 64 (0x40001000 + 16 * j)
  some' c && (List.range 3).all (fun j => decide (Allowed s one (part j) 16 .load) && decide (Clean s one (part j) 16))
    && decide (Cached s c (s.lineReqs c.x.space 16 [0x40001000, 0x40001010, 0x40001020])) && c.x.get64 (.k 2) 6 == 0x40001000
theorem witness_Streams : AllMeet [
    (st, .gbind g2 1 (.k 2), none'), (st, .gbind g0 1 (.k 4), fun c => decide ((c.x.get64 (.k 4) 6).toNat % 2 ^ 48 % 16 ≠ 0)),
    (holding (block 2), .gbind g0 1 (.k 2), binds (block 2)), (holding (block 0), .gbind g0 7 (.k 2), binds (block 0)),
    (st, .gstat g0 4 1, fun c => (c.x.streams.getD 1 none).isNone), (bound true, .gstat g0 1 1, fun c => c.x.streams.getD 1 none == some (stream true))]
    ∧ (stream true).ndim < 4 ∧ (stream true).idx.length = 4 ∧ (stream true).ext.length = 4 ∧ (stream true).ended.length = 4 :=
  ⟨allMeet (by decide +kernel), by decide +kernel⟩

/-! ### Remote access and collectives -/

/-- A strand with the handle 0x00020005 in k0, the number 1 in v6:v7 and addresses as in `st`. -/
def remoteStrand : Thread := strand (fill 1 3 ++ fill 2 0x20005 ++ fill 4 0x40001000 ++ fill 6 1) [0x20005, 0, 0x20004]
/-- The capability slot 5 of space 1, of generation 2, holds what is given; slot 4 is empty. -/
def capable (b : CapBody) : State :=
  let s := at' remoteStrand
  { s with res := { s.res with spaces := SMap.put s.res.spaces 1 { (s.space 1) with caps := [(5, { gen := 2, retired := false, body := some b })] } } }
/-- A window of 64 bytes on the other die's endpoint. -/
def window (allow : Nat) : State := capable (.window 1 1 0x1000 64 true true true allow)
/-- Is the answer of a check a window, or a fault? -/
def isWin (r : Sum FInfo Win) : Bool :=
  match r with
  | .inr _ => true
  | .inl _ => false
/-- Does a window instruction with offset 0 pass its checks, with a native path to its endpoint? -/
def passes (w : Nat) (p : WPerm) (n : Nat) (cls : TClass) : Ctx → Bool := fun c =>
  some' c && isWin ((window 4096).window c (c.x.kreg 0) (fun l => (c.x.getO (.v 4) l).toNat) w p n)
    && (match (window 4096).way ((window 4096).endpoint c.x.die) 1 cls 2 2 with
        | .native => true
        | _ => false) && (window 4096).fab.src == [] && (window 4096).fab.std == []
    && mayRelease (window 4096) .dom c.act c && mayRelease (window 4096) .dom c.lanes c
/-- Does it fail one, the offset being v4:v5? -/
def fails (s : State) (w : Nat) (p : WPerm) : Ctx → Bool := fun c =>
  some' c && !isWin (s.window c (c.x.kreg 0) (fun l => (c.x.getO (.v 2) l).toNat) w p 1)

theorem witness_RemoteAccesses : AllMeet ([
    Instr.ldf .b32 g2 (.v 10) (.v 4) 0, .stf .b32 g2 (.v 1) (.v 4) 0, .stfUrg .b32 g2 (.v 1) (.v 4) 0,
    .atomf .cas none g2 (.v 1) (.v 4) 0 (.v 2), .fencef g2 (.v 1) (.v 4) 0].map fun i => (window 4096, i, none'))
    ∧ AllMeet [(window 4096, .ldf .b32 g0 (.v 10) (.v 4) 0, passes 4 .r 8 .express), (window 4096, .stf .b32 g0 (.v 1) (.v 4) 0, passes 4 .w 8 .bulk),
      (window 4096, .stfUrg .b32 g0 (.v 1) (.v 4) 0, passes 4 .w 8 .urgent), (window 4096, .atomf .cas none g0 (.v 1) (.v 4) 0 (.v 2), passes 4 .a 8 .urgent),
      (window 4096, .atomf .addN (some .ar) g0 (.v 1) (.v 4) 0 (.v 2), passes 4 .a 8 .urgent),
      (window 4096, .fencef g0 (.v 1) (.v 4) 0, passes 4 .a 4 .urgent),
      (window 4096, .ldf .b32 g0 (.v 10) (.v 2) 0, fails (window 4096) 4 .r), (window 4096, .stf .b32 g0 (.v 1) (.v 2) 0, fails (window 4096) 4 .w),
      (window 4096, .stfUrg .b32 g0 (.v 1) (.v 2) 0, fails (window 4096) 4 .w), (window 4096, .atomf .cas none g0 (.v 1) (.v 2) 0 (.v 2), fails (window 4096) 4 .a),
      (window 4096, .fencef g0 (.v 1) (.v 2) 0, fails (window 4096) 4 .a)] := ⟨allMeet (by decide +kernel), allMeet (by decide +kernel)⟩
/-- The checks of a capability: no entry, another generation, a misaligned lane, a queue pair's entry; and a window at its bounds. -/
theorem witness_RemoteAccesses_checks :
    let k (s : State) (n : Nat) := s.cap 1 n
    ((k (window 8) 4).body = none) ∧ (0x20005 / 2 ^ 24 = 0 ∧ 5 < ((window 8).space 1).capSlots ∧ (k (window 8) 5).body ≠ none ∧ (k (window 8) 5).gen = 2)
    ∧ 0x30005 / 65536 % 256 ≠ (k (window 8) 5).gen ∧ 0x20005 / 65536 % 256 = (k (window 8) 5).gen ∧ 2 % 4 ≠ 0 ∧ 60 % 4 = 0
    ∧ (k (capable (.queuePair 1 0 3 9)) 5).body = some (.queuePair 1 0 3 9)
    ∧ (k (window 8) 5).body = some (.window 1 1 0x1000 64 true true true 8) ∧ 60 + 4 ≤ 64 ∧ ¬ (61 + 4 ≤ 64)
    ∧ SMap.wf Cap.reset ((window 8).space 1).caps = true ∧ SMap.risingFrom 0 (window 8).res.spaces = true := by decide +kernel

theorem witness_PacketsFlowsAndReductions :
    (∀ l ∈ lanesOf two, (4 * l) % 4 = 0) ∧ (1 ≤ (leBytes 4 7).length ∧ (leBytes 4 7).length ≤ 64)
    ∧ (window 8).inside 1 = true ∧ ((window 8).srcEnd? 0 1 .bulk).isNone = true
    ∧ (let o : Out := { cls := .bulk, op := 1, space := 1, va := 0, chunk := false, payload := [0], opf := 0, owner := .none, acc := 0, parts := [], gen := none }
       (((window 8).sendOut 0 1 o).srcEnd? 0 1 .bulk).isSome = true)
    -- the block code: 1.0 and a NaN; an aligned 1.0; two codes
    ∧ (∀ n m : Nat, n ≤ 1 → m = 1 → (Nat.log2 m : Int) + 0 + 150 < 2 ^ 9) ∧ 0 < 150 ∧ 0 < 1 ∧ 0x8096 % 2 ^ 13 < 512 ∧ 0x8096 < 65536
    ∧ (0x8096).testBit 15 = true ∧ (0x4096).testBit 14 = true ∧ (0x4096).testBit 13 = false ∧ (0x0096).testBit 15 = false ∧ 0x0096 % 512 ≠ 0 :=
  ⟨by decide +kernel, by decide +kernel, by decide +kernel, by decide +kernel, by decide +kernel, fun _ m _ h => by subst h; decide +kernel,
   by decide +kernel⟩

/-- Queue pair 3 of space 1, with its counter block 8 KiB after the text. -/
def pair (es : List QEntry) (refused : Bool := false) : QPair :=
  { space := 1, queue := es, nextPos := 9, ctrs := [(2, 5)], refused := refused, block := 0x100002000, blockVa := 0x40002000 }
/-- A state with the queue pair, and the line of the address present at its home with an entry of LEN `len`, ZERO. -/
def queues (q : QPair) (len : Byte) : State :=
  let s := capable (.queuePair 1 0 3 0)
  { s with fab := { s.fab with qps := [(3, q)] }, homes := [(pl, { Home.reset with present := true })]
           mem := Memory.writeBytes (Memory.writeBytes s.mem 0x100001001 [2]) 0x100001010 [len] }
/-- The queue pair of k0's handle is there, and a release at package scope may go on. -/
def hasQueue (s : State) : Ctx → Bool := fun c => some' c
  && (match s.queueOf c.x.space 0x20005 with
      | .inr (_, _, lqp, _) => lqp == 3
      | .inl _ => false) && mayRelease s .pkg c.act c
/-- No queue pair there. -/
def noQueue : Ctx → Bool := fun c => some' c && (match st.queueOf c.x.space (c.x.kreg 2) with
  | .inr _ => false
  | .inl _ => true)
/-- An entry that is read, and whether it passes. -/
def posting (len : Byte) (ok : Bool) : Ctx → Bool := fun c =>
  let s := queues (pair []) len
  hasQueue s c && decide (Allowed s c va 32 .load) && !s.queueFull c && (s.colpostQueues c 0x20005 0x40001000).isNone
    && (match (freed s c).seqRead c 0x40001000 32 with
        | .inr (u, x, false) => u.entryOk c.x.space x == ok
        | _ => false)
/-- A context of the queue pair, whose gang's region queue holds the commands. -/
def inContext (q : List Cmd) : State :=
  let s := queues (pair []) 64
  { s with threads := (at' (context [0x20005, 0, 0x40001000, 0])).threads, iss := (at' (context [])).iss
           gangs := [(1, { placeGang with queue := q, nextCmd := 70 })] }
/-- A command of the queue. -/
def cmd (op : CmdOp) (started : Bool) : Cmd := { id := 4, op := op, pc := 0, started := started, since := 0, count := 0, read := [], bad := false }
/-- A copy of 16 bytes to the address, out of a region at scratchpad byte 0. -/
def copyOut : CmdOp := .cpy true .none (BitVec.ofNat 64 (16 * 2 ^ 48 + 16 * 2 ^ 32)) 0x40001000 1
theorem witness_CountersAndWorkQueues : AllMeet ([
    Instr.ctradd g2 (.k 0) (.v 3) (.v 1), .ctrwait g2 (.k 0) (.v 3) (.v 1), .colpost g2 (.k 0) (.v 4)].map fun i => (st, i, none'))
    ∧ AllMeet ([Instr.ctradd g0 (.k 2) (.v 3) (.v 1), .ctrwait g0 (.k 2) (.v 3) (.v 1), .colpost g0 (.k 2) (.v 4)].map fun i => (st, i, noQueue))
    ∧ AllMeet [
      (queues (pair []) 64, .ctradd g0 (.k 0) (.v 3) (.v 1), hasQueue (queues (pair []) 64)), (queues (pair []) 64, .ctrwait g0 (.k 0) (.v 3) (.v 1), hasQueue (queues (pair []) 64)),
      (queues (pair []) 64, .ctradd g0 (.k 0) (.v 4) (.v 1), fun c => hasQueue (queues (pair []) 64) c && decide (63 < (c.x.get (.v 4) 6).toNat)),
      (queues (pair []) 64, .ctrwait g0 (.k 0) (.v 4) (.v 1), fun c => hasQueue (queues (pair []) 64) c && decide (63 < (c.x.get (.v 4) 6).toNat)),
      (queues (pair [] true) 64, .colpost g0 (.k 0) (.v 4), hasQueue (queues (pair [] true) 64)),
      (inContext (List.replicate 64 (cmd (.place true 0 0 1) false)), .colpost g0 (.k 0) (.k 2), fun c => decide (Allowed (queues (pair []) 64) c va 32 .load)
        && (inContext (List.replicate 64 (cmd (.place true 0 0 1) false))).queueFull c),
      (inContext [cmd copyOut true], .colpost g0 (.k 0) (.k 2), fun c => decide (Allowed (queues (pair []) 64) c va 32 .load)
        && !(inContext [cmd copyOut true]).queueFull c && ((inContext [cmd copyOut true]).colpostQueues c 0x20005 0x40001000).isSome),
      (inContext [], .colpost g0 (.k 0) (.k 2), fun c => c.x.seq && ((inContext []).gang? c.x.gang).any fun g => g.queue == []),
      (queues (pair []) 0, .colpost g0 (.k 0) (.v 4), posting 0 false), (queues (pair []) 64, .colpost g0 (.k 0) (.v 4), posting 64 true)]
    ∧ (let s := queues (pair []) 64
       let busy : State := { s with homes := [(lineOf (0x100002000 + 8), { Home.reset with owner := some 5 })] }
       s.memoryOk ∧ (s.qpair? 3).isSome = true ∧ SMap.wf 0 (pair []).ctrs = true ∧ SMap.risingFrom 0 s.fab.qps = true ∧ s.hbmErrs = [] ∧ s.hubActs = []
       ∧ s.writable hubAgent (lineOf (0x100002000 + 8)) = true ∧ (s.home (lineOf (0x100002000 + 8))).reserved = none
       ∧ busy.writable hubAgent (lineOf (0x100002000 + 8)) = false) :=
  ⟨allMeet (by decide +kernel), allMeet (by decide +kernel), allMeet (by decide +kernel), by unfold State.memoryOk; decide +kernel⟩

/-- An entry that writes 64 bytes of 0 to the peer, once counter 2 is at 5. -/
def entry (fired : Bool) (sent : Nat) (local' : Bool) (rinc : Bool) (thresh : Nat := 5) : QEntry :=
  { pos := 8, w := { (workEntry (64 * 2 ^ 128 + 2 ^ 9)) with thresh := thresh, actr := 2, rinc := rinc }, node := 0, src := 0, peer := 1, pqp := 0,
    gen := none, fired := fired, sent := sent, localDone := local', outstanding := 0, trig := false }
def entries (e : QEntry) : State := queues (pair [e]) 64
theorem witness_CollectiveEntries :
    (∀ e ∈ [entry false 0 false false, entry false 0 false false 6, entry true 0 false false, entry true 64 false false, entry true 64 true false,
            entry true 64 true true], (entries e).qpair? 3 = some (pair [e]) ∧ (pair [e]).entry? 8 = some e)
    ∧ (5 ≤ (pair []).ctr 2 ∧ ¬ 6 ≤ (pair []).ctr 2)
    ∧ (match (entries (entry true 0 false false)).way 0 1 (entry true 0 false false).w.cls 1 0 with
       | .native => true
       | _ => false) = true
    ∧ (let e := entry true 0 false false
       let read (s : State) (w : WorkEntry) : Option (Sum Nat Bool) := match s.readSource (entryAgent 3 8) 1 w 0 64 with
         | .got _ _ p => some (.inr p)
         | .fault va _ => some (.inl va)
         | .wait _ => none
       let w (a : Nat) (sk : Nat) : WorkEntry := { e.w with zero := false, src := a, sk := sk }
       e.w.codes = false ∧ read (entries e) e.w = some (.inr false)
       -- a source in an absent page, a poisoned one, and a poisoned one in the chunk buffer
       ∧ read (entries e) (w 0 0) = some (.inl 0) ∧ read { entries e with poison := [0x100001000 / 32] } (w 0x40001000 0) = some (.inr true)
       ∧ (let s := entries e
          read { s with fab := { s.fab with chunkPois := [1] }
                        res := { s.res with spaces := SMap.put s.res.spaces 1 { (s.space 1) with chunk := some (0, 0x40000) } } } (w 0 1) = some (.inr true)))
    ∧ SMap.risingFrom 0 (entries (entry true 0 false false)).fab.qps = true := by decide +kernel

/-! ### Sequencers and matrix engines -/

/-- A context whose gang has the queue; core 0's engine is held by the gang given. -/
def seqOf (q : List Cmd) (holder : Option Nat) (release : Option Nat := none) (k : List Word := []) : State :=
  { at' (context k) with
    gangs := [(1, { placeGang with queue := q, nextCmd := 5 })]
    cores := [(0, { Core.reset with engine := { holder := holder, release := release, mon := List.replicate 8 0 } })] }
/-- A command that is posted, with its guard's lane. -/
def posted (ok : CmdOp → Bool) (i : Instr) : Ctx → Bool := fun c => some' c && (posts c i).any ok
/-- Its engine is one of the eight, or it uses none. -/
def engineOk (op : CmdOp) : Bool :=
  match op.engine with
  | some n => n == 0
  | none => true
def commands (g : Guard) : List Instr := [
  .mma g (.k 2) (.k 4) 3 0, .mmaSp g (.k 2) (.k 4) 3 0, .mmaOl g (.k 2) (.k 4) 3 0 (.k 8), .mmaSpOl g (.k 2) (.k 4) 3 0 (.k 8), .mxld g (.k 2) (.k 4),
  .mxst .bf16 g (.k 2) (.k 4), .mxclr g (.k 2) (.k 4), .cpy false .none g (.k 2) (.k 4) (.k 6), .cpy true .tr g (.k 2) (.k 4) (.k 6),
  .gath g (.k 2) (.k 4) (.k 6), .vwr g (.k 2) (.k 4) 1, .vrd g (.k 2) (.k 4) 1]
theorem witness_RegionQueues_posting :
    AllMeet ((commands g0).map fun i => (seqOf [] (some 1), i, posted engineOk i)) ∧ AllMeet ((commands g2).map fun i => (seqOf [] (some 1), i, none'))
    ∧ AllMeet [
      ({ seqOf [] none with gangs := [] }, .mxclr g0 (.k 2) (.k 4), some'),
      (seqOf (List.replicate 64 (cmd (.place true 0 0 1) false)) (some 1), .mxclr g0 (.k 2) (.k 4), some'),
      (seqOf (List.replicate 63 (cmd (.place true 0 0 1) false)) (some 1), .mxclr g0 (.k 2) (.k 4), some'),
      (seqOf [] (some 1) none [8], .mxclr g0 (.k 2) (.k 0), posted (fun op => op.engine.any fun n => decide (7 < n)) (.mxclr g0 (.k 2) (.k 0))),
      (seqOf [] (some 2), .mxclr g0 (.k 2) (.k 4), posted (fun op => op.engine == some 0) (.mxclr g0 (.k 2) (.k 4)))] :=
  ⟨allMeet (by decide +kernel), allMeet (by decide +kernel), allMeet (by decide +kernel)⟩

/-- A copy of 16 bytes from global memory into a region at scratchpad byte 0. -/
def copyIn : CmdOp := .cpy false .none (BitVec.ofNat 64 (16 * 2 ^ 48 + 16 * 2 ^ 32)) 0x40001000 1
/-- A tile of 16 by 16 from a region of 16 rows of 64 bytes. -/
def loadTile : CmdOp := .mxld 0 (BitVec.ofNat 64 (64 * 2 ^ 48 + 64 * 2 ^ 32 + 15 * 2 ^ 24))
/-- What the two events meet: the gang, its command, whether it may start or complete, and its checks and lines. -/
theorem witness_RegionQueues :
    let g (op : CmdOp) (st : Bool) : Gang := { placeGang with queue := [cmd op st], nextCmd := 5 }
    let s (op : CmdOp) (st : Bool) : State := seqOf [cmd op st] (some 1)
    let away : State := { s copyIn true with homes := [(pl, { Home.reset with owner := some 5 })] }
    (∀ op ∈ [copyIn, loadTile, .mxclr 0 0, .mxclr (BitVec.allOnes 64) 0], ∀ b : Bool, (s op b).gang? 1 = some (g op b)
        ∧ ((g op b).queue.find? fun c => c.id == 4) = some (cmd op b) ∧ (s op b).canStart (g op b) (cmd op b) = !b
        ∧ (s op b).mayComplete (g op b) (cmd op b) = b)
    ∧ (match (s (.mxclr (BitVec.allOnes 64) 0) false).startCheck (g (.mxclr (BitVec.allOnes 64) 0) false) (.mxclr (BitVec.allOnes 64) 0) with
       | .inl _ => true
       | .inr _ => false) = true
    ∧ (match (s copyIn false).startCheck (g copyIn false) copyIn with
       | .inl _ => false
       | .inr r => r.1 == []) = true
    ∧ (s copyIn true).failGlobal (g copyIn true) (cmd copyIn true).global.1 .load = none
    ∧ ((s copyIn true).failGlobal (g copyIn true) (cmd (.cpy false .none (BitVec.ofNat 64 (16 * 2 ^ 48 + 16 * 2 ^ 32)) 0x80000000 1) true).global.1 .load).isSome = true
    ∧ (∃ h va src, CmdOp.colpost 0x20005 0x40001000 [] = .colpost h va src) ∧ (¬ ∃ h va src, copyIn = .colpost h va src)
    ∧ (match ({ s copyIn true with poison := [0x100001000 / 32] } : State).performCmd (g copyIn true) (cmd copyIn true) with
       | .inl (some va) => va == 0x40001000
       | _ => false) = true
    ∧ (away.homeAccess (gangAgent 1) (away.cmdLines (g copyIn true) (cmd copyIn true))).2 = false
    ∧ ((s copyIn true).homeAccess (gangAgent 1) ((s copyIn true).cmdLines (g copyIn true) (cmd copyIn true))).2 = true
    ∧ (match (s copyIn true).performCmd (g copyIn true) (cmd copyIn true) with
       | .inr _ => true
       | .inl _ => false) = true
    ∧ (match ({ s loadTile true with cores := [(0, { Core.reset with scratchPois := [1] })] } : State).performCmd (g loadTile true) (cmd loadTile true) with
       | .inl none => true
       | _ => false) = true
    ∧ SMap.risingFrom 0 (s copyIn true).gangs = true :=
  ⟨by decide +kernel, by decide +kernel, by decide +kernel, by decide +kernel, by decide +kernel, ⟨_, _, _, rfl⟩, (fun ⟨_, _, _, h⟩ => by cases h),
   by decide +kernel, by decide +kernel, by decide +kernel, by decide +kernel, by decide +kernel, by decide +kernel⟩

theorem witness_MatrixEngines : (∃ g, (seqOf [] none).gang? 1 = some g)
    ∧ AllMeet ([Instr.mxacq g2 3 (.k 0), .mxrel g2 (.k 0), .mxmon g2 (.k 0) 0, .sqwait g2 (.k 0)].map fun i => (seqOf [] none, i, none'))
    ∧ AllMeet [
      (seqOf [] none none [0], .mxacq g0 3 (.k 0), some'), (seqOf [] none none [256], .mxacq g0 3 (.k 0), some'), (seqOf [] none none [2], .mxacq g0 3 (.k 0), some'),
      (seqOf [] (some 2) none [1], .mxacq g0 3 (.k 0), some'), (seqOf [] (some 1) (some 3) [1], .mxacq g0 3 (.k 0), some'), (seqOf [] none none [1], .mxacq g0 3 (.k 0), some'),
      (seqOf [] none none [256], .mxrel g0 (.k 0), some'), (seqOf [] (some 1) none [255], .mxrel g0 (.k 0), some'),
      (seqOf [] (some 2), .mxmon g0 (.k 16) 0, some'), (seqOf [cmd (.mxclr 0 0) true] (some 1), .mxmon g0 (.k 16) 0, some'), (seqOf [] (some 1), .mxmon g0 (.k 16) 0, some'),
      (seqOf [] none none [512], .sqwait g0 (.k 0), some'),
      (seqOf [cmd (.mxclr 0 0) true] (some 1) none [511], .sqwait g0 (.k 0), fun c => (511).testBit (CmdOp.mxclr 0 0).kind && some' c), (seqOf [] none none [511], .sqwait g0 (.k 0), some')]
    -- a release that waits for an earlier command, and one that does not
    ∧ SMap.wf Core.reset (seqOf [cmd (.mxclr 0 0) true] (some 1) (some 5)).cores = true
    ∧ ((seqOf [cmd (.mxclr 0 0) true] (some 1) (some 5)).core 0).engine.release = some 5 ∧ (cmd (.mxclr 0 0) true).id < 5
    ∧ (CmdOp.mxclr 0 0).engine = some 0 ∧ coreOf placeGang 0 = 0 :=
  ⟨⟨{ placeGang with nextCmd := 5 }, by decide +kernel⟩, allMeet (by decide +kernel), allMeet (by decide +kernel), by decide +kernel⟩

/-- Elements of each kind, live terms, and the commands that write tiles. -/
theorem witness_MatrixArithmetic :
    let e (k : EKind) : Elem := { kind := k, neg := false, s := if k = .num then 1 else 0, fb := 0, e := 0 }
    ((e .nan).kind = .nan ∧ (e .inf).kind = .inf ∧ (e .zero).kind = .zero ∧ (e .num).kind = .num)
    ∧ ([{ n := 1, x := 0, a := 0 }, { n := 0, x := 0, a := 9 }] : List Term).filter (fun t => t.n != 0) = [{ n := 1, x := 0, a := 0 }]
    ∧ (fp32.value 0x7FC00000 = .nan ∧ fp32.value 0xFF800000 = .inf true ∧ fp32.value 0x3F800000 = .fin false (2 ^ 23) (-23))
    ∧ SMap.wf Core.reset (seqOf [] (some 1)).cores = true ∧ SMap.wf 0 ((seqOf [] (some 1)).core 0).acc = true
    ∧ (seqOf [] (some 1)).regionBad placeGang (regionOf (BitVec.ofNat 64 (64 * 2 ^ 48 + 64 * 2 ^ 32 + 15 * 2 ^ 24))) (tileOf 0).m (4 * (tileOf 0).n) = false
    ∧ (tileOf 0).empty = false := by decide +kernel

/-! ### System instructions, stalls and parking -/

/-- A launch under debugging. -/
def debugged (x : Thread) : State := { at' x with res := { (at' x).res with launches := [(1, { placeLaunch with debug := true })] } }
theorem witness_WindowSignatureBreaksTicksAndStalls_breaks : AllMeet [
    (st, .brk g2, none'), (st, .brk g0, fun c => (st.launch? c.x.launch).any fun l => !l.debug),
    (debugged (strand [] []), .brk g0, fun c => some' c && ((debugged (strand [] [])).launch? c.x.launch).any fun l => l.debug),
    (debugged (context []), .brk g0, fun c => some' c && c.x.seq), (st, .tick g2 (.k 0), none'), (st, .tick g0 (.k 0), some')]
    -- the last member parks with its recorded lanes, or with others, or leaves members behind
    ∧ (∀ n ∈ [1, 2], ∀ rec ∈ [0xC0, 0xC1],
        let x := joined 1 (strand [] [])
        let y : Thread := { x with
          recs := setAt x.recs 0 { used := true, addr := placeText + 4, recorded := BitVec.ofNat 32 rec, parked := 0, inH := 0, count := n, below := none } }
        y.parks 0 = true ∧ (y.split 0).top = some 0 ∧ 0 < y.recs.length ∧ (y.split 0).mix = none ∧ (y.record 0).count = n
          ∧ (((y.record 0).parked ||| (y.split 0).mask == (y.record 0).recorded) = (rec == 0xC0)))
    ∧ (strand [] []).parks 0 = false := ⟨allMeet (by decide +kernel), by decide +kernel⟩

/-! ### The coherence protocol -/

/-- One message in flight for the line, with the home's, core 0's and the peer L2's records of it. -/
def flying (m : Instr) (h : Home) (l : Line := Line.reset) (p : Line := Line.reset) (o : List MOp := []) : State :=
  { st with msgs := [m], ops := o, homes := SMap.set Home.reset [] pl h, peers := SMap.set Line.reset [] pl p,
            cores := SMap.set Core.reset [] 0 { Core.reset with l1 := SMap.set Line.reset [] pl l } }
theorem flying_arrives (m : Instr) (h : Home) (l p : Line) (o : List MOp) : Arrives (flying m h l p o) m [] := ⟨[], [], rfl, by simp, rfl⟩
theorem cachesOk_of (s : State) (c : Core) (h : s.cores = [(0, c)] ∨ s.cores = []) (hc : SMap.wf Core.reset s.cores = true)
    (hh : SMap.wf Home.reset s.homes = true) (hp : SMap.wf Line.reset s.peers = true) (hl : SMap.wf Line.reset c.l1 = true) : CachesOk s := by
  refine ⟨hc, hh, hp, fun k => ?_⟩
  have h0 : SMap.wf Line.reset Core.reset.l1 = true := by decide +kernel
  unfold State.core SMap.getD
  rcases h with h | h <;> rw [h]
  · by_cases hk : k = 0
    · subst hk; simpa [SMap.find?] using hl
    · simpa [SMap.find?, hk, Ne.symm hk] using h0
  · simpa [SMap.find?] using h0
theorem coherent {m : Instr} {h : Home} {l p : Line} {o : List MOp} (hw : (SMap.wf Core.reset (flying m h l p o).cores && SMap.wf Home.reset (flying m h l p o).homes
      && SMap.wf Line.reset (flying m h l p o).peers && SMap.wf Line.reset (SMap.set Line.reset [] pl l)) = true) :
    CachesOk (flying m h l p o) ∧ Arrives (flying m h l p o) m [] := by
  simp only [Bool.and_eq_true] at hw
  refine ⟨cachesOk_of _ { Core.reset with l1 := SMap.set Line.reset [] pl l } ?_ hw.1.1.1 hw.1.1.2 hw.1.2 hw.2, flying_arrives m h l p o⟩
  show SMap.set Core.reset [] 0 _ = _ ∨ SMap.set Core.reset [] 0 _ = _
  by_cases hx : ({ Core.reset with l1 := SMap.set Line.reset [] pl l } : Core) = Core.reset
  · exact .inr (by rw [SMap.set, if_pos hx]; rfl)
  · exact .inl (by rw [SMap.set, if_neg hx]; rfl)

/-- A home's record with what it knows of the line. -/
def home (st : HSt) (owner : Option Nat) (sharers : List Nat) (cur : Option HReq := none) (acks : List Nat := []) : Home :=
  { Home.reset with st := st, owner := owner, sharers := sharers, cur := cur, acks := acks }
/-- The line's home lies on die 0: its server, and the other die's peer L2. -/
theorem test_servers : homeServer (lineDie pl) = 130 ∧ peerAgent (1 - lineDie pl) = 129 := by decide +kernel

/-- A request that waits; one whose home asks the owner, or the sharers; reads and writes with none to ask, from an L1 and from the peer
L2, of a SW copy, of an idle and of a shared line; an upgrade that is granted. -/
theorem witness_CoherenceRequests :
    (∀ k ∈ [0, 1, 2], (CachesOk (flying (request k 0 130 pl) (home .HI none [] (some { src := 5, kind := 1, at' := (0, 0) }))) ∧
        Arrives (flying (request k 0 130 pl) (home .HI none [] (some { src := 5, kind := 1, at' := (0, 0) }))) (request k 0 130 pl) []))
    ∧ (CachesOk (flying (.getS 0 130 pl) (home .HI (some 5) [])) ∧ Asked (home .HI (some 5) []) 0 0 pl (.fwdS 5 130 pl))
    ∧ (CachesOk (flying (.getM 0 130 pl) (home .HI none [0, 5])) ∧ Asked (home .HI none [0, 5]) 1 0 pl (.inv 5 130 pl))
    ∧ (CachesOk (flying (.getM 0 130 pl) (home .HX none [])) ∧ Asked (home .HX none []) 1 0 pl (.fwdM 129 130 pl))
    ∧ (∀ sw : Bool, CachesOk (flying (.getS 0 130 pl) (home .HI none []) { line .IS_D sw with filled := false }) ∧ ∀ x, ¬ Asked (home .HI none []) 0 0 pl x)
    ∧ (CachesOk (flying (.upg 0 130 pl) (home .HI none [0])) ∧ ∀ x, ¬ Asked (home .HI none [0]) 2 0 pl x)
    ∧ (CachesOk (flying (.getM 129 130 pl) (home .HS none [])) ∧ ∀ x, ¬ Asked (home .HS none []) 1 129 pl x) := by
  refine ⟨fun k hk => ?_, ⟨(coherent (by decide +kernel)).1, ?_⟩, ⟨(coherent (by decide +kernel)).1, ?_⟩, ⟨(coherent (by decide +kernel)).1, ?_⟩,
    fun sw => ⟨(coherent (by revert sw; decide +kernel)).1, ?_⟩, ⟨(coherent (by decide +kernel)).1, ?_⟩, ⟨(coherent (by decide +kernel)).1, ?_⟩⟩
  · simp only [List.mem_cons, List.not_mem_nil, or_false] at hk
    rcases hk with rfl | rfl | rfl <;> exact coherent (by decide +kernel)
  · exact .inl ⟨5, rfl, by decide, rfl⟩
  · exact .inr (.inl ⟨by decide, 5, by decide, by decide, rfl⟩)
  · exact .inr (.inr (.inl ⟨by decide +kernel, rfl, rfl⟩))
  all_goals
    intro x hx
    have h1 : peerAgent (1 - lineDie pl) = 129 := by decide +kernel
    simp [Asked, home, Home.reset, h1] at hx

/-- At the peer L2: a request that waits, one that the peer passes to the home, and one that it serves; the write-backs of an owner and of
another; and what the writer hears. -/
theorem witness_CoherenceRequests_peer :
    let busy : Line := { Line.reset with cur := some (5, 0) }
    let own : Line := { line .M false with owner := none }
    (∀ m ∈ [Instr.getS 0 129 pl, .getM 0 129 pl, .upg 0 129 pl],
      CachesOk (flying m Home.reset Line.reset busy) ∧ CachesOk (flying m Home.reset Line.reset Line.reset)
        ∧ CachesOk (flying m Home.reset Line.reset (line .S false)) ∧ CachesOk (flying m Home.reset Line.reset own))
    ∧ (busy.cur ≠ none ∧ Line.reset.st = .I ∧ (line .S false).st = .S ∧ own.st = .M ∧ own.owner = none ∧ own.sharers = [] ∧ own.ret = false)
    ∧ CachesOk (flying (.putM 0 130 pl 0 1 false) (home .HI (some 0) [])) ∧ (flying (.putM 0 130 pl 0 1 false) (home .HI (some 0) [])).memoryOk
    ∧ CachesOk (flying (.putC 0 130 pl) (home .HI none [])) ∧ (home .HI none []).owner ≠ some 0
    ∧ (∀ m ∈ [Instr.wback 0 130 pl, .wbstale 0 130 pl], ∀ l ∈ [CSt.MI_A, .EI_A, .I_A, .MS_A, .S],
        CachesOk (flying m Home.reset (line l false)) ∧ (line l false).waiting = []) := by
  refine ⟨fun m hm => ?_, by decide +kernel, (coherent (by decide +kernel)).1, by unfold State.memoryOk; decide +kernel, (coherent (by decide +kernel)).1,
    by decide, fun m hm l hl => ⟨?_, rfl⟩⟩
  · simp only [List.mem_cons, List.not_mem_nil, or_false] at hm
    rcases hm with rfl | rfl | rfl <;> exact ⟨(coherent (by decide +kernel)).1, (coherent (by decide +kernel)).1, (coherent (by decide +kernel)).1,
      (coherent (by decide +kernel)).1⟩
  · simp only [List.mem_cons, List.not_mem_nil, or_false] at hm hl
    rcases hm with rfl | rfl <;> rcases hl with rfl | rfl | rfl | rfl | rfl <;> exact (coherent (by decide +kernel)).1

/-- As `flying`, the line of core 0 having been asked for by an access under way. -/
def asking (m : Instr) (l : Line) : State :=
  let iss : Issuer := { t := 0, e := 0, pc := placeText + 4, npc := placeText + 8, word := 0, stall := 0, yh := false, op := none }
  flying m Home.reset { l with asker := some 3 } Line.reset
    [{ id := 3, x := strand [] [], iss := iss, instr := .nop g0, act := two, lanes := two, dests := [], block := false, part := Machine.Part.none }]
theorem asking_wants (m : Instr) (l : Line) : ∃ o, ({ l with asker := some 3 } : Line).asker = some 3 ∧ (asking m l).op? 3 = some o :=
  ⟨_, rfl, rfl⟩

/-- Invalidations and forwards at each state of a line; the last and another holder's answer, to a request that may be granted at once and to
one that may not; data and grants for lines that wait for them and for one that does not; and a peer's write-back that comes late. -/
theorem witness_CoherenceAnswers :
    let served (k : Nat) (adv : Nat) (acks : List Nat) : Home := { home .HI (some 0) [] (some { src := 7, kind := k, at' := (0, 0) }) acks with adv := adv }
    (∀ l ∈ [CSt.S, .SM_A, .E, .M, .MI_A, .EI_A], ∀ m ∈ [Instr.inv 0 130 pl, .fwdS 0 130 pl, .fwdM 0 130 pl],
      CachesOk (flying m Home.reset (line l false)) ∧ Arrives (flying m Home.reset (line l false)) m [])
    ∧ (∀ h ∈ [served 1 0 [0], served 1 0 [0, 5], served 3 0 [0]], ∀ m ∈ [Instr.snpData 0 130 pl 0 true, .snpData 0 130 pl 0 false, .invAck 0 130 pl],
      CachesOk (flying m h) ∧ (flying m h).memoryOk ∧ (flying m h).hbmErrs = [] ∧ (flying m h).monitors = [] ∧ h.cur.isSome = true ∧ h.queue = []
        ∧ (flying m h).advanced pl = false)
    ∧ (∀ l ∈ [CSt.IS_D, .IM_D, .SM_A, .S], ∀ m ∈ [Instr.data 0 130 pl 5 1 .E false, .grant 0 130 pl 1 false],
      CachesOk (asking m (line l false)) ∧ Arrives (asking m (line l false)) m [])
    ∧ (let h : Home := { home .HO none [] with late := true }
       CachesOk (flying (.putM 129 130 pl 0 1 false) h) ∧ Arrives (flying (.putM 129 130 pl 0 1 false) h) (.putM 129 130 pl 0 1 false) []) := by
  refine ⟨fun l hl m hm => ?_, fun h hh m hm => ?_, fun l hl m hm => ?_, coherent (by decide +kernel)⟩
  all_goals simp only [List.mem_cons, List.not_mem_nil, or_false] at *
  · rcases hl with rfl | rfl | rfl | rfl | rfl | rfl <;> rcases hm with rfl | rfl | rfl <;> exact coherent (by decide +kernel)
  · rcases hh with rfl | rfl | rfl <;> rcases hm with rfl | rfl | rfl <;>
      exact ⟨(coherent (by decide +kernel)).1, by unfold State.memoryOk; decide +kernel, rfl, rfl, rfl, rfl, by decide +kernel⟩
  · rcases hl with rfl | rfl | rfl | rfl <;> rcases hm with rfl | rfl <;> exact coherent (by decide +kernel)

/-! ### The domain fabric -/

/-- A packet of an operation from endpoint 1 to endpoint 0, with `n` bytes named in bytes 16 and 17, `b` in byte 24, and its payload. -/
def packet (op cls : Nat) (n b : Nat) (bs : List Byte) (seq : Nat := 0) (inc : Nat := 0) : Packet :=
  { hdr := { cls := cls, vc := 0, seq := seq, inc := inc, new := false, path := 0, opcode := op, dst := 0, src := 1, len := (bs.length + 63) / 64,
             space := 1, va := 0x40001000, rsvd := false, opf := opfOf (n + b * 2 ^ 64), ref := 2, chunk := false }, payload := bs }
/-- A write of 64 bytes, whole or with its payload to come. -/
def wr64 : Packet := packet 1 2 64 0 (List.replicate 64 7)
def wr64' : Packet := { wr64 with payload := [] }
/-- `st` with 18 stations, up or down, and the fabric changed. -/
def net (up : Bool) (f : Fabric → Fabric := id) : State := { st with fab := f { st.fab with stations := List.replicate 18 { Station.reset with up := up } } }
/-- Station 3 has a context open for `wr64` of `n` flits, none of which has come. -/
def opened (n : Nat) : Fabric → Fabric := fun b =>
  let pkt := { wr64' with hdr := { wr64.hdr with len := n } }
  { b with stations := setAt b.stations 3 { Station.reset with up := true, rx := [{ cls := 2, vc := 0, pkt := pkt, got := 0, since := 0 }] } }
/-- A source end from endpoint 0 to endpoint `d`, with a retry buffer. -/
def srcEnd (d : Nat) (cls : TClass) (retry : List Retry) (closing : Option Nat := none) (idle : Nat := 0) : SrcEnd :=
  { src := 0, dst := d, cls := cls, inc := 0, next := 1, retry := retry, path := 0, entry := 0, idle := idle, closing := closing }
/-- A packet sent, from lanes or from an entry. -/
def sentPkt (op : Nat) (owner : Owner) (due : Nat) : Retry :=
  { seq := 0, pkt := packet op 2 4 0 [], owner := owner, acc := 3, parts := [(6, 0)], gen := none, due := due, pois := [] }
/-- A destination end at which `cum` was delivered last. -/
def dstEnd (cum : Nat) : DstEnd := { src := 1, dst := 0, cls := .bulk, inc := 0, cum := cum, accepted := [], again := [], results := [(cum, 9, 0)], refused := [cum] }

/-- Ports: a station down and up, malformed, another operation, whole and partial packets, and the loop; flits for an open packet and for none. -/
theorem witness_PacketsArriveAndAreTaken :
    (∀ op ∈ [1, 11], (packetEvent op 3 wr64).isSome = true) ∧ packetEvent 0 3 wr64 = none
    ∧ ((net false).station 3).up = false ∧ ((net true).station 3).up = true ∧ ((net true).station 3).malformed < 2 ^ 32
    ∧ wr64.hdr.malformed = false ∧ (packet 1 1 64 0 (List.replicate 64 7)).hdr.malformed = true ∧ wr64.hdr.opcode = 1
    ∧ wr64.payload.length = 64 * wr64.hdr.len ∧ wr64'.payload.length / 64 < wr64'.hdr.len ∧ 3 < (net true).fab.stations.length
    ∧ wr64 ∉ (net true).fab.loop ∧ (net true fun b => { b with loop := [wr64] }).fab.loop = [] ++ wr64 :: [] ∧ wr64 ∉ (net true).fab.frozen ∧ clsOf 2 = some .bulk
    ∧ (∀ n ∈ [1, 2], (((net true (opened n)).station 3).rx.find? fun r => r.cls == 2 && r.vc == 0).isSome = true) := by decide +kernel
/-- Flits: an empty position, another kind of class 3, headers that are malformed, an ABORT and a packet, and payload with and without a
packet open, of which it is the first of two and the last. -/
theorem witness_PacketsArriveAndAreTaken_flits :
    let fl (h : Header) : Flit := h.flit
    let pay (k : BitVec 4) : Flit := { kind := k, bytes := 0, ref := 0, chunk := false }
    ((pay 12).kind = 12 ∧ 12 < (pay 13).kind.toNat ∧ 3 < (net true).fab.stations.length)
    ∧ (∀ h ∈ [{ wr64.hdr with opcode := 12 }, { wr64.hdr with opcode := 0, len := 0, opf := 0, space := 0, va := 0, ref := 0 }, wr64.hdr],
        (fl h).kind.toNat < 12 ∧ (fl h).kind.toNat % 2 = 1)
    ∧ (fl { wr64.hdr with opcode := 12 }).header.malformed = true
    ∧ (let h := (fl { wr64.hdr with opcode := 0, len := 0, opf := 0, space := 0, va := 0, ref := 0 }).header
       h.malformed = false ∧ h.opcode = 0)
    ∧ (fl wr64.hdr).header.malformed = false ∧ (packetEvent (fl wr64.hdr).header.opcode 3 { hdr := (fl wr64.hdr).header, payload := [] }).isSome = true
    ∧ (pay 8).kind.toNat < 12 ∧ (pay 8).kind.toNat % 2 = 0 ∧ (∀ r ∈ ((net true).station 3).rx, r.cls ≠ 2 ∨ r.vc ≠ 0)
    ∧ (∀ n ∈ [1, 2], ∃ r, (((net true (opened n)).station 3).rx.find? fun r => r.cls == 2 && r.vc == 0) = some r
        ∧ (r.got + 1 < r.pkt.hdr.len ↔ n = 2)) := by
  refine ⟨by decide +kernel, by decide +kernel, by decide +kernel, by decide +kernel, by decide +kernel, by decide +kernel, by decide +kernel,
    by decide +kernel, by decide +kernel, ?_⟩
  intro n hn
  exact ⟨{ cls := 2, vc := 0, pkt := { wr64' with hdr := { wr64.hdr with len := n } }, got := 0, since := 0 }, by
    revert n; decide +kernel⟩
/-- Flows: an ACK, CLOSE and CLOSEACK for an end that is there; responses for a request that is there; packets next in order, early, far and
delivered. -/
theorem witness_PacketsArriveAndAreTaken_flows :
    let net' (e : SrcEnd) : State := net true fun b => { b with src := [e] }
    let wr := sentPkt 1 (.lanes 0 1 two 0 1) 9
    (∀ e ∈ [srcEnd 1 .bulk [wr], srcEnd 1 .bulk [wr] (some 4)], (net' e).srcEnd? 0 1 .bulk = some e ∧ clsOf (packet 6 0 0 0 []).hdr.ref = some .bulk
        ∧ e.inc = (packet 6 0 0 0 []).hdr.inc ∧ (packet 6 0 0 0 []).hdr.status = 0)
    ∧ (net true).inside (packet 7 0 0 0 []).hdr.dst = true ∧ SMap.wf 0 (net true).fab.srcInc = true
    ∧ (let rd := sentPkt 2 (.lanes 0 1 two 0 1) 9
       let at' := sentPkt 4 (.lanes 0 1 two 0 1) 9
       (net' (srcEnd 1 .express [rd])).srcEnd? 0 1 .express = some (srcEnd 1 .express [rd]) ∧ (packet 3 1 4 0 [1, 2, 3, 4]).hdr.status = 0 ∧ rd.acc ≠ 0
       ∧ (([rd].find? fun r => r.seq == 0 && r.pkt.hdr.opcode == 2) = some rd) ∧ (([at'].find? fun r => r.seq == 0 && r.pkt.hdr.opcode == 4) = some at'))
    ∧ (∃ x : Thread, ∃ r, x.rem = [r] ∧ (x.rem.find? fun r => r.acc == 3) = some r ∧ r.abs = [9] ∧ r.hold = false ∧ SMap.wf 0 x.v = true
        ∧ ([(6, 0)].find? fun p => p.1 == 6) = some (6, 0))
    ∧ (∀ cum ∈ [5, 65535], let s := net true fun b => { b with dst := [dstEnd cum] }
        s.dstEnd? 0 1 .bulk = some (dstEnd cum) ∧ (dstEnd cum).cum < 65536 ∧ [1, 2, 4, 9, 10, 11].contains wr64.hdr.opcode = true ∧ clsOf wr64.hdr.cls = some .bulk
          ∧ (match (s.setDst { dstEnd cum with accepted := [packet 1 2 64 0 (List.replicate 64 7) ((cum + 1) % 65536)] }).perform
                (packet 1 2 64 0 (List.replicate 64 7) ((cum + 1) % 65536)) with
             | .done u _ _ _ => u.fab.dst == (s.setDst { dstEnd cum with accepted := [packet 1 2 64 0 (List.replicate 64 7) ((cum + 1) % 65536)] }).fab.dst
             | _ => false) = true)
    ∧ ((5 + 2 + 65535 - 5) % 65536 < 512 ∧ (5 + 2) ≠ (5 + 1) % 65536 ∧ (5 + 512 + 65535 - 5) % 65536 < 512 ∧ 512 ≤ (5 + 513 + 65535 - 5) % 65536
        ∧ 512 ≤ (5 + 65535 - 5) % 65536 ∧ 5 ∈ (dstEnd 5).refused ∧ 4 ∉ (dstEnd 5).refused) :=
  ⟨by decide +kernel, by decide +kernel, by decide +kernel, by decide +kernel,
   ⟨{ strand [] [] with rem := [{ acc := 3, abs := [9], lanes := two, all := two, width := .b32, hold := false }] }, _, rfl, by decide +kernel⟩,
   by decide +kernel, by decide +kernel⟩

/-- Accesses at the home: a page that allows them, with lines there, poisoned or not, and one that does not; and chunk buffers. -/
theorem witness_AccessesArePerformed :
    let s (poison : List Nat) : State := { st with poison := poison }
    let page := { (packet 1 2 64 0 []).hdr with space := 1 }
    st.memoryOk ∧ st.monitors = [] ∧ (st.page? 1 page.va).any (fun g => g.lease && g.allows .load && g.allows .store) = true
    ∧ st.page? 1 0x80000000 = none ∧ st.pa? 1 0x40001000 = some 0x100001000 ∧ 0x100001000 % 128 + 64 ≤ 128
    ∧ (∀ op ∈ [1, 2, 4], st.frozenAt (packet op 1 4 0 (List.replicate 64 7)) = false ∧ (st.homeAccess hubAgent [(pl, op != 2)]).2 = true)
    ∧ (s [0x100001000 / 32]).poisoned 0x100001000 4 = true ∧ (s []).poisoned 0x100001000 4 = false
    ∧ (let c : State := { st with res := { st.res with spaces := SMap.put st.res.spaces 1 { (st.space 1) with chunk := some (0, 0x40002000) } } }
       st.chunkAt 1 0x40001000 2 = none ∧ c.chunkAt 1 0x40001000 256 = some 0x40001000 ∧ SMap.wf 0 c.fab.chunk = true
       ∧ (packet 10 0 0 1 (List.replicate 64 0)).hdr.nblk = 1 ∧ 2 * 1 ≤ (packet 10 0 0 1 (List.replicate 64 0)).payload.length
       ∧ 192 * 1 ≤ (packet 11 2 0 1 (List.replicate 192 0)).payload.length) := by
  unfold State.memoryOk; decide +kernel

/-- Routes: the second slot's station is up; none is; the timers of source ends to endpoint 9; stations with packets; standard requests. -/
theorem witness_RoutesLinksAndTimers :
    let route : Fabric → Fabric := fun b => { b with routes := [(9, 0x0000000080438042)] }
    (slotOf ((net true route).route 0 9) 1 = some { nat := true, vc := 0, stn := 3 } ∧ ((net true route).station 3).up = true
      ∧ ((net false route).station 3).up = false ∧ slotOf ((net true route).route 0 9) 2 = none)
    ∧ (let s (e : SrcEnd) : State := { net true (fun b => { b with src := [e] }) with cycle := 200 * usCycles }
       let r := sentPkt 1 .none 5
       (∀ e ∈ [srcEnd 9 .bulk [r], srcEnd 9 .bulk [{ r with due := 200 * usCycles + 1 }], srcEnd 9 .bulk [], srcEnd 9 .bulk [] (some 0)],
         (s e).srcEnd? 0 9 .bulk = some e)
       ∧ (s (srcEnd 9 .bulk [])).inside 9 = false ∧ r.due ≤ 200 * usCycles ∧ 0 + 100 * usCycles ≤ 200 * usCycles ∧ 0 + 20 * usCycles ≤ 200 * usCycles
       ∧ ¬ (200 * usCycles + 1 ≤ 200 * usCycles))
    ∧ (let x : TxPkt := { pkt := wr64, sent := 0, since := 0 }
       let t : Station := { Station.reset with up := true, waiting := [x], open' := [{ x with sent := 1 }] }
       t.waiting[0]? = some x ∧ t.open'[0]? = some { x with sent := 1 } ∧ x.since + 5 * usCycles ≤ 200 * usCycles
       ∧ (let r : RxCtx := { cls := 2, vc := 0, pkt := wr64', got := 0, since := 0 }
          { t with rx := [r] }.rx[0]? = some r ∧ r.since + 5 * usCycles ≤ 200 * usCycles)
       ∧ x.pkt.hdr.cls = 2 ∧ max 1 t.urun ≤ { t with urgentRun := 16 }.urgentRun ∧ ¬ (max 1 t.urun ≤ t.urgentRun ∨ max 1 t.erun ≤ t.expressRun))
    ∧ (3 < (net true).fab.stations.length ∧ (net true).fab.src = [] ∧ (net true).fab.std = [])
    ∧ (let e : SrcEnd := { srcEnd 9 .bulk [] with entry := 0x8043 }
       let s : State := net true fun b => { b with src := [e] }
       (s.fab.src.filter fun e => !s.inside e.dst && (match slotOf e.entry e.path with
          | some x => x.stn == 3
          | none => false)) = [e])
    ∧ ((net true).fab.stdIn = [] ∧ (net true).frozenAt (stdPacket 2 1 1 0x40001000 (opfOf 4) []) = false
      ∧ (match ({ net true with fab := { (net true).fab with stdIn := [stdPacket 2 1 1 0x40001000 (opfOf 4) []] } } : State).performMem
            stdAgent (stdPacket 2 1 1 0x40001000 (opfOf 4) []) with
         | .done .. => true
         | _ => false) = true
      ∧ (net true fun b => { b with frozen := [packet 1 2 4 0 []] }).frozenAt (stdPacket 2 1 1 0x40001000 (opfOf 4) []) = true
      ∧ (net true).refusedAt 1 0x40001000 4 .load = false)
    ∧ (let a : StdAcc := { tag := 4, owner := .lanes 0 1 two 0 1, acc := 3, parts := [(6, 0)], station := 3, dst := 9, space := 1, va := 0, len := 4, op := 2, gen := none }
       ((net true fun b => { b with std := [a] }).fab.std.find? fun a => a.tag == 4) = some a ∧ a.acc ≠ 0) := by decide +kernel

/-- Routes of two slots: on to the second, with and without the native transport, and no slot left. -/
theorem witness_RoutesLinksAndTimers_slots :
    let route (x : Nat) : Fabric → Fabric := fun b => { b with routes := [(9, x)] }
    let e := srcEnd 9 .bulk []
    (net true).inside e.dst = false ∧ (net true).inside 0 = true
    ∧ (∀ x ∈ [0x80448042, 0x80048042], (slotOf ((net true (route x)).route 0 9) 1).isSome = true
        ∧ (match slotOf ((net true (route x)).route 0 9) 1 with
           | some y => ((net true).station y.stn).up
           | none => false) = true)
    ∧ (slotOf ((net true (route 0x80448042)).route 0 9) 1).map (·.nat) ≠ (slotOf ((net true (route 0x80048042)).route 0 9) 1).map (·.nat)
    ∧ (∀ k ∈ [1, 2, 3], slotOf ((net true (route 0x8042)).route 0 9) k = none) := by decide +kernel

/-! ### The Resident and the module -/

/-- The placed machine in RUN, its ports up, changed. -/
def live (f : State → State := id) : State := f { st with mod := { st.mod with power := .run, ports := st.mod.ports.map fun x => { x with up := true } } }
/-- What a read has brought, or what it lacks. -/
def brought {α : Type} (r : Except Lack α) : Option α :=
  match r with
  | .ok b => some b
  | .error _ => none
def lacking {α : Type} (r : Except Lack α) : Option Lack :=
  match r with
  | .ok _ => none
  | .error l => some l
/-- `live` with the line of 0x40002000 owned by a core. -/
def ownedBuffer (s : State) : State := { s with homes := [(0x100002000 / 128, { Home.reset with owner := some 5, present := true })] }
/-- A request of a sequence number, in the epoch of `live`. -/
def rq (seq : Nat) (bad : Bool := false) (epoch : Nat := st.res.epoch) : Req := { seq := seq, ack := 0, epoch := epoch, bad := bad }
/-- The next one that `live` accepts. -/
def r1 : Req := rq (st.res.lastSeq + 1)
/-- Page entries mapped by two system calls, the second without W. -/
def mapped : State :=
  match after (.map 1 0x80000000 131072 true true false false 0) (live) with
  | some s => s
  | none => live
/-- What its acceptance makes of `live`. -/
def acc (f : State → State := id) : State := accepted (live f) r1
/-- `live`'s Resident changed. -/
def resd (f : Resident → Resident) (s : State) : State := { s with res := f s.res }

/-- Tables and entries of each level, leaves, absent and malformed ones. -/
theorem witness_PagesTranslate :
    (∀ s ∈ [live, mapped], (s.space 1).root = some placeRoot)
    ∧ Memory.le (live).mem placeRoot 8 % 2 = 0 ∧ Memory.le (live).mem (placeRoot + 8) 8 % 4 = 3
    ∧ (let e (k : Nat) (a : Nat) := Memory.le mapped.mem (a + 8 * k) 8
       let e0 := e 2 placeRoot
       let e1 := e 0 (e0 - 1)
       let e2 := e 0 (e1 - 1)
       e0 % 4096 = 1 ∧ e0 < 2 ^ 52 ∧ e1 % 4096 = 1 ∧ e1 < 2 ^ 52 ∧ e2 % 2 = 0 ∧ e 2 (e1 - 1) % 2 = 0)
    ∧ (let s : State := { live with mem := Memory.writeBytes (live).mem (placeRoot + 16) [0x01, 0x20, 3, 0, 0, 0, 0, 0, 0x11] }
       Memory.le s.mem (placeRoot + 16) 8 % 4096 = 1 ∧ Memory.le s.mem (placeRoot + 24) 8 % 4 = 1 ∧ Memory.le s.mem (placeRoot + 24) 8 % 4096 ≠ 1)
    ∧ (live).walk 1 0 = .absent ∧ (match (live).walk 1 0x40001000 with
        | .page p => p.w
        | _ => false) = true ∧ 2 ^ 48 - 1 < 2 ^ 48 := by decide +kernel

/-- Requests: off, in RUN and before it; of the epoch and of another; ahead, next, before, answered, open and lost; malformed; SYNC; and the
parameters at the ends of their tables. -/
theorem witness_RequestsAreAnswered :
    let deaf : State := { live with mod := { (live).mod with ports := State.reset.mod.ports } }
    let sent : State := resp (live (resd fun r => { r with lastSeq := 1 })) (rq 1) 0 []
    let own (m : DMsg) : Prop := m.op = opRESP ∧ m.ref = 1 ∧ m.status ≠ 9
    reqOf (.drain r1 1) = some r1 ∧ (live).mod.power = .run ∧ (live).mod.bootFail = none ∧ (live).res.again = false ∧ ¬ Alive State.reset
    ∧ deaf.mod.ports[deaf.mod.port]?.any (fun x => !x.up) = true
    ∧ (rq 1 false 77).epoch ≠ (live).res.epoch ∧ r1.epoch = (live).res.epoch ∧ r1.seq = (live).res.lastSeq + 1 ∧ r1.bad = false
    ∧ (live).res.lastSeq + 1 < (rq 5).seq ∧ (rq 0).seq ≤ (live).res.lastSeq ∧ (rq 1 true).bad = true ∧ (rq 1 true).seq = (live).res.lastSeq + 1
    ∧ (let s : State := live (resd fun r => { r with lastSeq := 1, opens := [{ seq := 1, kind := 0, arg := 1 }] })
       ∃ o ∈ (s.takeAckNo 0).res.opens, o.seq = 1)
    ∧ (∃ m, (sent.takeAckNo 0).res.store = [] ++ m :: [] ∧ own m)
    ∧ (let s : State := live (resd fun r => { r with lastSeq := 1 })
       (∀ o ∈ (s.takeAckNo 0).res.opens, o.seq ≠ 1) ∧ ∀ m ∈ (s.takeAckNo 0).res.store, ¬ own m)
    ∧ (let s : State := { live with mod := { (live).mod with power := .boot } }
       Alive s ∧ s.mod.power ≠ .run)
    ∧ (∀ c ∈ ((acc).space 1).caps, 1 ≤ c.1 → c.2.body = none) :=
  ⟨by decide +kernel, by decide +kernel, by decide +kernel, by decide +kernel, by decide +kernel, by decide +kernel, by decide +kernel, by decide +kernel,
   by decide +kernel, by decide +kernel, by decide +kernel, by decide +kernel, by decide +kernel, by decide +kernel, by decide +kernel,
   ⟨_, rfl, by decide +kernel⟩, by decide +kernel, by decide +kernel, by decide +kernel⟩
theorem live_hears : Hears live := ⟨by decide +kernel, { up := true, linkdown := 0 }, by decide +kernel, rfl⟩
/-- A request accepted for the first time, and one that has waited. -/
theorem witness_RequestsAreAnswered_accepts : Accepts live r1 (accepted live r1)
    ∧ (let s : State := live (resd fun r => { r with again := true })
       Accepts s r1 { s with res := { s.res with again := false, calls := dropCall (131072 + r1.seq) s.res.calls,
                                                  opens := s.res.opens.filter fun o => !(o.seq == r1.seq && o.kind == 2) } }) := by
  refine ⟨?_, ?_⟩
  · unfold Accepts
    rw [if_neg (by decide +kernel)]
    exact ⟨live_hears, by decide +kernel, by decide +kernel, by decide +kernel, by decide +kernel, rfl⟩
  · unfold Accepts
    rw [if_pos (by decide +kernel)]

/-- Bytes of zero. -/
def zs (n : Nat) : List Byte := List.replicate n 0
/-- A section table entry. -/
def sec (kind off size : Nat) : List Byte := leBytes 2 kind ++ zs 6 ++ leBytes 8 off ++ leBytes 8 size ++ zs 8
/-- An object of one kernel: texts of one bundle of unassigned words each, a census, no relocation, with or without a portable form. -/
def object (strands regs : Nat) (census : List Nat) (acier : Bool) : List Byte :=
  let n := 4 * census.length
  let total := 416 + n + n % 8
  leBytes 4 0x4B4E5246 ++ leBytes 2 1 ++ [1, 0] ++ leBytes 2 (if acier then 6 else 5) ++ leBytes 2 1 ++ leBytes 4 64 ++ leBytes 8 total ++ zs 40
  ++ sec 1 256 32 ++ sec 2 288 32 ++ sec 4 320 64 ++ sec 6 384 n ++ sec 8 384 0 ++ (if acier then sec 7 (384 + n + n % 8) 32 else zs 32)
  ++ zs 64
  ++ (zs 4 ++ leBytes 2 0 ++ leBytes 2 1 ++ leBytes 2 0xFFFF ++ zs 2 ++ [BitVec.ofNat 8 strands, 1] ++ leBytes 2 regs ++ zs 4 ++ [0, 0] ++ zs 6 ++ zs 36)
  ++ census.flatMap (leBytes 4) ++ zs (n % 8) ++ zs 32
/-- Its bytes where the Resident reads them. -/
def holds (b : List Byte) : State := live fun s => { s with mem := s.mem ++ ((List.range b.length).zip b).filterMap fun c => if c.2 = 0 then none else some (0x100002000 + c.1, c.2) }

/-- Objects: unreadable, uncovered, of another census, too large; and those with a portable form. -/
theorem witness_KernelsAndJobs_objects :
    (readObj [1, 2, 3, 4, 5, 6, 7, 8]).isNone
    ∧ (readObj (object 1 32 [] false)).any (fun o => o.covered && o.census.isEmpty && o.kernels.all fun k => k.regs ≤ 512)
    ∧ (readObj (object 1 32 [5, 5] false)).any (fun o => !o.covered)
    ∧ ([true, false].all fun a => (readObj (object 1 32 [0x1F] a)).any fun o => o.covered && o.acier.isSome == a
        && o.census.any fun x => !censusRuns (live).mod.stepping x)
    ∧ ([true, false].all fun a => (readObj (object 32 512 [] a)).any fun o => o.covered && o.acier.isSome == a
        && o.kernels.any fun k => 1024 < (k.strands + 3) / 4 * k.regs) := by decide +kernel
/-- What the loader makes of bytes. -/
def loadedAs (s : State) (b : List Byte) : Nat :=
  match s.loadObj 1 b with
  | .ends st => st
  | .relower st _ => 10 + st
  | .done _ hs => 100 + hs.length
/-- Loads that are placed, end and are lowered again, read from memory. -/
theorem witness_KernelsAndJobs_loads :
    ([(object 1 32 [] false, 101), (object 1 32 [0x1F] false, 2), (object 1 32 [0x1F] true, 12)].all fun c =>
      let s := accepted (holds c.1) r1
      brought (s.readSpace (reqAgent r1.seq) 1 0x40002000 c.1.length) == some c.1 && loadedAs s c.1 == c.2) = true := by decide +kernel
/-- Handles that name no kernel, one, and one that is being unloaded; a translator's load. -/
theorem witness_KernelsAndJobs :
    lacking ((acc).readSpace (reqAgent r1.seq) 1 0x80000000 8) = some .denied
    ∧ lacking ((ownedBuffer (acc)).readSpace (reqAgent r1.seq) 1 0x40002000 8) = some (.line (0x100002000 / 128)) ∧ (acc).kernel? 7 = none ∧ ((acc).kernel? 1).any (fun x => !x.unloading) = true
    ∧ ((acc (resd fun r => { r with kernels := r.kernels.map fun k => (k.1, { k.2 with unloading := true }) })).kernel? 1).any (·.unloading) = true
    ∧ (let os : List Open := [{ seq := 3, kind := 1, arg := 9 }, { seq := 4, kind := 0, arg := 9 }]
       (os.filter fun o => o.kind == 1 && o.arg == 9) = [{ seq := 3, kind := 1, arg := 9 }]) := by decide +kernel
/-- A portable form that breaks R307, and one that keeps it; whether a translator accepts what else it says is free. -/
theorem witness_KernelsAndJobs_acier :
    acierKept (zs 32) = false ∧ acierKept ([46, 97, 99, 105, 101, 114, 32, 49, 10] ++ [46, 107, 101, 114, 110, 101, 108, 32, 97, 10]
      ++ [46, 116, 104, 114, 101, 97, 100, 115, 32, 49, 10] ++ [46, 116, 101, 120, 116, 10] ++ [46, 101, 110, 100, 10]) = true
    ∧ ∀ a, Config.acierAccepted a = false ∨ Config.acierAccepted a = true :=
  ⟨by decide +kernel, by decide +kernel, fun a => by cases Config.acierAccepted a <;> simp⟩

/-- A job record at 0x40002000: one phase of one graph of two nodes, a service 5 before a copy. -/
def record (space : Nat) : List Byte :=
  let at' (n : Nat) : List Byte := leBytes 8 (0x40002000 + n)
  leBytes 2 space ++ leBytes 2 1 ++ zs 4 ++ at' 16 ++ at' 24 ++ leBytes 2 1 ++ zs 6 ++ at' 40 ++ at' 48 ++ leBytes 4 2 ++ zs 4 ++ at' 64
  ++ ([4, 0] ++ leBytes 2 1 ++ zs 4 ++ leBytes 8 5 ++ at' 112) ++ ([2, 0] ++ zs 2 ++ leBytes 4 1 ++ at' 120 ++ at' 0)
  ++ leBytes 4 1 ++ zs 4 ++ at' 0 ++ at' 64 ++ leBytes 8 8
/-- A machine that holds a record, with its counters' page. -/
def posting' : Option (List (List (List PNode))) × State :=
  let s := accepted (holds (record 1)) r1
  (brought (s.jobRecord (reqAgent r1.seq) 1 0x40002000), s)
/-- POST: a record that holds, of which the counters have a page and every node is posted, and one of another space. -/
theorem witness_KernelsAndJobs_post :
    posting'.1.any (fun ps => match posting'.2.residentPages 1 (16 * (unitTotals ps).length) false with
      | some (_, u) => (State.postNodes u posting'.2.res.nextJob 0 (numberNodes 0 0 ps.flatten)).isSome
      | none => false) = true
    ∧ lacking ((accepted (holds (record 2)) r1).jobRecord (reqAgent r1.seq) 1 0x40002000) = some .denied
    ∧ lacking ((ownedBuffer (accepted (holds (record 1)) r1)).jobRecord (reqAgent r1.seq) 1 0x40002000) = some (.line (0x100002000 / 128)) := by
  decide +kernel
/-- Cancels of each kind, and of names that match nothing; launches that drain and that do not; stops; and services ready, done and not. -/
theorem witness_KernelsAndJobs_jobs :
    (∀ c ∈ [(0, 1, 0), (1, 1, 2), (2, 1, 1), (3, 1, 0)], ((acc).cancelUnit c.1 c.2.1 c.2.2).isSome = true)
    ∧ (∀ k ∈ [0, 1, 2, 3], (acc).cancelUnit k 77 9 = none) ∧ (acc).launch? 1 = some { placeLaunch with ranges := [(0, 2 ^ 31)] } ∧ (acc).launch? 7 = none
    ∧ (let l : Launch := { placeLaunch with drainAt := some 9, drain := 0 }
       let s := acc (resd fun r => { r with launches := [(1, l)] })
       s.launch? 1 = some l ∧ l.drain = 0 ∧ l.drainAt.isSome = true)
    ∧ (let i : StopId := { launch := 1, die := 0, cluster := 0, core := 0, slot := 0, pc := 8, entry := 0xFF }
       i ∉ (acc).res.stops ∧ Machine.StopId.valid i = true ∧ Machine.StopId.valid { i with die := 2 } = false)
    ∧ (let j (ready : Bool) (st : UState) : Job := { placeJob with
         units := List.replicate 4 { done := 0, total := 1, state := st, fcode := 0 }
         nodes := placeJob.nodes.map fun x => { x with kind := .service 5, ready := ready } }
       let s (b : Bool) (st : UState) : State := acc (resd fun r => { r with jobs := [(1, j b st)] })
       (∀ b ∈ [true, false], (s b .running).job? 1 = some (j b .running)) ∧ (s true .complete).job? 1 = some (j true .complete)
       ∧ (j true .running).nodeDone 0 = false ∧ (j true .complete).nodeDone 0 = true ∧ (acc).job? 7 = none) := by decide +kernel
/-- A stop of a sequencer context that is stopped. -/
theorem witness_KernelsAndJobs_resume :
    (let i : StopId := { launch := 1, die := 0, cluster := 0, core := 0, slot := 0x80, pc := placeText + 4, entry := 0xFF }
     let s : State := acc fun s => { s with threads := [(ctxBase, { context [] with splits := [{ (context []).split 0 with stopped := true }] })]
                                            res := { s.res with stops := [i] } }
     s.stoppedAt i = some (ctxBase, 0) ∧ i ∈ s.res.stops) := by decide +kernel

/-- `live` with one launch, waiting with gangs to place and no gang resident, changed. -/
def waiting (f : Launch → Launch) : State :=
  { live (resd fun r => { r with launches := [(1, f { placeLaunch with next := 0, live := 0, dropped := false, ranges := [(0, 2 ^ 31)] })] }) with
    threads := [], gangs := [] }
/-- Placement: a launch that fits, one whose cores hold a line that is not writable yet, and none; two levels; and a spot. -/
theorem witness_Scheduling_gangs :
    (waiting id).visitOrder = [1] ∧ ((waiting id).launch? 1).any (·.resident) = true ∧ ((waiting id).kernelOf 1).isSome = true
    ∧ (let s := waiting id
       match s.launch? 1, s.kernelOf 1 with
       | some l, some k => (match s.gangSpot k (s.diesFor l) with
         | some p => s.flushBlocked p.cids == []
         | none => false)
       | _, _ => false) = true
    ∧ (let s := { waiting id with cores := (holding { line .S true with dirty := 1 }).cores, homes := [(pl, { home .HI (some 5) [] with present := true, queue := [{ src := 0, kind := 4, at' := (0, 0) }] })] }
       match s.launch? 1, s.kernelOf 1 with
       | some l, some k => (match s.gangSpot k (s.diesFor l) with
         | some p => s.flushBlocked p.cids != [] && !s.flushUnasked p.cids
         | none => false)
       | _, _ => false) = true
    ∧ (∀ l ∈ (live).res.launches, l.2.waits = false)
    ∧ (let s := (waiting id)
       let t : State := { s with res := { s.res with launches := s.res.launches ++ s.res.launches.map fun l => (2, { l.2 with e := 3 }) } }
       t.visitOrder = [2, 1] ∧ SMap.risingFrom 0 t.res.launches = true) := by decide +kernel
/-- Intervals: not over, and over below the ceiling, at it, blocking, with a victim and with one under drain; drains that end and do not. -/
theorem witness_Scheduling_intervals :
    (let s (f : Launch → Launch) : State := { waiting f with cycle := 1000 * usCycles }
     let due (s : State) : Bool := (s.launch? 1).any fun l => l.ready && !l.dropped && l.next < l.nx * l.ny * l.nz && l.age != 0 && l.ageFrom + l.age * usCycles ≤ s.cycle
     due (s id) = true ∧ due { s id with cycle := 1000 * usCycles - 1 } = false
     ∧ due (s fun l => { l with ceil := 1 }) = true ∧ due (s fun l => { l with blocking := true }) = true ∧ due (s fun l => { l with drainAt := some 9 }) = true
     ∧ (let b : Launch := { placeLaunch with next := 0, live := 0, dropped := false, e := 3, ceil := 3, blocking := true }
        let t (v : Launch) : State := { live (resd fun r => { r with launches := [(1, v), (2, b)] }) with cycle := 1000 * usCycles }
        (t placeLaunch).launch? 2 = some b ∧ (t placeLaunch).victim b = some 1
        ∧ (∀ v ∈ (t placeLaunch).res.launches, v.2.drainBy ≠ some 2)
        ∧ ∃ v ∈ (t { placeLaunch with drainBy := some 2 }).res.launches, v.2.drainBy = some 2)
     ∧ (let l : Launch := { placeLaunch with dropped := false, drainAt := some 7 }
        l.drainAt = some 7 ∧ 7 ≤ 1000 * usCycles ∧ placeLaunch.drainAt = none ∧ ∃ g ∈ (live).gangs, g.2.launch = 1 ∧ ∃ x ∈ g.2.groups, 0 < x.live)
     ∧ (let u : Upcall := { token := 4, space := 1, va := 0, since := 0, limit := 10 }
        let s (c : Nat) : State := { live (resd fun r => { r with upcalls := [u] }) with cycle := c }
        ((s 10).res.upcalls.find? fun u => u.token == 4 && u.since + u.limit ≤ (s 10).cycle) = some u
        ∧ ∀ u ∈ (s 9).res.upcalls, u.token = 4 → (s 9).cycle < u.since + u.limit)) := by decide +kernel
/-- A running node of a kind in `live`, with a page that a copy may use. -/
def nodeAt (f : Node → Node) : State := live (resd fun r => { r with jobs := [(1, { placeJob with nodes := placeJob.nodes.map f })] })
/-- Nodes: a launch that has ended and one that has not; copies that are whole, denied at first and on their way; collectives; a service. -/
theorem witness_Scheduling_nodes :
    (let runs (s : State) : Bool := match s.job? 1, s.node? 1 0 with
       | some jb, some x => x.ready && !(jb.unit (jb.nodeUnit 0)).state.final && x.ending.isNone
       | _, _ => false
     let copy (src dst len at' : Nat) : State := nodeAt fun x => { x with kind := .copy src dst len, progress := at' }
     runs live = true
     ∧ (let s : State := { live (resd fun r => { r with launches := [(1, { placeLaunch with dropped := false, live := 0 })] }) with threads := [], gangs := [] }
        runs s = true ∧ s.quiet 1 0 = true ∧ s.flushBlocked placeLaunch.used = [] ∧ ∀ q ∈ s.fab.qps, ∀ e ∈ q.2.queue, e.node ≠ nodeKey 1 0)
     ∧ runs (copy 0x40001000 0x40002000 8 8) = true ∧ (copy 0x40001000 0x40002000 8 8).copyDenied 1 0x40001008 0x40002008 (nodePiece 0x40002000 8 8) = none
     ∧ ((copy 0x80000000 0x40002000 8 0).copyDenied 1 0x80000000 0x40002000 8).isSome = true
     ∧ (let s := copy 0x40001000 0x40002000 8 0
        runs s = true ∧ s.copyDenied 1 0x40001000 0x40002000 8 = none ∧ s.pieceFrozen 1 0x40001000 0x40002000 8 = false
        ∧ (s.homeAccess (nodeAgent 1 0) (s.pieceLines 1 0x40001000 0x40002000 8)).2 = true
        ∧ (let t := (s.homeAccess (nodeAgent 1 0) (s.pieceLines 1 0x40001000 0x40002000 8)).1
           (t.readPieces (t.pieces 1 0x40001000 8)).2 = false))
     ∧ (∀ n ∈ [0, 1], runs (nodeAt fun x => { x with kind := .coll 0 1 0, posted := n }) = true ∧ (nodeAt fun x => { x with kind := .coll 0 1 0, posted := n }).quiet 1 0 = true)
     ∧ (let s := nodeAt fun x => { x with kind := .coll 0 1 0, posted := 1 }
        { s with fab := { s.fab with qps := [(3, pair [{ entry false 0 false false with node := nodeKey 1 0 }])] } }.quiet 1 0 = false)
     ∧ runs (nodeAt fun x => { x with kind := .service 9 }) = true) := by decide +kernel

/-- A first attempt of a call, and the next one of a call that waited. -/
theorem witness_CallsOnMemory_order :
    Runs live (.unmap 1 0x80000000 65536) none live
    ∧ (let s : State := live (resd fun r => { r with again := true, calls := [.unmap 1 0x80000000 65536], begun := [(1, 0)] })
       Runs s (.unmap 1 0x80000000 65536) (some 0) { s with res := { s.res with again := false, calls := [] } })
    ∧ isCall (.unmap 1 0 0) = true ∧ callSpace (.unmap 0 0 0) = 0 ∧ callSpace (.unmap 65535 0 0) = 65535 ∧ 65535 < callSpace (.unmap 65536 0 0)
    ∧ State.reset.mod.power ≠ .run ∧ (live).mod.power = .run ∧ (live).res.again = false
    ∧ (let s : State := live (resd fun r => { r with calls := [.unmap 1 0x80000000 65536] })
       ∃ j ∈ s.res.calls, callSpace j = 1) := by unfold Runs; decide +kernel

/-- Pages: whole ones and others, low and at the top, absent, mapped, present, leased and held. -/
theorem witness_CallsOnMemory_pages :
    Pages 0x80000000 131072 ∧ ¬ Pages 0x80000001 65536 ∧ Pages 0xFFFFFFFF0000 65536 ∧ ¬ Pages 0xFFFFFFFF0000 131072
    ∧ Mapped mapped 1 0x80000000 131072 ∧ ¬ Mapped live 1 0x80000000 65536 ∧ (∀ p ∈ pages 0x80000000 131072, (live).presentPage 1 p = false)
    ∧ ((live).makeEntries 1 2 (rangePages 0x80000000 65536)).isSome = true
    ∧ ((((mapped.callIn 1 (rangePages 0x80000000 65536)).hold 1 0 (rangePages 0x80000000 65536)).pte? 1 0x80000000).any fun c => c.2.testBit 2) = true
    ∧ (∀ p ∈ pages 0x80000000 131072, (mapped.pte? 1 (p * 65536)).all (fun c => !c.2.testBit 2) = true)
    ∧ (∀ p ∈ pages 0x80000000 65536, (mapped.callIn 1 (rangePages 0x80000000 65536)).presentPage 1 p = true)
    ∧ (let u : Upcall := { token := 4, space := 1, va := 0x80000000, since := 0, limit := 10 }
       let s : State := live (resd fun r => { r with upcalls := [u], holders := [(1, 0x8000, 0)] })
       (∃ u ∈ s.res.upcalls, u.space = 1 ∧ u.va / 65536 ∈ pages 0x80000000 65536) ∧ (s.res.upcalls.find? fun u => u.token == 4 && u.space == 1) = some u
       ∧ (∀ u ∈ s.res.upcalls, u.token ≠ 5 ∨ u.space ≠ 1) ∧ (1, 0x8000, 0) ∈ s.res.holders ∧ pages 0x80000000 65536 = [0x8000]
       ∧ (let rest := s.res.holders.filter (· ≠ (1, 0x8000, 0))
          (∀ h ∈ rest, h.1 ≠ 1 ∨ h.2.1 ≠ 0x8000)) ∧ ¬ ∃ u ∈ (live).res.upcalls, u.space = 1)
    ∧ (let hs : List (Nat × Nat × Nat) := [(1, 0x8000, 0), (1, 0x8000, 7)]
       ∃ h ∈ hs.filter (· ≠ (1, 0x8000, 0)), h.1 = 1 ∧ h.2.1 = 0x8000)
    ∧ (let s : State := live fun s => s.updSpace 1 fun x => { x with pagers := [(0x80000000, 65536, 9)] }
       (∃ p ∈ (s.space 1).pagers, p.1 < 0x80000000 + 65536 ∧ 0x80000000 < p.1 + p.2.1) ∧ ¬ ∃ p ∈ (s.space 1).pagers, p.1 < 0x80020000 ∧ 0x80010000 < p.1 + p.2.1)
    ∧ (mapped.pte? 1 0x80000000).any (fun c => setBits 0 1 0 c.2 < 2 ^ 64) = true ∧ (live).poison = [] := by decide +kernel
/-- A pager's buffer that cannot be read, and one whose first bytes can; a page for any bytes supplied. -/
theorem witness_CallsOnMemory_supply (bs : List Byte) :
    lacking ((live).readSpace (callAgent 1) 1 0x80000000 65536) = some .denied ∧ (brought ((live).readSpace (callAgent 1) 1 0x40010000 64)).isSome = true
    ∧ lacking ((ownedBuffer live).readSpace (callAgent 1) 1 0x40002000 64) = some (.line (0x100002000 / 128)) ∧ ((mapped).supplyPage 1 0x8000 bs).isSome = true :=
  ⟨by decide +kernel, by decide +kernel, by decide +kernel, by
    have h : ((mapped).supplyPage 1 0x8000 []).isSome = true := by decide +kernel
    unfold State.supplyPage at h ⊢
    cases e : mapped.pte? 1 (0x8000 * 65536) with
    | none => rw [e] at h; exact h
    | some c =>
      rw [e] at h
      cases f : mapped.allocFrame (c.2 / 128 % 2) with
      | none => simp [f] at h
      | some d => simp [f]⟩
/-- Moves: an entry with a mode, absent and present pages, and recalls that wait and that do not. -/
theorem witness_CallsOnMemory_moves :
    (mapped.pte? 1 0x80000000).any (fun c => !c.2.testBit 6 && c.2 % 2 == 0) = true
    ∧ (let s := mapped.callIn 1 (rangePages 0x80000000 65536)
       (match s.pte? 1 0x80000000 with
        | some (a, e) => let b := e / 4096 % 2 ^ 40 * 4096
          e % 2 == 1 && e / 256 % 4 == 0 && ((s.pokeRaw a 8 (setBits 10 1 1 e)).recallPage (callAgent 1) b).2
          && (((s.pokeRaw a 8 (setBits 8 2 1 e)).recallPage (callAgent 1) b).1.allocFrame 1).isSome
          && !(({ s with homes := [(b / 128, home .HI (some 5) [])] } : State).recallPage (callAgent 1) b).2
          -- a page that forwards, with nothing left and with a write of its own queued
          && setBits 8 2 2 e / 256 % 4 == 2
          && (let m := s.pokeRaw a 8 (setBits 8 2 2 e)
              let q : State := { m with fab := { m.fab with frozen := [{ packet 1 2 64 0 (List.replicate 64 7) with
                hdr := { (packet 1 2 64 0 []).hdr with va := 0x80000000 } }] } }
              !m.forwarding 1 0x80000000 b && q.forwarding 1 0x80000000 b)
        | none => false) = true)
    ∧ (mapped.pte? 1 0x90000000) = none ∧ (mapped.pte? 1 0x80000000).any (fun c => c.2.testBit 6 == false) = true := by decide +kernel

/-- Slots empty, filled, retired and out of range; windows and queue pairs; transfers; queues; chunk pages; translators. -/
theorem witness_CallsOnTables :
    (let w : CapBody := .window 1 1 0x1000 0x1000 true true false 9
     let s (c : Cap) : State := live fun s => s.updSpace 1 fun x => { x with caps := [(5, c)] }
     let c : Cap := { gen := 2, retired := false, body := some w }
     (live).capBodyOk 1 w = true ∧ (live).capBodyOk 1 (.queuePair 1 0 3 0) = false ∧ ((live).ensureTable 1).isSome = true ∧ 5 < ((live).space 1).capSlots ∧ ((live).cap 1 5).body = none ∧ ((live).cap 1 5).retired = false
     ∧ (s c).cap 1 5 = c ∧ ((s { c with retired := true, body := none }).cap 1 5).retired = true
     ∧ ((s c).updCap 1 5 fun c => { c with gen := 3 }).transfers (1, 5, 2) = false
     ∧ (let r : Retry := { sentPkt 1 (.lanes 0 1 two 0 1) 9 with gen := some (1, 5, 2) }
        { s c with fab := { (s c).fab with src := [srcEnd 1 .bulk [r]] } }.transfers (1, 5, 2) = true))
    ∧ (let s (q : QPair) : State := live fun s => { s with fab := { s.fab with qps := [(3, q)] } }
       (live).qpair? 0 = none ∧ ((live).residentPages 1 256 false).isSome = true
       -- of a revoked slot's queue, an entry of before the revocation, and one of after it
       ∧ (let q := pair [entry true 0 false false]
          (∃ e ∈ q.queue, e.pos < 9) ∧ ¬ ∃ e ∈ q.queue, e.pos < 8)
       ∧ (s (pair [])).qpair? 3 = some (pair []) ∧ (pair []).space = 1 ∧ (∀ e ∈ [entry false 0 false false], e.fired = false)
       ∧ (∃ e ∈ [entry true 0 false false], e.fired = true) ∧ SMap.risingFrom 0 (s (pair [])).fab.qps = true ∧ (pair []).queue = []
       ∧ (∀ q, (s (pair [])).qpair? 3 = some q → q.space ≠ 2)
       ∧ (∃ q ∈ (s (pair [entry true 0 false false])).fab.qps, q.2.space = 1 ∧ q.2.queue ≠ [])
       ∧ ¬ (∃ c ∈ ((live).space 1).caps, ∃ peer pqp m, c.2.body = some (.queuePair peer pqp 3 m)))
    ∧ (let s : State := live fun s => s.updSpace 1 fun x => { x with caps := [(5, { gen := 0, retired := false, body := some (.queuePair 1 0 3 9) })] }
       ∃ c ∈ (s.space 1).caps, ∃ peer pqp m, c.2.body = some (.queuePair peer pqp 3 m))
    ∧ ((live).space 1).chunk = none ∧ (¬ ∃ q ∈ (live).fab.qps, q.2.space = 1)
    ∧ freeRun ((live).res.spaces.filterMap fun x => if x.1 = 1 then none else x.2.chunk) 65536 (2 ^ 26) 65536 = some 0
    ∧ (let s : State := live (resd fun r => { r with translators := [{ token := 9, space := 1 }] })
       (∃ x ∈ s.res.translators, x.token = 9 ∧ x.space = 1) ∧ ¬ ∃ x ∈ (live).res.translators, x.token = 9) := by
  refine ⟨by decide +kernel, ⟨by decide +kernel, by decide +kernel, by decide +kernel, by decide +kernel, by decide +kernel, by decide +kernel,
    by decide +kernel, by decide +kernel, by decide +kernel, ?_, by decide +kernel, ?_⟩, ⟨(5, _), List.mem_of_getElem? (i := 0) rfl, 1, 0, 9, rfl⟩, by decide +kernel, by decide +kernel,
    by decide +kernel, by decide +kernel⟩
  · intro q h
    have : some (pair []) = some q := h
    cases this; decide
  · rintro ⟨c, hc, _⟩
    have : ((live).space 1).caps = [] := by decide +kernel
    rw [this] at hc; cases hc

/-- Slots of flash: none valid; one whose signature is the only condition left. -/
theorem witness_TheModule_boot :
    State.reset.mod.power = .off ∧ (live).mod.power ≠ .off ∧ bootChoice 0 none none = none := by decide +kernel
/-- A slot with a header that is formed is chosen where its signature verifies; whether it does is free. -/
theorem witness_TheModule_images :
    ∃ x : ImageSlot, imageValid 0 (some x) = Config.ed25519Verify Config.vendorKey (ImageSlot.signed x) x.sig
      ∧ (imageValid 0 (some x) = true → bootChoice 0 (some x) none = some x ∧ bootChoice 0 (some x) (some x) = some x) := by
  let x : ImageSlot := { magic := imageMagic, version := 1, size := 0, sig := 0, digest := Config.sha512 [], reserved := List.replicate 112 0, body := [] }
  have f : ImageSlot.formed x = true := by simp [ImageSlot.formed, x]
  have v : decide (0 ≤ x.version) = true := by decide
  refine ⟨x, ?_, fun h => ?_⟩
  · show (ImageSlot.formed x && Config.ed25519Verify Config.vendorKey (ImageSlot.signed x) x.sig && decide (0 ≤ x.version)) = _
    rw [f, v, Bool.true_and, Bool.and_true]
  · clear_value x
    exact ⟨by unfold bootChoice bootSlot; rw [h]; rfl, by unfold bootChoice bootSlot; rw [h]; simp⟩
/-- Temperatures, intervals, watts, finds and spare lanes at the ends of their ranges. -/
theorem witness_TheModule :
    (let s : State := { live with cycle := 10000 * usCycles }
     (∃ x ∈ [100], 100 ≤ x) ∧ (∀ x ∈ [94, 0], x < 95) ∧ (live).mod.thermalAt + 10000 * usCycles ≤ s.cycle ∧ ¬ (live).mod.thermalAt + 10000 * usCycles ≤ s.cycle - 1
     ∧ s.mod.power = .run ∧ State.reset.mod.power ≠ .run)
    ∧ Alive live ∧ ¬ Alive State.reset
    ∧ 2 ^ 35 - 1 < 2 ^ 35 ∧ 8 ∉ (live).poison ∧ 8 ∈ ({ live with poison := [8] } : State).poison ∧ (∀ q ∈ (live).faultqs, q.recs = [])
    ∧ (live).occupied 0 = true ∧ (live).occupied 3 = false ∧ (live).res.again = false ∧ (∀ j ∈ (live).res.calls, callSpace j ≠ 65536 + 3)
    ∧ SMap.wf Core.reset (live).cores = true ∧ ((live).core 3).retired = false ∧ ((live).core 3).spare.getD 2 none = none
    ∧ (∀ c : Core, c = { Core.reset with retired := true, spare := [some 31] } → c.retired = true ∧ c.spare.getD 0 none = some 31) :=
  ⟨by decide +kernel, by decide +kernel, by decide +kernel, by decide +kernel, by decide +kernel, by decide +kernel, by decide +kernel, by decide +kernel,
   by decide +kernel, by decide +kernel, by decide +kernel, by decide +kernel, by decide +kernel, by decide +kernel, fun c h => by subst h; decide +kernel⟩

/-- A sensor at 115 °C and none; telemetry and the scrub due after their intervals, the scrub with an error to find or none; a remap
that waits and the answers of a test of the lanes. -/
theorem witness_TheModule_due :
    (∃ x ∈ [0, 115], 115 ≤ x) ∧ (∀ x ∈ [0, 114], x < 115)
    ∧ (let s : State := { live with cycle := 1000000 * usCycles }
       s.mod.teleAt + 1000000 * usCycles ≤ s.cycle ∧ (live).cycle < (live).mod.teleAt + 1000000 * usCycles)
    ∧ (let s : State := { live with cycle := 24 * 3600000000 * usCycles, hbmErrs := [(8, [(0, 1)])] }
       Alive s ∧ s.mod.scrubAt + s.res.scrubHours * 3600000000 * usCycles ≤ s.cycle ∧ s.hbmErrs = [(8, [(0, 1)])])
    ∧ (live).hbmErrs = [] ∧ (live).sectorCoded 8 = true
    ∧ (match readSector (Memory.bytes (live).mem (8 * 32) 32) true [(0, 1)] with
       | .corrected => true
       | _ => false) = true
    ∧ (∀ r : Option (Nat × Nat), r = none ∨ ∃ q l, r = some (q, l)) := by
  refine ⟨by decide +kernel, by decide +kernel, by decide +kernel, by decide +kernel, by decide +kernel, by decide +kernel, by decide +kernel, ?_⟩
  intro r
  cases r with
  | none => exact .inl rfl
  | some x => exact .inr ⟨x.1, x.2, rfl⟩

/-- A state whose memory has its form, and that takes a step. -/
theorem witness_StepKeepsMemory :
    (live).memoryOk ∧ (match step { live with iss := none, inputs := [(0, .gangPlacement)] } with
      | .next _ => true
      | _ => false) = true := by unfold State.memoryOk; decide +kernel
/-- An event. -/
theorem witness_ResetIsOff : Instr.event .gangPlacement = true := by decide +kernel
/-- A read that a write happens before, with the release and the acquire between them. -/
theorem witness_SynchronisedReadsSeeWrites :
    (let x := mp .cls [(1, 2), (0, 3)]
     x.allowed = true ∧ x.hb 0 3 = true ∧ (x.ev 0).writes = true ∧ (x.ev 3).reads = true ∧ 0 ∈ (x.ev 0).locs ∧ 0 ∈ (x.ev 3).locs ∧ x.po 0 1 = true
     ∧ x.sw 1 2 = true ∧ x.po 2 3 = true ∧ x.inScope 1 2 = true ∧ (x.ev 1).kind ≠ .f ∧ (x.ev 1).writes = true ∧ (x.ev 2).kind ≠ .f ∧ (x.ev 2).reads = true
     ∧ x.source 2 1 = some 1 ∧ 1 ∈ (x.ev 1).locs ∧ 1 ∈ (x.ev 2).locs ∧ 1 ∈ x.releaseSeq 1 1) := by decide +kernel

end Sys2Proof.Tests
end

section
/-!
PROOFS. The matrix engines' arithmetic and the tiles that their commands write (R84 to R102, R284 to R287): products of elements,
alignment, the sum of a level, the rounding of level 3, and the accumulator elements after `mxclr`, `mxld` and a dense `mma`.
-/
namespace Sys2Proof.Machine
open Sys2Proof.Spec

/-! ### Products -/

theorem Elem.mul_of_nan {a b : Elem} (h : a.kind = .nan ∨ b.kind = .nan) : a.mul b = .nan := by
  simp [Elem.mul, h]

theorem Elem.mul_of_inf_zero {a b : Elem} (ha : a.kind = .inf) (hb : b.kind = .zero) : a.mul b = .nan := by
  simp [Elem.mul, ha, hb]

theorem Elem.mul_of_zero_inf {a b : Elem} (ha : a.kind = .zero) (hb : b.kind = .inf) : a.mul b = .nan := by
  simp [Elem.mul, ha, hb]

theorem Elem.mul_of_inf_left {a b : Elem} (ha : a.kind = .inf) (hb : b.kind = .inf ∨ b.kind = .num) :
    a.mul b = .inf (a.neg != b.neg) := by
  rcases hb with hb | hb <;> simp [Elem.mul, ha, hb]

theorem Elem.mul_of_inf_right {a b : Elem} (ha : a.kind = .num) (hb : b.kind = .inf) : a.mul b = .inf (a.neg != b.neg) := by
  simp [Elem.mul, ha, hb]

/-- The term of two finite elements (R94). -/
def Elem.product (a b : Elem) : Term :=
  { n := if a.neg != b.neg then -((a.s * b.s : Nat) : Int) else ((a.s * b.s : Nat) : Int), x := a.e + b.e - a.fb - b.fb, a := a.e + b.e }

theorem Elem.mul_of_finite {a b : Elem} (ha : a.kind = .zero ∨ a.kind = .num) (hb : b.kind = .zero ∨ b.kind = .num) :
    a.mul b = if a.s * b.s = 0 then .none else .term (a.product b) := by
  have h : (((a.s * b.s : Nat) : Int) = 0) = (a.s * b.s = 0) := by simp
  rcases ha with ha | ha <;> rcases hb with hb | hb <;> simp only [Elem.mul, ha, hb, h] <;> rfl

/-- The value of a finite element, as its fields give it (R94). -/
def Elem.rat (a : Elem) : ℚ := (if a.neg then -1 else 1) * ((a.s : ℚ) / 2 ^ a.fb) * 2 ^ a.e

theorem Elem.rat_eq_zero {a : Elem} : a.rat = 0 ↔ a.s = 0 := by
  cases h : a.neg <;> simp [Elem.rat, h, zpow_ne_zero]

theorem Elem.product_value (a b : Elem) : ((a.product b).n : ℚ) * 2 ^ (a.product b).x = a.rat * b.rat := by
  have hx : (2 : ℚ) ^ (a.e + b.e - a.fb - b.fb) = 2 ^ a.e * 2 ^ b.e / 2 ^ a.fb / 2 ^ b.fb := by
    rw [zpow_sub₀ two_ne_zero, zpow_sub₀ two_ne_zero, zpow_add₀ two_ne_zero, zpow_natCast, zpow_natCast]
  have hn : ((a.product b).n : ℚ) = (if a.neg then -1 else 1) * (if b.neg then -1 else 1) * (a.s * b.s) := by
    cases ha : a.neg <;> cases hb : b.neg <;> simp [Elem.product, ha, hb]
  rw [hn, show (a.product b).x = a.e + b.e - a.fb - b.fb from rfl, hx, Elem.rat, Elem.rat]
  ring

/-- R94, R99: the special products by the kinds of the elements, the finite ones by the value of their term. -/
theorem productsOfElements : ProductsOfElements := by
  intro a b
  refine ⟨Elem.mul_of_nan, Elem.mul_of_inf_zero, Elem.mul_of_zero_inf, Elem.mul_of_inf_left, Elem.mul_of_inf_right, fun ha hb => ?_⟩
  have hz : a.rat * b.rat = 0 ↔ a.s * b.s = 0 := by simp only [mul_eq_zero, Elem.rat_eq_zero]
  have hm := Elem.mul_of_finite ha hb
  refine ⟨fun h0 => ?_, fun h0 => ⟨a.product b, ?_, Elem.product_value a b, rfl⟩⟩
  · rw [hm, if_pos (hz.mp h0)]
  · rw [hm, if_neg (mt hz.mpr h0)]

/-! ### Alignment -/

theorem alignTo_of_nonneg (aln : Nat) (n : Int) {sh : Int} (h : 0 ≤ sh) : alignTo aln n sh = n * 2 ^ sh.toNat := by
  simp [alignTo, h]

/-- A shift upward has an integer value, which every ALN keeps. -/
theorem alignTo_exact (aln : Nat) (n : Int) {sh : Int} (h : 0 ≤ sh) : (n : ℚ) * 2 ^ sh = (alignTo aln n sh : ℚ) := by
  rw [alignTo_of_nonneg aln n h]
  push_cast
  rw [← zpow_natCast, Int.toNat_of_nonneg h]

/-- A shift downward divides by a power of two. -/
theorem shift_down (n : Int) {sh : Int} (h : ¬ 0 ≤ sh) : (n : ℚ) * 2 ^ sh = (n : ℚ) / ((2 ^ (0 - sh).toNat : Nat) : ℚ) := by
  have hk : sh = -((0 - sh).toNat : Int) := by omega
  conv_lhs => rw [hk, zpow_neg, zpow_natCast]
  push_cast
  rfl

theorem alignTo_floor (n sh : Int) : alignTo 0 n sh = ⌊(n : ℚ) * 2 ^ sh⌋ := by
  by_cases h : 0 ≤ sh
  · rw [alignTo_exact 0 n h, Int.floor_intCast]
  · rw [shift_down n h, Rat.floor_intCast_div_natCast]
    simp [alignTo, h]

theorem alignTo_towardZero (n sh : Int) :
    alignTo 1 n sh = if 0 ≤ n then ⌊(n : ℚ) * 2 ^ sh⌋ else ⌈(n : ℚ) * 2 ^ sh⌉ := by
  by_cases h : 0 ≤ sh
  · rw [alignTo_exact 1 n h, Int.floor_intCast, Int.ceil_intCast, ite_self]
  · have hd : alignTo 1 n sh = n.tdiv ((2 ^ (0 - sh).toNat : Nat) : Int) := by simp [alignTo, h]
    rw [shift_down n h, Rat.floor_intCast_div_natCast, Rat.ceil_intCast_div_natCast, hd]
    split
    · exact Int.tdiv_eq_ediv_of_nonneg ‹_›
    · rw [← Int.tdiv_eq_ediv_of_nonneg (by omega), Int.neg_tdiv, neg_neg]

/-- Nearest-even division (R97): the quotient, or one more where the remainder is above a half, or is a half and the quotient is odd. -/
def nearestEven (n d : Int) : Int := if d < 2 * (n % d) || (d == 2 * (n % d) && n / d % 2 == 1) then n / d + 1 else n / d

/-- What nearest-even division leaves of its dividend is at most half the divisor, and exactly half only beside an even quotient. -/
theorem nearestEven_spec (n : Int) {d : Int} (hd : 0 < d) :
    |2 * (nearestEven n d * d - n)| ≤ d ∧ (|2 * (nearestEven n d * d - n)| = d → nearestEven n d % 2 = 0) := by
  have hn : n / d * d = n - n % d := by have := Int.ediv_mul_add_emod n d; omega
  have hr := Int.emod_nonneg n hd.ne'
  have hl := Int.emod_lt_of_pos n hd
  unfold nearestEven
  split
  case isTrue h =>
    have e : (n / d + 1) * d - n = d - n % d := by rw [add_mul, hn]; ring
    simp only [Bool.or_eq_true, Bool.and_eq_true, decide_eq_true_eq, beq_iff_eq] at h
    rw [e, abs_of_nonneg (by omega)]
    omega
  case isFalse h =>
    have e : n / d * d - n = -(n % d) := by rw [hn]; ring
    simp only [Bool.or_eq_true, Bool.and_eq_true, decide_eq_true_eq, beq_iff_eq] at h
    rw [e, mul_neg, abs_neg, abs_of_nonneg (by omega)]
    omega

theorem alignTo_nearestEven (n sh : Int) :
    |(alignTo 2 n sh : ℚ) - n * 2 ^ sh| ≤ 1 / 2
    ∧ (|(alignTo 2 n sh : ℚ) - n * 2 ^ sh| = 1 / 2 → alignTo 2 n sh % 2 = 0) := by
  by_cases h : 0 ≤ sh
  · rw [alignTo_exact 2 n h, sub_self, abs_zero]
    norm_num
  · obtain ⟨d, hd⟩ : ∃ d : Nat, d = 2 ^ (0 - sh).toNat := ⟨_, rfl⟩
    have hpos : 0 < d := hd ▸ Nat.two_pow_pos _
    have ha : alignTo 2 n sh = nearestEven n d := by simp [alignTo, h, nearestEven, hd]
    obtain ⟨hle, heq⟩ := nearestEven_spec n (Int.natCast_pos.mpr hpos)
    have hq : (0 : ℚ) < d := Nat.cast_pos.mpr hpos
    have he : |(nearestEven n d : ℚ) - n / d| = (|2 * (nearestEven n d * d - n)| : Int) / (2 * d) := by
      have hv : (nearestEven n d : ℚ) - n / d = (2 * (nearestEven n d * d - n)) / (2 * d) := by field_simp
      rw [hv, abs_div, abs_of_pos (show (0 : ℚ) < 2 * d by positivity)]
      push_cast
      rfl
    rw [shift_down n h, ← hd, ha, he, show (1 / 2 : ℚ) = d / (2 * d) by field_simp, div_le_div_iff_of_pos_right (by positivity),
      div_left_inj' (by positivity)]
    exact ⟨by exact_mod_cast hle, fun h => heq (by exact_mod_cast h)⟩

/-! ### Levels -/

/-- A level with one more term cut at weight 2^lam. -/
def Level.addTerm (aln : Nat) (lam : Int) (l : Level) (t : Term) : Level :=
  let c := swampOf t.n t.x lam
  { l with z := l.z + alignTo aln t.n (t.x - lam), lost := l.lost + c.1, swamp := l.swamp + c.2 }

/-- The largest anchor of a term and others. -/
def topAnchor (t : Term) (r : List Term) : Int := r.foldl (fun m t => max m t.a) t.a

theorem levelOf_of_nil (aln f : Nat) {ts : List Term} (h : (ts.filter fun t => t.n != 0) = []) :
    levelOf aln f ts = { z := 0, a := 0, lost := 0, swamp := 0 } := by
  simp only [levelOf, h]

theorem levelOf_of_cons (aln f : Nat) {ts r : List Term} {t : Term} (h : (ts.filter fun t => t.n != 0) = t :: r) :
    levelOf aln f ts = (t :: r).foldl (Level.addTerm aln (topAnchor t r - f)) { z := 0, a := topAnchor t r, lost := 0, swamp := 0 } := by
  simp only [levelOf, h]
  rfl

theorem foldl_addTerm_a (aln : Nat) (lam : Int) (ts : List Term) (l : Level) : (ts.foldl (Level.addTerm aln lam) l).a = l.a := by
  induction ts generalizing l with
  | nil => rfl
  | cons t r ih => exact ih _

theorem foldl_addTerm_z (aln : Nat) (lam : Int) (ts : List Term) (l : Level) :
    (ts.foldl (Level.addTerm aln lam) l).z = l.z + (ts.map fun t => alignTo aln t.n (t.x - lam)).sum := by
  induction ts generalizing l with
  | nil => simp
  | cons t r ih => rw [List.foldl_cons, ih, List.map_cons, List.sum_cons, ← add_assoc]; rfl

theorem topAnchor_cons (t u : Term) (r : List Term) : topAnchor t (u :: r) = topAnchor { t with a := max t.a u.a } r := rfl

/-- The largest anchor is one of the anchors, and none exceeds it. -/
theorem topAnchor_spec (t : Term) (r : List Term) :
    (∃ u ∈ t :: r, u.a = topAnchor t r) ∧ ∀ u ∈ t :: r, u.a ≤ topAnchor t r := by
  induction r generalizing t with
  | nil => simp [topAnchor]
  | cons u r ih =>
    obtain ⟨⟨w, hw, he⟩, hle⟩ := ih { t with a := max t.a u.a }
    have htop := hle _ List.mem_cons_self
    simp only [List.mem_cons, forall_eq_or_imp, exists_eq_or_imp, topAnchor_cons] at hw hle ⊢
    refine ⟨?_, le_trans (le_max_left ..) htop, le_trans (le_max_right ..) htop, hle.2⟩
    rcases hw with rfl | hw
    · rcases max_choice t.a u.a with h | h
      · exact .inl (h.symm.trans he)
      · exact .inr (.inl (h.symm.trans he))
    · exact .inr (.inr ⟨w, hw, he⟩)

/-- R96, R97: each ALN by its rational value, a level by the fold over its live terms. -/
theorem levelsAlignAndSum : LevelsAlignAndSum := by
  refine ⟨fun n sh => ⟨alignTo_floor n sh, alignTo_towardZero n sh, alignTo_nearestEven n sh⟩, fun aln f ts => ?_⟩
  dsimp only
  cases h : ts.filter fun t => t.n != 0 with
  | nil => exact ⟨fun _ => by rw [levelOf_of_nil aln f h], fun hne => absurd rfl hne⟩
  | cons t r =>
    refine ⟨fun hn => absurd hn (List.cons_ne_nil t r), fun _ => ?_⟩
    obtain ⟨hmem, hle⟩ := topAnchor_spec t r
    rw [levelOf_of_cons aln f h, foldl_addTerm_a, foldl_addTerm_z, zero_add]
    exact ⟨hmem, hle, rfl⟩

/-! ### Level 3 -/

/-- The integer of a number at a lower exponent has the number's value. -/
theorem scaled_value (neg : Bool) (m : Nat) {e low : Int} (h : low ≤ e) :
    (scaled neg m e low : ℚ) * 2 ^ low = rat (.fin neg m e) := by
  have he : (2 : ℚ) ^ e = 2 ^ (e - low).toNat * 2 ^ low := by
    rw [← zpow_natCast, Int.toNat_of_nonneg (by omega), ← zpow_add₀ two_ne_zero, sub_add_cancel]
  cases neg <;> simp [scaled, rat, he, mul_assoc]

/-- An integer of its sign and magnitude has its own value. -/
theorem rat_sign_natAbs (v x : Int) : rat (.fin (decide (v < 0)) v.natAbs x) = v * 2 ^ x := by
  have : ((v.natAbs : Nat) : ℚ) = |(v : ℚ)| := by rw [Nat.cast_natAbs, Int.cast_abs]
  by_cases h : v < 0
  · simp [rat, h, this, abs_of_neg (Int.cast_lt_zero.mpr h)]
  · simp [rat, h, this, abs_of_nonneg (Int.cast_nonneg (not_lt.mp h))]

/-- The exact sum of a finite accumulator and a span's sum, as an integer at their lower exponent (R98). -/
def level3Sum (neg : Bool) (m : Nat) (e v x : Int) : Int :=
  scaled neg m e (min e x) + scaled (decide (v < 0)) v.natAbs x (min e x)

theorem level3Sum_value (neg : Bool) (m : Nat) (e v x : Int) :
    (level3Sum neg m e v x : ℚ) * 2 ^ min e x = rat (.fin neg m e) + v * 2 ^ x := by
  rw [level3Sum, Int.cast_add, add_mul, scaled_value _ _ (min_le_left ..), scaled_value _ _ (min_le_right ..), rat_sign_natAbs]

theorem fp32_nan : fp32.nan = 0x7FC00000 := rfl
theorem fp32_round_inf (neg : Bool) : fp32.round .rne false (.inf neg) = fp32.signed neg fp32.infMag := rfl

section
variable (d : AccDesc) (y : Nat) (v x : Int)

theorem level3_of_nan {nan p n : Bool} (h : nan = true ∨ (p = true ∧ n = true)) : (level3 d y nan p n v x).1 = 0x7FC00000 := by
  simp [level3, h, fp32_nan]

theorem level3_of_inf {p n : Bool} (h : p ≠ n) : (level3 d y false p n v x).1 = match fp32.value y with
    | .nan => 0x7FC00000
    | .inf m => if m = n then fp32.round .rne false (.inf n) else 0x7FC00000
    | .fin .. => fp32.round .rne false (.inf n) := by
  obtain rfl : p = !n := Bool.eq_not.mpr h
  cases hv : fp32.value y <;> simp [level3, hv, fp32_round_inf, fp32_nan]

theorem level3_of_zero : (level3 d y false false false 0 x).1 = y := by simp [level3]

variable {v}

theorem level3_nan_acc (hv : v ≠ 0) (hy : fp32.value y = .nan) : (level3 d y false false false v x).1 = 0x7FC00000 := by
  simp [level3, hv, hy, fp32_nan]

theorem level3_inf_acc {m : Bool} (hv : v ≠ 0) (hy : fp32.value y = .inf m) : (level3 d y false false false v x).1 = y := by
  simp [level3, hv, hy]

theorem level3_fin_acc {m : Bool} {k : Nat} {e : Int} (hv : v ≠ 0) (hy : fp32.value y = .fin m k e) :
    (level3 d y false false false v x).1 = if level3Sum m k e v x = 0 then 0
      else fp32.roundFin (if d.rz then .rz else .rne) false (decide (level3Sum m k e v x < 0)) (level3Sum m k e v x).natAbs (min e x) := by
  simp only [level3, hv, hy, Bool.false_and, Bool.or_false, Bool.false_eq_true, if_false, apply_ite Prod.fst, ite_self]
  rfl

end

/-- R98, R99: the flags first, then the accumulator's kind; two finite numbers are summed exactly and rounded once. -/
theorem accumulationRoundsOnce : AccumulationRoundsOnce := by
  intro d y nan p n v x _
  refine ⟨level3_of_nan d y v x, ?_, ?_, ?_, ?_, ?_⟩
  · rintro rfl h
    exact level3_of_inf d y v x h
  · rintro rfl rfl rfl rfl
    exact level3_of_zero d y x
  · rintro rfl rfl rfl hv hy
    exact level3_nan_acc d y x hv hy
  · rintro m rfl rfl rfl hv hy
    exact level3_inf_acc d y x hv hy
  · rintro m k e rfl rfl rfl hv hy
    have hval := level3Sum_value m k e v x
    have hzero : rat (fp32.value y) + v * 2 ^ x = 0 ↔ level3Sum m k e v x = 0 := by
      rw [hy, ← hval, mul_eq_zero_iff_right (zpow_ne_zero _ two_ne_zero), Int.cast_eq_zero]
    have hr := level3_fin_acc d y x hv hy
    refine ⟨fun h0 => by rw [hr, if_pos (hzero.mp h0)], fun h0 => ?_⟩
    have hs := mt hzero.mpr h0
    refine ⟨decide (level3Sum m k e v x < 0), (level3Sum m k e v x).natAbs, min e x, ?_, ?_⟩
    · rw [rat_sign_natAbs, hval, hy]
    · rw [hr, if_neg hs, FFmt.round, if_neg (Int.natAbs_ne_zero.mpr hs)]

/-! ### Maps and lists filled over a range -/

theorem SMap.fill_wf {α : Type} [DecidableEq α] {d : α} {m : SMap α} (b n : Nat) (f : Nat → α) (h : SMap.wf d m = true) :
    SMap.wf d ((List.range n).foldl (fun m i => SMap.set d m (b + i) (f i)) m) = true := by
  induction n with
  | zero => exact h
  | succ n ih => rw [List.range_succ, List.foldl_append]; exact SMap.set_wf _ _ ih

/-- Setting n keys from b upward: each reads back, and every other key keeps its value. -/
theorem SMap.getD_fill {α : Type} [DecidableEq α] {d : α} {m : SMap α} (b n : Nat) (f : Nat → α) (h : SMap.wf d m = true) (k : Nat) :
    SMap.getD ((List.range n).foldl (fun m i => SMap.set d m (b + i) (f i)) m) k d
      = if b ≤ k ∧ k < b + n then f (k - b) else SMap.getD m k d := by
  induction n with
  | zero => rw [if_neg (by omega)]; rfl
  | succ n ih =>
    rw [List.range_succ, List.foldl_append, List.foldl_cons, List.foldl_nil]
    by_cases hk : k = b + n
    · rw [hk, SMap.getD_set_same _ _ (SMap.fill_wf b n f h), if_pos (by omega), Nat.add_sub_cancel_left]
    · have hiff : (b ≤ k ∧ k < b + (n + 1)) ↔ (b ≤ k ∧ k < b + n) := by omega
      rw [SMap.getD_set_ne _ (SMap.fill_wf b n f h) hk, ih]
      simp only [hiff]

/-- The elements of a matrix of M rows and N columns, row by row. -/
def rowMajor {α : Type} (M N : Nat) (f : Nat → Nat → α) : List α := (List.range M).flatMap fun m => (List.range N).map (f m)

theorem rowMajor_succ {α : Type} (M N : Nat) (f : Nat → Nat → α) :
    rowMajor (M + 1) N f = rowMajor M N f ++ (List.range N).map (f M) := by
  simp [rowMajor, List.range_succ]

@[simp] theorem rowMajor_length {α : Type} (M N : Nat) (f : Nat → Nat → α) : (rowMajor M N f).length = M * N := by
  induction M with
  | zero => simp [rowMajor]
  | succ M ih => rw [rowMajor_succ, List.length_append, ih, List.length_map, List.length_range, Nat.succ_mul]

/-- The place of an element of row m lies among the first M rows, for m < M. -/
theorem rowMajor_index_lt {M N m n : Nat} (hm : m < M) (hn : n < N) : m * N + n < M * N := by
  calc m * N + n < m * N + N := by omega
    _ = (m + 1) * N := by ring
    _ ≤ M * N := Nat.mul_le_mul_right N hm

theorem rowMajor_getD {α : Type} {M N m n : Nat} (f : Nat → Nat → α) (d : α) (hm : m < M) (hn : n < N) :
    (rowMajor M N f).getD (m * N + n) d = f m n := by
  induction M with
  | zero => omega
  | succ M ih =>
    rw [rowMajor_succ]
    by_cases h : m = M
    · rw [h, List.getD_append_right _ _ _ _ (by simp), rowMajor_length, Nat.add_sub_cancel_left]
      simp [hn]
    · have hm' : m < M := by omega
      rw [List.getD_append _ _ _ _ (by simpa using rowMajor_index_lt hm' hn), ih hm']

theorem rowMajor_congr {α : Type} {M N : Nat} {f g : Nat → Nat → α} (h : ∀ m n, m < M → n < N → f m n = g m n) :
    rowMajor M N f = rowMajor M N g := by
  exact List.flatMap_congr fun m hm => List.map_congr_left fun n hn => h m n (List.mem_range.mp hm) (List.mem_range.mp hn)

/-! ### The accumulator store -/

theorem State.core_updCore {s : State} (h : SMap.wf Core.reset s.cores = true) (c : Nat) (f : Core → Core) (k : Nat) :
    (s.updCore c f).core k = if k = c then f (s.core c) else s.core k := by
  split
  case isTrue hk => rw [hk]; exact SMap.getD_set_same c _ h
  case isFalse hk => exact SMap.getD_set_ne _ h hk

theorem State.updCore_wf {s : State} (h : SMap.wf Core.reset s.cores = true) (c : Nat) (f : Core → Core) :
    SMap.wf Core.reset (s.updCore c f).cores = true := SMap.set_wf _ _ h

/-- The accumulators are in their canonical form. -/
structure State.AccOk (s : State) : Prop where
  cores : SMap.wf Core.reset s.cores = true
  acc : ∀ k, SMap.wf 0 (s.core k).acc = true

/-- The elements written are the tile's first ones, and every other element of every core stays. -/
theorem acc_putTile {s : State} (h : s.AccOk) (cid : Nat) (t : Tile) (vals : List Nat) (k i : Nat) :
    acc (s.putTile cid t vals) k i = if k = cid ∧ t.eoff ≤ i ∧ i < t.eoff + vals.length
      then BitVec.ofNat 32 (vals.getD (i - t.eoff) 0) else acc s k i := by
  by_cases hk : k = cid
  · subst hk
    simp only [acc, State.putTile, State.core_updCore h.cores, if_true, true_and]
    exact SMap.getD_fill t.eoff vals.length (fun i => BitVec.ofNat 32 (vals.getD i 0)) (h.acc k) i
  · simp [acc, State.putTile, State.core_updCore h.cores, hk]

theorem State.putTile_wf {s : State} (h : SMap.wf Core.reset s.cores = true) (cid : Nat) (t : Tile) (vals : List Nat) :
    SMap.wf Core.reset (s.putTile cid t vals).cores = true := State.updCore_wf h _ _

theorem putTile_nil_acc {s : State} (h : s.AccOk) (cid : Nat) (t : Tile) (k i : Nat) : acc (s.putTile cid t []) k i = acc s k i := by
  rw [acc_putTile h, if_neg]
  simp only [List.length_nil]
  omega

/-- The monitors are no part of the accumulator store. -/
theorem acc_putMon {s : State} (h : SMap.wf Core.reset s.cores = true) (die cid : Nat) (c : Counts) (k i : Nat) :
    acc (s.putMon die cid c) k i = acc s k i := by
  have hc : (s.putMon die cid c).core k = (s.updCore cid fun k => { k with engine := { k.engine with mon := c.map (BitVec.ofNat 32) } }).core k := rfl
  rw [acc, hc, State.core_updCore h]
  split
  case isTrue hk => rw [hk]; rfl
  case isFalse => rfl

/-- What a tile's write says depends on the accumulators of the next state only. -/
theorem TileWritten.of_acc_eq {s t u : State} {cid : Nat} {tile : Tile} {f : Nat → Nat → Word} (h : TileWritten s t cid tile f)
    (he : ∀ k i, acc u k i = acc t k i) : TileWritten s u cid tile f := by
  simpa only [TileWritten, he] using h

/-- The tile of a list of its elements, row by row. -/
theorem tileWritten_putTile {s : State} (h : s.AccOk) (cid : Nat) (t : Tile) (f : Nat → Nat → Nat) :
    TileWritten s (s.putTile cid t (rowMajor t.m t.n f)) cid t fun m n => BitVec.ofNat 32 (f m n) := by
  refine ⟨fun m n hm hn => ?_, fun k i ho => ?_⟩
  · have hlt := rowMajor_index_lt hm hn
    rw [acc_putTile h, rowMajor_length, if_pos (by omega), show t.eoff + m * t.n + n - t.eoff = m * t.n + n by omega,
      rowMajor_getD f 0 hm hn]
  · rw [acc_putTile h, rowMajor_length, if_neg (by omega)]

/-! ### mxclr and mxld -/

theorem rowMajor_const (M N : Nat) (x : Nat) : rowMajor M N (fun _ _ => x) = List.replicate (M * N) x := by
  rw [List.eq_replicate_iff]
  simp [rowMajor]

theorem performCmd_mxclr {s : State} {g : Gang} {q : Cmd} {cd : DWord} {core : Nat} (hq : q.op = .mxclr cd core) :
    s.performCmd g q = .inr (s.putTile (coreOf g core) (tileOf cd) (rowMajor (tileOf cd).m (tileOf cd).n fun _ _ => 0)) := by
  rw [rowMajor_const]
  simp only [State.performCmd, hq]
  rfl

theorem performCmd_mxld {s : State} {g : Gang} {q : Cmd} {cd rg : DWord} (hq : q.op = .mxld cd rg)
    (hb : s.regionBad g (regionOf rg) (tileOf cd).m (4 * (tileOf cd).n) = false) :
    s.performCmd g q = .inr (s.putTile (coreOf g (regionOf rg).core) (tileOf cd) (rowMajor (tileOf cd).m (tileOf cd).n fun m n =>
      cellOf (s.winGet g ((regionOf rg).row m) (4 * (tileOf cd).n)) 4 n)) := by
  simp only [State.performCmd, hq, hb, State.regionRows, List.flatMap_map]
  rfl

/-- A cell of four bytes, as a word. -/
theorem ofNat_cellOf (x n : Nat) : BitVec.ofNat 32 (cellOf x 4 n) = BitVec.ofNat 32 (x / 2 ^ (32 * n)) := by
  apply BitVec.eq_of_toNat_eq
  simp [cellOf]

/-! ### mma -/

/-- The planes that a multiply reads of its B format: those of its descriptor, or all (R86). -/
def AccDesc.planesRead (d : AccDesc) : Nat := if d.planes = 0 then (mxFmt d.bfmt).w else d.planes

/-- The product of an element of A, or of none where the row holds none, with an element of B (R94). -/
def mulKept (a : Option Elem) (b : Elem) : Prod' :=
  match a with
  | some x => x.mul b
  | none => .none

theorem products_dense (K : Nat) (row : Nat → Option Elem) (col : Nat → Elem) :
    products ((List.range K).map row) ((List.range K).map col) [] = ((List.range K).map fun k => mulKept (row k) (col k), []) := by
  have h : products ((List.range K).map row) ((List.range K).map col) []
    = (List.zipWith mulKept ((List.range K).map row) ((List.range K).map col), []) := rfl
  rw [h, List.zipWith_map, List.zipWith_self]

/-- The products of position (m, n) of a dense multiply, by K index (R87, R94). -/
def State.denseProducts (s : State) (g : Gang) (t : Tile) (d : AccDesc) (a b : Region) (m n : Nat) : List Prod' :=
  (List.range t.k).map fun k =>
    mulKept (rowElem d.afmt t.k (s.winGet g (a.row m) (rowBytes d.afmt t.k false)) false [] k)
      (blockElem d.bfmt d.planesRead (s.winGet g (b.row (n / 16 * ceilDiv t.k 32 + k / 32)) (mxFmt d.bfmt).bytes) (n % 16) (k % 32))

/-- The new element of position (m, n) of a dense multiply. -/
def State.densePosition (s : State) (g : Gang) (cid : Nat) (t : Tile) (d : AccDesc) (a b : Region) (m n : Nat) : Nat × Counts :=
  positionOf d (acc s cid (t.eoff + m * t.n + n)).toNat (s.denseProducts g t d a b m n) []

theorem tileOf_n_mod_16 (c : DWord) : (tileOf c).n % 16 = 0 := by
  simp only [tileOf]
  split <;> simp

/-- The B block of element (k, n) is among the region's blocks. -/
theorem block_lt {c : DWord} {k n : Nat} (hk : k < (tileOf c).k) (hn : n < (tileOf c).n) :
    n / 16 * ceilDiv (tileOf c).k 32 + k / 32 < (tileOf c).n / 16 * ceilDiv (tileOf c).k 32 := by
  have hd : n / 16 < (tileOf c).n / 16 := by have := tileOf_n_mod_16 c; omega
  have hc : k / 32 < ceilDiv (tileOf c).k 32 := by simp only [ceilDiv]; omega
  exact rowMajor_index_lt hd hc

theorem regionRows_getElem? (s : State) (g : Gang) (r : Region) (l : Nat) {M j : Nat} (h : j < M) :
    (s.regionRows g r M l)[j]? = some (s.winGet g (r.row j) l) := by
  simp [State.regionRows, h]

/-- A dense multiply's new elements, row by row. -/
theorem mmaTile_dense (s : State) (g : Gang) (cid : Nat) (c a b : DWord) (desc : Word) (read : List Nat) :
    (s.mmaTile g cid false false c a b desc read).1 = rowMajor (tileOf c).m (tileOf c).n fun m n =>
      (s.densePosition g cid (tileOf c) (accDescOf desc) (regionOf a) (regionOf b) m n).1 := by
  simp only [State.mmaTile, List.map_flatMap, List.map_map]
  refine rowMajor_congr fun m n hm hn => ?_
  simp only [Bool.false_eq_true, if_false, Nat.zero_mul, List.drop_zero, List.take_zero, List.filter_nil, List.map_nil,
    List.getD_eq_getElem?_getD, List.getElem?_map, List.getElem?_range hn, Option.map_some, Option.getD_some, products_dense,
    Function.comp_apply]
  refine congrArg (fun ps => (positionOf _ _ ps []).1) (List.map_congr_left fun k hk => ?_)
  have hk := List.mem_range.mp hk
  simp only [Nat.ne_zero_of_lt hk, if_false, regionRows_getElem? s g _ _ (block_lt hk hn)]
  rfl

/-- A dense multiply of no products keeps its accumulators, where they are not cleared first. -/
theorem densePosition_no_products {s : State} {g : Gang} {cid : Nat} {t : Tile} {d : AccDesc} (a b : Region) (hk : t.k = 0) (hc : d.clr = false)
    (m n : Nat) : (s.densePosition g cid t d a b m n).1 = (acc s cid (t.eoff + m * t.n + n)).toNat := by
  simp [State.densePosition, State.denseProducts, positionOf, pieces, cutInto, hk, hc]

/-- A state whose accumulators are those of a dense multiply's tile. -/
def State.MmaDone (s : State) (g : Gang) (cid : Nat) (c a b : DWord) (desc : Word) (t : State) : Prop :=
  TileWritten s t cid (tileOf c) fun m n =>
    BitVec.ofNat 32 (s.densePosition g cid (tileOf c) (accDescOf desc) (regionOf a) (regionOf b) m n).1

/-- The elements that a dense multiply writes to its tile: none where it has no products and keeps its accumulators. -/
theorem mmaDone_putTile {s : State} (h : s.AccOk) (g : Gang) (cid : Nat) (c a b : DWord) (desc : Word) (read : List Nat) :
    s.MmaDone g cid c a b desc (s.putTile cid (tileOf c) (if (tileOf c).k == 0 && !(accDescOf desc).clr then ([], noCounts)
      else s.mmaTile g cid false false c a b desc read).1) := by
  split
  case isTrue hz =>
    rw [Bool.and_eq_true, beq_iff_eq, Bool.not_eq_true'] at hz
    refine ⟨fun m n _ _ => ?_, fun k i _ => putTile_nil_acc h ..⟩
    obtain ⟨hk, hc⟩ := hz
    dsimp only
    rw [putTile_nil_acc h, densePosition_no_products _ _ hk hc, BitVec.ofNat_toNat, BitVec.setWidth_eq]
  case isFalse =>
    rw [mmaTile_dense]
    exact tileWritten_putTile h ..

theorem performCmd_mma {s : State} {g : Gang} {q : Cmd} {cd a b : DWord} {desc : Word} {o : DWord} {n : Word} (h : s.AccOk)
    (hq : q.op = .mma false false cd a b desc o n) (he : (tileOf cd).empty = false) (hbad : q.bad = false)
    (ht : s.tileBad (coreOf g (regionOf b).core) (tileOf cd) = false)
    (hA : s.regionBad g (regionOf a) (tileOf cd).m (rowBytes (accDescOf desc).afmt (tileOf cd).k false) = false)
    (hB : s.regionBad g (regionOf b) ((tileOf cd).n / 16 * ceilDiv (tileOf cd).k 32)
      ((mxFmt (accDescOf desc).bfmt).plane + 64 * (accDescOf desc).planesRead) = false) :
    ∃ t, s.performCmd g q = .inr t ∧ s.MmaDone g (coreOf g (regionOf b).core) cd a b desc t := by
  have hw := mmaDone_putTile h g (coreOf g (regionOf b).core) cd a b desc q.read
  unfold coreOf at ht hw
  unfold AccDesc.planesRead at hB
  simp only [State.performCmd, hq, he, hbad, ht, hA, hB, Bool.and_false, Bool.or_false, Bool.false_or, Bool.false_eq_true, if_false]
  refine ⟨_, rfl, ?_⟩
  split
  case isTrue => exact TileWritten.of_acc_eq hw (fun _ _ => acc_putMon (State.putTile_wf h.cores ..) ..)
  case isFalse => exact hw

/-- R284 to R287: each command writes its tile as a row-major list of elements. -/
theorem commandsWriteTheirTiles : CommandsWriteTheirTiles := by
  intro s g q hcores hacc
  have h : s.AccOk := ⟨hcores, hacc⟩
  refine ⟨fun cd core hq => ⟨_, performCmd_mxclr hq, tileWritten_putTile h ..⟩, fun cd rg hq hb => ⟨_, performCmd_mxld hq hb, ?_⟩, ?_⟩
  · simpa only [ofNat_cellOf] using tileWritten_putTile h (coreOf g (regionOf rg).core) (tileOf cd) fun m n =>
      cellOf (s.winGet g ((regionOf rg).row m) (4 * (tileOf cd).n)) 4 n
  · intro cd a b desc o n hq he hbad t0 d cid planes elemA block elemB ht hA hB
    exact performCmd_mma h hq he hbad ht hA hB

/-- Settles O44: products, alignment and level 3 each by the value of their integers, the tiles by what a fill of the accumulator store
reads back. -/
theorem matrixArithmetic : Obligations.MatrixArithmetic :=
  ⟨productsOfElements, levelsAlignAndSum, accumulationRoundsOnce, commandsWriteTheirTiles⟩

end Sys2Proof.Machine
end

section
/-!
PROOFS. Watches (R122, R124): the home's decision on a confirm request, the verdict or the timeout that ends a pending entry, and
`wchk`, which reports the struck entries and consumes them.
-/
namespace Sys2Proof.Machine
open Sys2Proof.Spec

/-! ### Maps over the values of a sparse map -/

theorem SMap.find?_map_val {α β : Type} (m : SMap α) (f : α → β) (k : Nat) :
    SMap.find? (m.map fun c => (c.1, f c.2)) k = (SMap.find? m k).map f := by
  induction m with
  | nil => rfl
  | cons c r ih =>
    simp only [List.map_cons, SMap.find?, ih]
    split
    · rfl
    · split <;> rfl

theorem SMap.mem_of_find? {α : Type} {m : SMap α} {k : Nat} {x : α} (h : SMap.find? m k = some x) : (k, x) ∈ m := by
  induction m with
  | nil => simp [SMap.find?] at h
  | cons c r ih =>
    obtain ⟨a, y⟩ := c
    unfold SMap.find? at h
    split at h
    case isTrue ha => rw [ha, Option.some.inj h]; exact List.mem_cons_self
    case isFalse =>
      split at h
      · simp at h
      · exact List.mem_cons_of_mem _ (ih h)

/-! ### The home's decision -/

/-- The home confirms exactly where none of R122's reasons to strike holds. -/
theorem strikes_eq_false_iff (s : State) (q : WMsg) :
    s.strikes q = false ↔ (s.home q.pline).present = true ∧ (s.home q.pline).stamp ≤ q.stamp ∧ s.cycle < q.stamp + 32768
      ∧ (s.home q.pline).ver = q.fver ∧ s.heldElsewhere q.core q.pline = false := by
  simp [State.strikes, and_assoc]

/-- A confirm request with a serial number of its own is the only one decided. -/
theorem exec_confirm_of_unique {s : State} {q : WMsg} (hv : q.verdict = none) (hu : ∀ p ∈ s.watches, p.serial = q.serial → p = q) :
    exec (.confirm q.serial) s = .next { s with
      watches := s.watches.map fun p => if p = q then { p with verdict := some (s.strikes q) } else p } := by
  have hd : ∀ p ∈ s.watches, (if p.serial = q.serial && p.verdict.isNone then { p with verdict := some (s.strikes p) } else p)
      = if p = q then { p with verdict := some (s.strikes q) } else p := by
    intro p hp
    by_cases h : p = q
    · simp [h, hv]
    · have hne : p.serial ≠ q.serial := fun he => h (hu p hp he)
      simp [h, hne]
  rw [exec_confirm, execConfirm, List.map_congr_left hd]

/-! ### The end of a pending entry -/

/-- A thread whose pending entries of a serial number are struck, or freed (R122). -/
def Thread.setWatch (x : Thread) (serial : Nat) (strike : Bool) : Thread :=
  if x.loupe.any fun w => w.serial == serial && !w.struck then
    { x with loupe :=
      if strike then x.loupe.map fun w => if w.serial = serial then { w with struck := true } else w
      else x.loupe.filter fun w => !(w.serial == serial && !w.struck) }
  else x

theorem State.setWatch_threads (s : State) (n : Nat) (v : Bool) :
    (s.setWatch n v).threads = s.threads.map fun c => (c.1, c.2.setWatch n v) := by
  refine List.map_congr_left fun c _ => ?_
  unfold Thread.setWatch
  split <;> rfl

@[simp] theorem State.setWatch_mem (s : State) (n : Nat) (v : Bool) : (s.setWatch n v).mem = s.mem := rfl
@[simp] theorem State.setWatch_watches (s : State) (n : Nat) (v : Bool) : (s.setWatch n v).watches = s.watches := rfl

theorem State.thread?_setWatch (s : State) (n : Nat) (v : Bool) (t : Nat) :
    (s.setWatch n v).thread? t = (s.thread? t).map fun x => x.setWatch n v := by
  rw [State.thread?, State.setWatch_threads]
  exact SMap.find?_map_val s.threads (fun x => x.setWatch n v) t

/-- The thread with its entry `e` struck, or freed, and every other entry as it was. -/
def Thread.endWatch (x : Thread) (e : Loupe) (strike : Bool) : Thread :=
  { x with loupe :=
    if strike then (x.loupe.map fun w => if w = e then { w with struck := true } else w) else (x.loupe.filter fun w => w ≠ e) }

/-- A thread in which `e` alone, a pending entry, has the serial number `n`. -/
structure Thread.Pending (x : Thread) (n : Nat) (e : Loupe) : Prop where
  mem : e ∈ x.loupe
  serial : e.serial = n
  struck : e.struck = false
  unique : ∀ w ∈ x.loupe, w.serial = n → w = e

namespace Thread.Pending
variable {x : Thread} {n : Nat} {e : Loupe}

theorem serial_eq_iff (h : x.Pending n e) {w : Loupe} (hw : w ∈ x.loupe) : w.serial = n ↔ w = e :=
  ⟨h.unique w hw, fun he => he ▸ h.serial⟩

theorem setWatch_eq (h : x.Pending n e) (v : Bool) : x.setWatch n v = x.endWatch e v := by
  have hany : (x.loupe.any fun w => w.serial == n && !w.struck) = true :=
    List.any_eq_true.mpr ⟨e, h.mem, by simp [h.serial, h.struck]⟩
  have hmap : (x.loupe.map fun w => if w.serial = n then { w with struck := true } else w)
      = x.loupe.map fun w => if w = e then { w with struck := true } else w :=
    List.map_congr_left fun w hw => by simp only [h.serial_eq_iff hw]
  have hfilter : (x.loupe.filter fun w => !(w.serial == n && !w.struck)) = x.loupe.filter fun w => w ≠ e := by
    refine List.filter_congr fun w hw => ?_
    by_cases he : w = e
    · simp [he, h.serial, h.struck]
    · simp [he, mt (h.unique w hw) he]
  rw [Thread.setWatch, if_pos hany, hmap, hfilter, Thread.endWatch]

theorem thread?_setWatch (h : x.Pending n e) {s : State} {t : Nat} (hx : s.thread? t = some x) (v : Bool) :
    (s.setWatch n v).thread? t = some (x.endWatch e v) := by
  rw [State.thread?_setWatch, hx, Option.map_some, h.setWatch_eq]

theorem watchLate (h : x.Pending n e) {s : State} {t : Nat} (hx : s.thread? t = some x) (hl : e.since + 8000 ≤ s.cycle) :
    s.watchLate n = true := by
  refine List.any_eq_true.mpr ⟨(t, x), SMap.mem_of_find? hx, List.any_eq_true.mpr ⟨e, h.mem, ?_⟩⟩
  simp [h.serial, h.struck, hl]

end Thread.Pending

theorem exec_watchVerdict_of_sent {s : State} {n : Nat} {v : Bool} (h : ∃ q ∈ s.watches, q.serial = n ∧ q.verdict = some v) :
    exec (.watchVerdict n v) s = .next ({ s with watches := s.watches.filter fun q => q.serial ≠ n }.setWatch n v) := by
  obtain ⟨q, hq, hn, hv⟩ := h
  rw [exec_watchVerdict, execWatchVerdict, if_pos (List.any_eq_true.mpr ⟨q, hq, by simp [hn, hv]⟩)]

theorem exec_watchTimeout_of_late {s : State} {n : Nat} (h : s.watchLate n = true) :
    exec (.watchTimeout n) s = .next (s.setWatch n true) := by
  rw [exec_watchTimeout, execWatchTimeout, if_pos h]

/-- R122: the decision at the home, then the verdict at the L1 or its timeout. -/
theorem watchesAreDecided : WatchesAreDecided := by
  refine ⟨fun s q _ hv hu => ⟨s.strikes q, strikes_eq_false_iff s q, exec_confirm_of_unique hv hu⟩, ?_⟩
  intro s t n x e hx he hn hs hu
  have h : x.Pending n e := ⟨he, hn, hs, hu⟩
  refine ⟨fun v hsent => ⟨_, exec_watchVerdict_of_sent hsent, State.setWatch_mem .., ?_, h.thread?_setWatch hx v⟩,
    fun hl => ⟨_, exec_watchTimeout_of_late (h.watchLate hx hl), State.setWatch_mem .., State.setWatch_watches .., h.thread?_setWatch hx true⟩⟩
  intro q hq
  rw [State.setWatch_watches] at hq
  exact of_decide_eq_true (List.mem_filter.mp hq).2

/-! ### wchk -/

@[simp] theorem Thread.land_loupe (x : Thread) (d : PDst) (m : Mask) (vs : List Word) : (x.land d m vs).loupe = x.loupe := by
  cases d with
  | v n => rfl
  | k n => unfold Thread.land; dsimp only; split <;> rfl
  | p n => unfold Thread.land; dsimp only; split <;> rfl

@[simp] theorem Thread.now_loupe (x : Thread) (d : PDst) (m : Mask) (vs : List Word) : (x.now d m vs).loupe = x.loupe := by
  rw [Thread.now, Thread.land_loupe]; rfl

/-- A result at once leaves the watches as they are. -/
@[simp] theorem Ctx.result_loupe (c : Ctx) (s : State) (d : PDst) (m : Mask) (f : Nat → Word) (x : Thread) :
    (c.result s 0 d m f x).loupe = x.loupe := Thread.now_loupe ..

/-- No entry of the lanes is pending. -/
theorem any_pending_eq_false_iff (ws : List Loupe) (m : Mask) :
    (ws.any fun w => !w.struck && w.mask &&& m != 0) = false ↔ ∀ w ∈ ws, w.struck = true ∨ w.mask &&& m = 0 := by
  simp [List.any_eq_false, or_iff_not_imp_left]

/-- R124: `wchk` waits at issue for a pending entry of its lanes; else it writes the struck lanes and consumes them. -/
theorem checksReportStrikes : ChecksReportStrikes := by
  intro s c pg pd h
  refine ⟨fun ⟨w, hw, hs, hm⟩ => ends_of h (exec_wchk s) ?_, fun hnone => completes_of_fall h (exec_wchk s) ?_ (by simp)⟩
  · exact if_pos (List.any_eq_true.mpr ⟨w, hw, by simpa [hs] using hm⟩)
  · have hp := (any_pending_eq_false_iff c.x.loupe c.lanes).mpr hnone
    simp only [hp, Bool.false_eq_true, if_false, State.putP, State.write_eq _ _ _ _ h.thread,
      State.updThread_some _ (State.thread?_setThread_same ..), State.setThread_setThread, Ctx.result_loupe, consumeStruck]

/-- Settles O29: a serial number names one entry and one request, so a decision, a verdict and a timeout each change that one alone;
`wchk` falls through once no entry of its lanes is pending. -/
theorem watchesAreDecidedAndChecked : Obligations.WatchesAreDecidedAndChecked :=
  ⟨watchesAreDecided, checksReportStrikes⟩

end Sys2Proof.Machine
end

section
/-!
PROOFS. Remote packets, flows and reductions (R150, R152, R163, R177 to R179): the requests of a load and the runs of a store, the numbers
that a flow gives its packets, block codes, aligned integers and ROOT's elements.
-/
namespace Sys2Proof.Machine
open Sys2Proof.Spec

/-! ### Rising lists -/

@[simp] theorem mem_insertAsc {x y : Nat} {l : List Nat} : x ∈ insertAsc y l ↔ x = y ∨ x ∈ l := by
  induction l with
  | nil => simp [insertAsc]
  | cons z r ih =>
    unfold insertAsc
    split
    case isTrue h => simp [h]
    case isFalse =>
      split
      · simp
      · simp only [List.mem_cons, ih, or_left_comm]

@[simp] theorem mem_sortAsc {x : Nat} {l : List Nat} : x ∈ sortAsc l ↔ x ∈ l := by
  induction l with
  | nil => rfl
  | cons y r ih => rw [show sortAsc (y :: r) = insertAsc y (sortAsc r) from rfl, mem_insertAsc, ih, List.mem_cons]

theorem insertAsc_rising {y : Nat} {l : List Nat} (h : l.Pairwise (· < ·)) : (insertAsc y l).Pairwise (· < ·) := by
  induction l with
  | nil => exact List.pairwise_singleton ..
  | cons z r ih =>
    obtain ⟨hz, hr⟩ := List.pairwise_cons.mp h
    unfold insertAsc
    split
    · exact h
    case isFalse hne =>
      split
      case isTrue hlt =>
        exact List.pairwise_cons.mpr ⟨List.forall_mem_cons.mpr ⟨hlt, fun x hx => hlt.trans (hz x hx)⟩, h⟩
      case isFalse hge =>
        refine List.pairwise_cons.mpr ⟨fun x hx => ?_, ih hr⟩
        rcases mem_insertAsc.mp hx with rfl | hx
        · omega
        · exact hz x hx

theorem sortAsc_rising (l : List Nat) : (sortAsc l).Pairwise (· < ·) := by
  induction l with
  | nil => exact .nil
  | cons y r ih => exact insertAsc_rising ih

/-- A rising list starts with its least element. -/
theorem isLeast_headD {l : List Nat} (h : l.Pairwise (· < ·)) (hne : l ≠ []) : IsLeast {x | x ∈ l} (l.headD 0) := by
  cases l with
  | nil => exact absurd rfl hne
  | cons y r =>
    refine ⟨List.mem_cons_self, fun x hx => ?_⟩
    rcases List.mem_cons.mp hx with rfl | hx
    · exact le_rfl
    · exact ((List.pairwise_cons.mp h).1 x hx).le

/-- A rising list ends with its greatest element. -/
theorem isGreatest_getLastD {l : List Nat} (h : l.Pairwise (· < ·)) (hne : l ≠ []) : IsGreatest {x | x ∈ l} (l.getLastD 0) := by
  obtain ⟨r, y, rfl⟩ := List.eq_nil_or_concat' l |>.resolve_left hne
  rw [List.getLastD_concat]
  refine ⟨by simp, fun x hx => ?_⟩
  rcases List.mem_append.mp hx with hx | hx
  · exact ((List.pairwise_append.mp h).2.2 x hx y (List.mem_singleton_self y)).le
  · exact (List.mem_singleton.mp hx).le

theorem sortAsc_ne_nil {l : List Nat} (h : l ≠ []) : sortAsc l ≠ [] := by
  obtain ⟨x, hx⟩ := List.exists_mem_of_ne_nil l h
  exact List.ne_nil_of_mem (mem_sortAsc.mpr hx)

theorem isLeast_sortAsc {l : List Nat} (h : l ≠ []) : IsLeast {x | x ∈ l} ((sortAsc l).headD 0) := by
  simpa only [mem_sortAsc] using isLeast_headD (sortAsc_rising l) (sortAsc_ne_nil h)

theorem isGreatest_sortAsc {l : List Nat} (h : l ≠ []) : IsGreatest {x | x ∈ l} ((sortAsc l).getLastD 0) := by
  simpa only [mem_sortAsc] using isGreatest_getLastD (sortAsc_rising l) (sortAsc_ne_nil h)

/-! ### The requests of a remote load (R163) -/

theorem mem_lanesOf {m : Mask} {l : Nat} : l ∈ lanesOf m ↔ hasLane m l = true := by
  simp only [lanesOf, lanes32, hasLane, List.mem_filter, List.mem_range, and_iff_right_iff_imp]
  exact BitVec.lt_of_getLsbD

/-- An aligned access lies in one line. -/
theorem bytes_fit_line (w : Width) {a : Nat} (h : a % w.bytes = 0) : a % 128 + w.bytes ≤ 128 := by
  cases w <;> simp only [Width.bytes] at h ⊢ <;> omega

/-- The lanes of a mask whose address lies on a line. -/
def lanesOn (va : Nat → Nat) (m : Mask) (line : Nat) : List Nat := (lanesOf m).filter fun l => va l / 128 == line

theorem mem_lanesOn {va : Nat → Nat} {m : Mask} {line l : Nat} : l ∈ lanesOn va m line ↔ hasLane m l = true ∧ va l / 128 = line := by
  rw [lanesOn, List.mem_filter, mem_lanesOf, beq_iff_eq]

/-- What the request of a line says: the lanes on it, from the lowest byte that one reads to the highest. -/
structure Out.ReadsLine (o : Out) (va : Nat → Nat) (w : Nat) (m : Mask) (line : Nat) : Prop where
  op : o.op = 2
  cls : o.cls = .express
  parts : o.parts = (lanesOn va m line).map fun l => (l, va l - o.va)
  low : IsLeast {x | x ∈ (lanesOn va m line).map va} o.va
  high : ∃ x, IsGreatest {x | x ∈ (lanesOn va m line).map va} x ∧ x + w = o.va + o.bytes

namespace Out.ReadsLine
variable {o : Out} {va : Nat → Nat} {w : Nat} {m : Mask} {line : Nat}

theorem mem_parts (h : o.ReadsLine va w m line) {p : Nat × Nat} :
    p ∈ o.parts ↔ hasLane m p.1 = true ∧ va p.1 / 128 = line ∧ p.2 = va p.1 - o.va := by
  simp only [h.parts, List.mem_map, mem_lanesOn, Prod.ext_iff]
  constructor
  · rintro ⟨l, ⟨hl, hline⟩, rfl, he⟩
    exact ⟨hl, hline, he.symm⟩
  · rintro ⟨hl, hline, he⟩
    exact ⟨p.1, ⟨hl, hline⟩, rfl, he.symm⟩

theorem part (h : o.ReadsLine va w m line) {l : Nat} (hl : l ∈ lanesOn va m line) : (l, va l - o.va) ∈ o.parts :=
  h.mem_parts.mpr ⟨(mem_lanesOn.mp hl).1, (mem_lanesOn.mp hl).2, rfl⟩

theorem va_line (h : o.ReadsLine va w m line) : o.va / 128 = line := by
  obtain ⟨l, hl, he⟩ := List.mem_map.mp h.low.1
  exact he ▸ (mem_lanesOn.mp hl).2

/-- A part lies within the request. -/
theorem part_within (h : o.ReadsLine va w m line) {p : Nat × Nat} (hp : p ∈ o.parts) :
    hasLane m p.1 = true ∧ va p.1 = o.va + p.2 ∧ o.va / 128 = va p.1 / 128 ∧ va p.1 + w ≤ o.va + o.bytes := by
  obtain ⟨hl, hline, he⟩ := h.mem_parts.mp hp
  have hmem : va p.1 ∈ (lanesOn va m line).map va := List.mem_map_of_mem (mem_lanesOn.mpr ⟨hl, hline⟩)
  have hlow := h.low.2 hmem
  obtain ⟨x, hx, hend⟩ := h.high
  have hhigh := hx.2 hmem
  exact ⟨hl, by omega, h.va_line.trans hline.symm, by omega⟩

theorem exists_first_part (h : o.ReadsLine va w m line) : ∃ p ∈ o.parts, p.2 = 0 := by
  obtain ⟨l, hl, he⟩ := List.mem_map.mp h.low.1
  exact ⟨_, h.part hl, by simp [he]⟩

theorem exists_last_part (h : o.ReadsLine va w m line) : ∃ p ∈ o.parts, va p.1 + w = o.va + o.bytes := by
  obtain ⟨x, hx, hend⟩ := h.high
  obtain ⟨l, hl, he⟩ := List.mem_map.mp hx.1
  exact ⟨_, h.part hl, by rw [he, hend]⟩

end Out.ReadsLine

/-- The length of a request fits its field. -/
theorem opfOf_length {n : Nat} (h : n < 65536) : ((opfOf n).extractLsb' 0 16).toNat = n := by
  simp only [opfOf, BitVec.extractLsb'_toNat, BitVec.toNat_ofNat]
  omega

section
variable (c : Ctx) (w : Width) (win : Win) (h : Word) (va : Nat → Nat) (acc : Nat)

/-- The lines that the lanes touch, ascending. -/
def Ctx.readLines : List Nat := sortAsc ((lanesOf c.lanes).map fun l => va l / 128)

/-- The request of one line. -/
def Ctx.readOut (line : Nat) : Out :=
  let ls := lanesOn va c.lanes line
  let lo := (sortAsc (ls.map va)).headD 0
  { cls := .express, op := 2, space := win.space, va := lo, chunk := false, payload := [], acc := acc, gen := acceptedBy c.x.space h,
    opf := opfOf ((sortAsc (ls.map va)).getLastD 0 + w.bytes - lo), owner := c.owner (maskOf fun l => ls.contains l),
    parts := ls.map fun l => (l, va l - lo) }

theorem Ctx.readOuts_eq : c.readOuts w.bytes win h va acc = (c.readLines va).map (c.readOut w win h va acc) := rfl

theorem Ctx.mem_readLines {line : Nat} : line ∈ c.readLines va ↔ ∃ l, l ∈ lanesOn va c.lanes line := by
  simp only [Ctx.readLines, mem_sortAsc, List.mem_map, mem_lanesOf, mem_lanesOn]

variable {va}

theorem Ctx.readOut_readsLine (hal : ∀ l ∈ lanesOf c.lanes, va l % w.bytes = 0) {line : Nat} (hl : line ∈ c.readLines va) :
    (c.readOut w win h va acc line).ReadsLine va w.bytes c.lanes line := by
  obtain ⟨l, hl⟩ := (c.mem_readLines va).mp hl
  have hne : (lanesOn va c.lanes line).map va ≠ [] := List.ne_nil_of_mem (List.mem_map_of_mem hl)
  have hlow := isLeast_sortAsc hne
  have hhigh := isGreatest_sortAsc hne
  refine ⟨rfl, rfl, rfl, hlow, _, hhigh, ?_⟩
  obtain ⟨a, ha, hlo⟩ := List.mem_map.mp hlow.1
  obtain ⟨b, hb, hhi⟩ := List.mem_map.mp hhigh.1
  obtain ⟨hbm, hbl⟩ := mem_lanesOn.mp hb
  have hal' := (mem_lanesOn.mp ha).2
  have hle := hlow.2 hhigh.1
  have hfit := bytes_fit_line w (hal b (mem_lanesOf.mpr hbm))
  simp only [Out.bytes, Ctx.readOut, or_true, if_true]
  rw [hlo] at hal'
  rw [hhi] at hbl hfit
  rw [opfOf_length (by omega)]
  exact (Nat.add_sub_of_le (hle.trans (Nat.le_add_right ..))).symm

theorem Ctx.readOuts_readsLines (hal : ∀ l ∈ lanesOf c.lanes, va l % w.bytes = 0) :
    ReadsLines va w.bytes c.lanes (c.readOuts w.bytes win h va acc) := by
  have hr : ∀ line ∈ c.readLines va, (c.readOut w win h va acc line).ReadsLine va w.bytes c.lanes line :=
    fun line hl => c.readOut_readsLine w win h acc hal hl
  rw [c.readOuts_eq]
  refine ⟨fun o ho => ?_, fun l hl => ?_, ?_⟩
  · obtain ⟨line, hl, rfl⟩ := List.mem_map.mp ho
    have hread := hr line hl
    obtain ⟨p, hp, hzero⟩ := hread.exists_first_part
    exact ⟨hread.op, hread.cls, List.ne_nil_of_mem hp, fun _ => hread.part_within, ⟨p, hp, hzero⟩, hread.exists_last_part⟩
  · have hon : l ∈ lanesOn va c.lanes (va l / 128) := mem_lanesOn.mpr ⟨mem_lanesOf.mp hl, rfl⟩
    have hline := (c.mem_readLines va).mpr ⟨l, hon⟩
    exact ⟨_, List.mem_map_of_mem hline, (hr _ hline).part hon⟩
  · have hlines : ((c.readLines va).map (c.readOut w win h va acc)).map (fun o => o.va / 128) = c.readLines va := by
      rw [List.map_map]
      exact (List.map_congr_left fun line hl => (hr line hl).va_line).trans (List.map_id _)
    rw [hlines]
    exact sortAsc_rising _

end

/-! ### The runs of a remote store (R163) -/

/-- A run holds a lane's bytes at the lane's address. -/
def Run.Holds (r : Run) (l a : Nat) (bs : List Byte) : Prop :=
  hasLane r.lanes l = true ∧ r.va ≤ a ∧ a + bs.length ≤ r.va + r.bytes.length ∧ (r.bytes.drop (a - r.va)).take bs.length = bs

/-- The run of one lane. -/
def Run.ofLane (l a : Nat) (bs : List Byte) : Run := { va := a, bytes := bs, lanes := 1 <<< l }

/-- A run with one more lane's bytes after its own. -/
def Run.join (r : Run) (l : Nat) (bs : List Byte) : Run := { r with bytes := r.bytes ++ bs, lanes := r.lanes ||| (1 <<< l) }

theorem hasLane_or (m k : Mask) (l : Nat) : hasLane (m ||| k) l = (hasLane m l || hasLane k l) := BitVec.getLsbD_or

theorem hasLane_one_shift {l : Nat} (h : l < 32) : hasLane (1 <<< l) l = true := by
  have hb : (1 <<< l : Mask) = BitVec.twoPow 32 l := (BitVec.twoPow_eq 32 l).symm
  simp [hasLane, hb, h]

theorem Run.ofLane_holds {l : Nat} (h : l < 32) (a : Nat) (bs : List Byte) : (Run.ofLane l a bs).Holds l a bs :=
  ⟨hasLane_one_shift h, le_rfl, le_rfl, by simp [Run.ofLane]⟩

theorem Run.join_holds_new {r : Run} {l a : Nat} {bs : List Byte} (h : l < 32) (ha : r.va + r.bytes.length = a) :
    (r.join l bs).Holds l a bs := by
  subst ha
  exact ⟨(hasLane_or ..).trans (by rw [hasLane_one_shift h, Bool.or_true]), Nat.le_add_right .., by simp [Run.join, Nat.add_assoc], by simp [Run.join]⟩

theorem Run.Holds.join {r : Run} {k a : Nat} {bs : List Byte} (h : r.Holds k a bs) (l : Nat) (cs : List Byte) :
    (r.join l cs).Holds k a bs := by
  obtain ⟨hlane, hlow, hhigh, hbytes⟩ := h
  refine ⟨(hasLane_or ..).trans (by rw [hlane, Bool.true_or]), hlow, by simp only [Run.join, List.length_append]; omega, ?_⟩
  simp only [Run.join]
  rw [List.drop_append_of_le_length (by omega), List.take_append_of_le_length (by rw [List.length_drop]; omega), hbytes]

section
variable (cap : Nat) (va : Nat → Nat) (bytes : Nat → List Byte)

/-- The runs, latest first, with one more lane. -/
def joinLane (rs : List Run) (l : Nat) : List Run :=
  match rs with
  | r :: rest =>
    if r.va + r.bytes.length = va l ∧ r.bytes.length + (bytes l).length ≤ cap then r.join l (bytes l) :: rest
    else Run.ofLane l (va l) (bytes l) :: rs
  | [] => [Run.ofLane l (va l) (bytes l)]

theorem joinRuns_cons (l : Nat) (ls : List Nat) (rs : List Run) :
    joinRuns cap va bytes (l :: ls) rs = joinRuns cap va bytes ls (joinLane cap va bytes rs l) := by
  cases rs with
  | nil => rfl
  | cons r rest => simp only [joinRuns, joinLane]; split <;> rfl

/-- The runs, latest first, that the lanes done so far have left. -/
structure RunsOf (done : List Nat) (rs : List Run) : Prop where
  concat : (rs.reverse.flatMap fun r => r.bytes) = done.flatMap bytes
  size : ∀ r ∈ rs, 1 ≤ r.bytes.length ∧ r.bytes.length ≤ cap
  holds : ∀ l ∈ done, ∃ r ∈ rs, r.Holds l (va l) (bytes l)

variable {cap va bytes} {done : List Nat}

theorem RunsOf.nil : RunsOf cap va bytes [] [] := ⟨rfl, by simp, by simp⟩

theorem RunsOf.start {rs : List Run} (h : RunsOf cap va bytes done rs) {l : Nat} (hl : l < 32)
    (hsize : 1 ≤ (bytes l).length ∧ (bytes l).length ≤ cap) : RunsOf cap va bytes (done ++ [l]) (Run.ofLane l (va l) (bytes l) :: rs) where
  concat := by simp [h.concat, Run.ofLane]
  size := List.forall_mem_cons.mpr ⟨hsize, h.size⟩
  holds := by
    intro k hk
    rcases List.mem_append.mp hk with hk | hk
    · obtain ⟨r, hr, hh⟩ := h.holds k hk
      exact ⟨r, List.mem_cons_of_mem _ hr, hh⟩
    · obtain rfl := List.mem_singleton.mp hk
      exact ⟨_, List.mem_cons_self, Run.ofLane_holds hl _ _⟩

theorem RunsOf.extend {r : Run} {rest : List Run} (h : RunsOf cap va bytes done (r :: rest)) {l : Nat} (hl : l < 32)
    (hva : r.va + r.bytes.length = va l) (hcap : r.bytes.length + (bytes l).length ≤ cap) :
    RunsOf cap va bytes (done ++ [l]) (r.join l (bytes l) :: rest) where
  concat := by
    have := h.concat
    simp only [List.reverse_cons, List.flatMap_append, List.flatMap_singleton] at this ⊢
    rw [← this, List.append_assoc]
    rfl
  size := by
    obtain ⟨hr, hrest⟩ := List.forall_mem_cons.mp h.size
    refine List.forall_mem_cons.mpr ⟨?_, hrest⟩
    simp only [Run.join, List.length_append]
    omega
  holds := by
    intro k hk
    rcases List.mem_append.mp hk with hk | hk
    · obtain ⟨q, hq, hh⟩ := h.holds k hk
      rcases List.mem_cons.mp hq with rfl | hq
      · exact ⟨_, List.mem_cons_self, hh.join l (bytes l)⟩
      · exact ⟨q, List.mem_cons_of_mem _ hq, hh⟩
    · obtain rfl := List.mem_singleton.mp hk
      exact ⟨_, List.mem_cons_self, Run.join_holds_new hl hva⟩

theorem RunsOf.joinLane {rs : List Run} (h : RunsOf cap va bytes done rs) {l : Nat} (hl : l < 32)
    (hsize : 1 ≤ (bytes l).length ∧ (bytes l).length ≤ cap) : RunsOf cap va bytes (done ++ [l]) (joinLane cap va bytes rs l) := by
  unfold Machine.joinLane
  split
  · split
    case isTrue hjoin => exact h.extend hl hjoin.1 hjoin.2
    case isFalse => exact h.start hl hsize
  · exact h.start hl hsize

theorem RunsOf.joinRuns (hsize : ∀ l, 1 ≤ (bytes l).length ∧ (bytes l).length ≤ cap) {ls : List Nat} (hls : ∀ l ∈ ls, l < 32)
    {rs : List Run} (h : RunsOf cap va bytes done rs) : RunsOf cap va bytes (done ++ ls) (joinRuns cap va bytes ls rs).reverse := by
  induction ls generalizing done rs with
  | nil => simpa [Machine.joinRuns] using h
  | cons l ls ih =>
    obtain ⟨hl, hls⟩ := List.forall_mem_cons.mp hls
    rw [joinRuns_cons, List.append_cons]
    exact ih hls (h.joinLane hl (hsize l))

end

/-- R163: the requests of a load, one for each line, and the runs of a store, one lane after another. -/
theorem remotePacketsCoverLanes : RemotePacketsCoverLanes := by
  refine ⟨fun c w win h va acc hal => c.readOuts_readsLines w win h acc hal, fun cap va bytes m hsize => ?_⟩
  obtain ⟨hconcat, hsizes, hholds⟩ := RunsOf.nil.joinRuns (va := va) hsize fun l hl => BitVec.lt_of_getLsbD (mem_lanesOf.mp hl)
  simp only [List.nil_append, List.reverse_reverse, List.mem_reverse] at hconcat hsizes hholds
  exact ⟨hconcat, hsizes, hholds⟩

/-! ### Flows (R150, R152) -/

namespace State
variable {s : State} {src dst : Nat} {c : TClass}

/-- An end that is found is an end of the flow. -/
theorem srcEnd?_key {e : SrcEnd} (h : s.srcEnd? src dst c = some e) : e.src = src ∧ e.dst = dst ∧ e.cls = c := by
  simpa [and_assoc] using List.find?_some h

/-- The end that replaces an open end of its flow is found. -/
theorem srcEnd?_setSrc {x e : SrcEnd} (h : s.srcEnd? x.src x.dst x.cls = some e) : (s.setSrc x).srcEnd? x.src x.dst x.cls = some x := by
  have hkey : ∀ e : SrcEnd, (let y := if e.src = x.src ∧ e.dst = x.dst ∧ e.cls = x.cls then x else e
      y.src == x.src && y.dst == x.dst && y.cls == x.cls) = (e.src == x.src && e.dst == x.dst && e.cls == x.cls) := by
    intro e
    by_cases hk : e.src = x.src ∧ e.dst = x.dst ∧ e.cls = x.cls
    · simp [hk]
    · simp only [if_neg hk]
  obtain ⟨hsrc, hdst, hcls⟩ := srcEnd?_key h
  simp only [srcEnd?] at h
  simp only [srcEnd?, setSrc, updFab, List.find?_map, Function.comp_def, hkey, h, Option.map_some, hsrc, hdst, hcls, true_and, if_true]

/-- The source end with which a flow of the traffic inside the package opens (R152). -/
def freshSrc (s : State) (src dst : Nat) (c : TClass) : SrcEnd :=
  { src := src, dst := dst, cls := c, inc := SMap.getD s.fab.srcInc (incKey src dst c) 0, next := 0, retry := [], path := 0,
    entry := s.route src dst, idle := s.cycle, closing := none }

theorem openSrc_of_some {e : SrcEnd} (hin : s.inside dst = true) (h : s.srcEnd? src dst c = some e) :
    s.openSrc src dst c = (s.setSrc { e with entry := s.route src dst }, { e with entry := s.route src dst }) := by
  simp only [openSrc, h, hin, Bool.true_or, if_true]

theorem openSrc_of_none (hin : s.inside dst = true) (h : s.srcEnd? src dst c = none) :
    s.openSrc src dst c = (s.updFab fun b => { b with src := b.src ++ [s.freshSrc src dst c] }, s.freshSrc src dst c) := by
  simp only [openSrc, h, hin, if_true, freshSrc]

/-- `t` has the end `e` of a flow open, and sends as `s` does. -/
structure Opens (s t : State) (src dst : Nat) (c : TClass) (e : SrcEnd) : Prop where
  found : t.srcEnd? src dst c = some e
  inside : t.inside dst = s.inside dst
  loop : t.fab.loop = s.fab.loop
  cycle : t.cycle = s.cycle
  timeout : t.timeout = s.timeout

theorem opens_of_some {e : SrcEnd} (h : s.srcEnd? src dst c = some e) (entry : DWord) :
    s.Opens (s.setSrc { e with entry := entry }) src dst c { e with entry := entry } := by
  refine ⟨?_, rfl, rfl, rfl, rfl⟩
  obtain ⟨rfl, rfl, rfl⟩ := srcEnd?_key h
  exact srcEnd?_setSrc (x := { e with entry := entry }) h

theorem opens_of_none (h : s.srcEnd? src dst c = none) :
    s.Opens (s.updFab fun b => { b with src := b.src ++ [s.freshSrc src dst c] }) src dst c (s.freshSrc src dst c) := by
  refine ⟨?_, rfl, rfl, rfl, rfl⟩
  simp only [srcEnd?] at h
  simp [srcEnd?, updFab, List.find?_append, h, freshSrc]

theorem emit_inside {p : Packet} (entry : DWord) (h : s.inside p.hdr.dst = true) (hvc : p.hdr.vc = 0) :
    s.emit entry p = s.updFab fun b => { b with loop := b.loop ++ [p] } := by
  have hp : ({ p with hdr := { p.hdr with vc := 0 } } : Packet) = p := by rw [← hvc]
  rw [emit, if_pos h, hp]

/-- The packet that a flow inside the package takes: its number is the end's next, it is kept in the retry buffer, and it starts on its
way. -/
theorem sendOut_of_opens {t : State} {e : SrcEnd} {o : Out} (hopen : s.openSrc src dst o.cls = (t, e)) (ht : s.Opens t src dst o.cls e)
    (hin : s.inside dst = true) :
    ∃ r, (s.sendOut src dst o).srcEnd? src dst o.cls = some { e with next := (e.next + 1) % 65536, retry := e.retry ++ [r] }
      ∧ (s.sendOut src dst o).fab.loop = s.fab.loop ++ [r.pkt] ∧ r.seq = e.next ∧ r.pkt.hdr.seq = e.next ∧ r.pkt.hdr.inc = e.inc
      ∧ r.pkt.hdr.new = (s.srcEnd? src dst o.cls).isNone ∧ r.owner = o.owner ∧ r.due = s.cycle + s.timeout := by
  simp only [sendOut, hopen]
  rw [emit_inside _ (ht.inside.trans hin) rfl]
  obtain ⟨rfl, rfl, hcls⟩ := srcEnd?_key ht.found
  rw [← hcls] at ht ⊢
  exact ⟨_, srcEnd?_setSrc (x := { e with next := (e.next + 1) % 65536, retry := e.retry ++ [_] }) ht.found,
    congrArg (· ++ _) ht.loop, rfl, rfl, rfl, rfl, rfl, by rw [ht.cycle, ht.timeout]⟩

end State

/-- R150, R152: a flow that is open takes its packet at its next number; one that is not opens, and takes it at 0. -/
theorem flowsNumberPackets : FlowsNumberPackets := by
  refine fun s src dst o hin => ⟨fun e he => ?_, fun hnone => ?_⟩
  · obtain ⟨r, hend, hloop, hseq, hhdr, hinc, hnew, howner, hdue⟩ :=
      State.sendOut_of_opens (State.openSrc_of_some hin he) (State.opens_of_some he _) hin
    rw [he] at hnew
    exact ⟨_, r, hend, rfl, rfl, rfl, hseq, hhdr, hinc, hnew, howner, hdue, hloop⟩
  · obtain ⟨r, hend, hloop, hseq, hhdr, -, hnew, -, -⟩ :=
      State.sendOut_of_opens (State.openSrc_of_none hin hnone) (State.opens_of_none hnone) hin
    rw [hnone] at hnew
    exact ⟨_, r, hend, rfl, rfl, hseq, hhdr, hnew, rfl, hloop⟩

/-! ### Block codes (R177) -/

/-- Flags and an exponent code, apart again. -/
theorem code_fields {k eb : Nat} (h : eb < 2 ^ 13) :
    (2 ^ 13 * k + eb) % 2 ^ 13 = eb ∧ ∀ i, 13 ≤ i → (2 ^ 13 * k + eb).testBit i = k.testBit (i - 13) :=
  ⟨by omega, fun i hi => by rw [Nat.testBit_two_pow_mul_add k h, if_neg (not_lt.mpr hi)]⟩

/-- The exponent code of a value: 0 for a zero and for what is not finite. -/
def FVal.expCode : FVal → Nat
  | .fin _ m e => if m = 0 then 0 else ((Nat.log2 m : Int) + e + 150).toNat
  | _ => 0

/-- EB of a block: the largest exponent code. -/
def blockExp (vs : List FVal) : Nat := vs.foldl (fun b v => max b v.expCode) 0

/-- The flags of a block, NAN at bit 2. -/
def blockFlags (vs : List FVal) : Nat :=
  4 * (vs.contains .nan).toNat + 2 * (vs.contains (.inf false)).toNat + (vs.contains (.inf true)).toNat

theorem blockCode_eq (vs : List FVal) : blockCode vs = 2 ^ 13 * blockFlags vs + blockExp vs := by
  have hany : ∀ x : FVal, (vs.any fun v => v == x) = vs.contains x := fun x => by
    simp only [List.contains_eq_any_beq, Bool.beq_comm]
  have hbit : ∀ (p : Bool) (n : Nat), (if p = true then n else 0) = n * p.toNat := fun p n => by cases p <;> simp
  simp only [blockCode, hany, hbit]
  refine congrArg₂ (· + ·) (by rw [blockFlags]; ring) (List.foldl_ext _ _ 0 fun b v _ => ?_)
  cases v with
  | fin neg m e => by_cases hm : m = 0 <;> simp [FVal.expCode, hm]
  | nan => exact (Nat.max_zero b).symm
  | inf neg => exact (Nat.max_zero b).symm

/-- The largest of a start and of a measure's values on a list: none exceeds it, and it is one of them. -/
theorem foldl_max_spec {α : Type} (f : α → Nat) (l : List α) (b : Nat) :
    let x := l.foldl (fun b v => max b (f v)) b
    b ≤ x ∧ (∀ v ∈ l, f v ≤ x) ∧ (x = b ∨ ∃ v ∈ l, f v = x) := by
  induction l generalizing b with
  | nil => simp
  | cons v r ih =>
    obtain ⟨hb, hle, hmem⟩ := ih (max b (f v))
    refine ⟨(le_max_left ..).trans hb, List.forall_mem_cons.mpr ⟨(le_max_right ..).trans hb, hle⟩, ?_⟩
    rcases hmem with hmem | ⟨u, hu, he⟩
    · rcases max_choice b (f v) with h | h
      · exact .inl (hmem.trans h)
      · exact .inr ⟨v, List.mem_cons_self, (hmem.trans h).symm⟩
    · exact .inr ⟨u, List.mem_cons_of_mem _ hu, he⟩

theorem expCode_le_blockExp {v : FVal} {vs : List FVal} (h : v ∈ vs) : v.expCode ≤ blockExp vs := (foldl_max_spec FVal.expCode vs 0).2.1 v h

theorem exists_expCode_eq_blockExp {vs : List FVal} (h : blockExp vs ≠ 0) : ∃ v ∈ vs, v.expCode = blockExp vs :=
  (foldl_max_spec FVal.expCode vs 0).2.2.resolve_left h

/-- A positive exponent code is that of a nonzero finite value. -/
theorem FVal.eq_fin_of_expCode {v : FVal} (h : v.expCode ≠ 0) :
    ∃ neg m e, v = .fin neg m e ∧ m ≠ 0 ∧ (Nat.log2 m : Int) + e + 150 = v.expCode := by
  cases v with
  | nan => exact absurd rfl h
  | inf neg => exact absurd rfl h
  | fin neg m e =>
    have hm : m ≠ 0 := fun h0 => h (by simp [FVal.expCode, h0])
    simp only [FVal.expCode, if_neg hm] at h ⊢
    exact ⟨neg, m, e, rfl, hm, by omega⟩

theorem blockFlags_testBit (vs : List FVal) :
    (blockFlags vs).testBit 2 = vs.contains .nan ∧ (blockFlags vs).testBit 1 = vs.contains (.inf false)
      ∧ (blockFlags vs).testBit 0 = vs.contains (.inf true) := by
  rw [blockFlags]
  cases vs.contains .nan <;> cases vs.contains (.inf false) <;> cases vs.contains (.inf true) <;> decide

/-- R177: a block's code by its flags and its largest exponent code. -/
theorem blockCode_spec {vs : List FVal}
    (hlt : ∀ (neg : Bool) (m : Nat) (x : Int), FVal.fin neg m x ∈ vs → (Nat.log2 m : Int) + x + 150 < 2 ^ 9) :
    let code : Nat := blockCode vs
    let eb : Nat := code % 2 ^ 13
    code.testBit 15 = vs.contains .nan ∧ code.testBit 14 = vs.contains (.inf false) ∧ code.testBit 13 = vs.contains (.inf true)
      ∧ (∀ (neg : Bool) (m : Nat) (x : Int), FVal.fin neg m x ∈ vs → m ≠ 0 → (Nat.log2 m : Int) + x + 150 ≤ eb)
      ∧ (eb = 0 ∨ ∃ (neg : Bool) (m : Nat) (x : Int), FVal.fin neg m x ∈ vs ∧ m ≠ 0 ∧ (Nat.log2 m : Int) + x + 150 = eb) := by
  have hmax : blockExp vs = 0 ∨ ∃ (neg : Bool) (m : Nat) (x : Int),
      FVal.fin neg m x ∈ vs ∧ m ≠ 0 ∧ (Nat.log2 m : Int) + x + 150 = blockExp vs := by
    refine or_iff_not_imp_left.mpr fun h0 => ?_
    obtain ⟨v, hv, he⟩ := exists_expCode_eq_blockExp h0
    obtain ⟨neg, m, x, rfl, hm, hx⟩ := FVal.eq_fin_of_expCode (he ▸ h0)
    exact ⟨neg, m, x, hv, hm, hx.trans (congrArg _ he)⟩
  have hbound : blockExp vs < 2 ^ 13 := by
    rcases hmax with h0 | ⟨neg, m, x, hmem, -, hx⟩
    · omega
    · have := hlt neg m x hmem
      omega
  obtain ⟨heb, hbits⟩ := code_fields (k := blockFlags vs) hbound
  obtain ⟨hnan, hpinf, hninf⟩ := blockFlags_testBit vs
  dsimp only
  rw [blockCode_eq, heb, hbits 15 (by omega), hbits 14 (by omega), hbits 13 (by omega)]
  refine ⟨hnan, hpinf, hninf, fun neg m x hmem hm => ?_, hmax⟩
  have hle := expCode_le_blockExp hmem
  simp only [FVal.expCode, if_neg hm] at hle
  omega

/-- The mask of the flags keeps a 16-bit number's bits from 13 up. -/
theorem and_flagMask {x : Nat} (h : x < 65536) : x &&& 0xE000 = 2 ^ 13 * (x / 2 ^ 13) := by
  apply Nat.eq_of_testBit_eq
  intro i
  have hmask : (0xE000 : Nat) = 2 ^ 13 * (2 ^ 3 - 1) := rfl
  rw [Nat.testBit_and, hmask, Nat.testBit_two_pow_mul, Nat.testBit_two_pow_mul, Nat.testBit_two_pow_sub_one, Nat.testBit_div_two_pow]
  by_cases hi : 13 ≤ i
  · by_cases hj : i < 16
    · simp [hi, show i - 13 < 3 by omega]
    · have hx : x.testBit i = false := Nat.testBit_lt_two_pow (h.trans_le (Nat.pow_le_pow_right two_pos (not_lt.mp hj)))
      simp [hi, hx]
  · simp [hi]

theorem combineCode_eq {a b : Nat} (ha : a < 65536) (hb : b < 65536) :
    combineCode a b = 2 ^ 13 * ((a ||| b) / 2 ^ 13) + max (a % 512) (b % 512) := by
  have hor : a ||| b < 2 ^ 16 := Nat.or_lt_two_pow ha hb
  rw [combineCode, ← and_flagMask hor]
  simp [Nat.mod_eq_of_lt ha, Nat.mod_eq_of_lt hb]

/-- R177: codes combine by OR of their flags and the maximum of their exponent codes. -/
theorem combineCode_spec {a b : Nat} (hae : a % 2 ^ 13 < 512) (hbe : b % 2 ^ 13 < 512) (ha : a < 65536) (hb : b < 65536) :
    combineCode a b % 2 ^ 13 = max (a % 2 ^ 13) (b % 2 ^ 13)
      ∧ ∀ i, 13 ≤ i → (combineCode a b).testBit i = (a.testBit i || b.testBit i) := by
  have hmod : ∀ x : Nat, x % 2 ^ 13 < 512 → x % 512 = x % 2 ^ 13 := fun x hx => by omega
  rw [combineCode_eq ha hb, hmod a hae, hmod b hbe]
  obtain ⟨heb, hbits⟩ := code_fields (k := (a ||| b) / 2 ^ 13) (show max (a % 2 ^ 13) (b % 2 ^ 13) < 2 ^ 13 by omega)
  refine ⟨heb, fun i hi => ?_⟩
  rw [hbits i hi, Nat.testBit_div_two_pow, Nat.testBit_or, Nat.sub_add_cancel hi]

/-! ### Aligned integers (R178) -/

/-- Is the magnitude m·2^e at least 2^(EB-149)? -/
def alignTop (eb m : Nat) (e : Int) : Bool := if 0 ≤ e + 149 - eb then true else decide (2 ^ ((eb : Int) - 149 - e).toNat ≤ m)

/-- The magnitude of an aligned integer. -/
def alignMag (eb m : Nat) (e : Int) : Nat :=
  if alignTop eb m e then 2 ^ 23 - 1
  else if 0 ≤ e + 172 - eb then m * 2 ^ (e + 172 - eb).toNat else m / 2 ^ (-(e + 172 - eb)).toNat

theorem alignInt_fin {eb m : Nat} (neg : Bool) (e : Int) (heb : 0 < eb) (hm : 0 < m) :
    alignInt eb (.fin neg m e) = if neg then -(alignMag eb m e : Int) else alignMag eb m e := by
  rw [alignInt, if_neg (by omega)]
  rfl

/-- Alignment takes 2^(EB-149) to 2^23. -/
theorem alignTop_iff {eb m : Nat} {e : Int} (hm : 0 < m) : alignTop eb m e = true ↔ (2 : ℚ) ^ 23 ≤ (m : ℚ) * 2 ^ (e + 172 - eb) := by
  unfold alignTop
  split
  case isTrue h =>
    have hpow : (2 : ℚ) ^ (23 : ℤ) ≤ 2 ^ (e + 172 - eb) := zpow_le_zpow_right₀ one_le_two (by omega)
    have hone : (1 : ℚ) ≤ m := Nat.one_le_cast.mpr hm
    refine iff_of_true rfl ?_
    calc (2 : ℚ) ^ 23 ≤ 2 ^ (e + 172 - eb) := by exact_mod_cast hpow
      _ ≤ m * 2 ^ (e + 172 - eb) := le_mul_of_one_le_left (by positivity) hone
  case isFalse h =>
    have hsplit : (2 : ℚ) ^ 23 = ((2 ^ ((eb : Int) - 149 - e).toNat : Nat) : ℚ) * 2 ^ (e + 172 - eb) := by
      rw [Nat.cast_pow, Nat.cast_ofNat, ← zpow_natCast (2 : ℚ) (Int.toNat _), Int.toNat_of_nonneg (by omega), ← zpow_add₀ two_ne_zero,
        show (eb : Int) - 149 - e + (e + 172 - eb) = (23 : Nat) by omega, zpow_natCast]
    rw [decide_eq_true_iff, hsplit, mul_le_mul_iff_left₀ (by positivity), Nat.cast_le]

/-- A value below the bound is aligned toward zero. -/
theorem alignMag_of_lt {eb m : Nat} {e : Int} (hm : 0 < m) (h : (m : ℚ) * 2 ^ (e + 172 - eb) < 2 ^ 23) :
    (alignMag eb m e : Int) = ⌊(m : ℚ) * 2 ^ (e + 172 - eb)⌋ := by
  have hfloor := alignTo_floor m (e + 172 - eb)
  rw [Int.cast_natCast] at hfloor
  rw [← hfloor, alignMag, if_neg (mt (alignTop_iff hm).mp (not_le.mpr h)), alignTo]
  split
  · simp
  · simp

theorem alignMag_of_le {eb m : Nat} {e : Int} (hm : 0 < m) (h : (2 : ℚ) ^ 23 ≤ (m : ℚ) * 2 ^ (e + 172 - eb)) :
    alignMag eb m e = 2 ^ 23 - 1 := by
  rw [alignMag, if_pos ((alignTop_iff hm).mpr h)]

/-- R178: an aligned integer by the value it stands for. -/
theorem alignInt_spec {eb m : Nat} (neg : Bool) (e : Int) (heb : 0 < eb) (hm : 0 < m) :
    let q := alignInt eb (.fin neg m e)
    let v : ℚ := (m : ℚ) * 2 ^ (e + 172 - eb)
    (v < 2 ^ 23 → (q.natAbs : ℚ) ≤ v ∧ v < q.natAbs + 1) ∧ (2 ^ 23 ≤ v → q.natAbs = 2 ^ 23 - 1) ∧ (q ≠ 0 → (q < 0 ↔ neg = true)) := by
  have habs : (alignInt eb (.fin neg m e)).natAbs = alignMag eb m e := by
    rw [alignInt_fin neg e heb hm]
    cases neg <;> simp
  dsimp only
  rw [habs]
  refine ⟨fun h => ?_, alignMag_of_le hm, fun hq => ?_⟩
  · obtain ⟨hle, hlt⟩ := Int.floor_eq_iff.mp (alignMag_of_lt hm h).symm
    exact ⟨by exact_mod_cast hle, by exact_mod_cast hlt⟩
  · rw [alignInt_fin neg e heb hm] at hq ⊢
    cases neg <;> simp at hq ⊢
    omega

/-! ### What ROOT writes (R179) -/

section
variable (f : FFmt) {code : Nat} {sum : Int}

theorem rootElem_of_nan (h : code.testBit 15 = true ∨ (code.testBit 14 = true ∧ code.testBit 13 = true)) : rootElem f code sum = f.nan := by
  simp only [rootElem, Bool.or_eq_true, Bool.and_eq_true, if_pos h]

theorem rootElem_of_inf (hn : code.testBit 15 = false) (h : code.testBit 14 ≠ code.testBit 13) :
    rootElem f code sum = f.round .rne false (.inf (code.testBit 13)) := by
  have hp : code.testBit 14 = !code.testBit 13 := Bool.eq_not.mpr h
  simp [rootElem, hn, hp]

variable (hn : code.testBit 15 = false) (hp : code.testBit 14 = false) (hm : code.testBit 13 = false)
include hn hp hm

theorem rootElem_of_zero (h : code % 512 = 0 ∨ sum = 0) : rootElem f code sum = 0 := by
  simp [rootElem, hn, hp, hm, h]

theorem rootElem_of_finite (hs : sum ≠ 0) (he : code % 512 ≠ 0) :
    rootElem f code sum = f.round .rne false (.fin (sum < 0) sum.natAbs (((code % 512 : Nat) : Int) - 172)) := by
  simp [rootElem, hn, hp, hm, hs, he]

end

/-- R177 to R179: a code by its fields, an aligned integer by its value, and ROOT's element by its code's flags. -/
theorem reductionFormat : ReductionFormat := by
  refine ⟨fun vs => blockCode_spec, fun eb m neg e => alignInt_spec neg e, fun a b => combineCode_spec, fun f code sum => ?_⟩
  exact ⟨rootElem_of_nan f, rootElem_of_inf f, rootElem_of_zero f, rootElem_of_finite f⟩

/-- Settles O41: a load's requests by the lanes on each line, a store's runs by an invariant over its lanes, a flow by the end that its
packet finds open, and the reduction format by the fields of its codes. -/
theorem packetsFlowsAndReductions : Obligations.PacketsFlowsAndReductions :=
  ⟨remotePacketsCoverLanes, flowsNumberPackets, reductionFormat⟩

end Sys2Proof.Machine
end
